-- ==== Sys2Proof/Word.lean ====
section
/-! DEFINITION. The byte type (R6: every multi-byte value is little-endian). -/

namespace Sys2Proof

/-- One byte. -/
abbrev Byte := BitVec 8

end Sys2Proof
end

