-- ==== Sys2Proof/Syntax.lean ====
section
/-! DEFINITION. The commands of the block: one constructor of `Instr` for each row of spec/opcode_table.json, in the
table's order, with the operands of the row. Values that only the outside world knows (a temperature, a stamp, the bytes of a
packet) are operands. -/

namespace Sys2Proof

/-- The two requesters of the register pages (R369). -/
inductive Requester where
  | host
  | mgt
deriving DecidableEq, Repr

/-- A core engine: cluster, logical core within it, engine code 0–7 (R10, R39). -/
structure CoreEng where
  cl : Fin 16
  core : Fin 6
  eng : Fin 8
deriving DecidableEq, Repr

/-- Every engine of R15, core engines and die-level engines. -/
inductive EngineId where
  | core (e : CoreEng)
  | pe (n : Fin 12)
  | hbe
  | sse
  | ht (n : Fin 12)
  | dt (n : Fin 8)
  | me (cl : Fin 16) (i : Fin 2)
deriving DecidableEq, Repr

/-- The engines that run slot programs (R82). -/
inductive SlotEng where
  | pe (n : Fin 12)
  | me (cl : Fin 16) (i : Fin 2)
deriving DecidableEq, Repr

/-- A memory unit: an HBM stack or a DDR5 channel (R18). -/
inductive MemUnit where
  | hbm (n : Fin 12)
  | ddr (n : Fin 8)
deriving DecidableEq, Repr

/-- The reset domains of R329 below the module. -/
inductive Domain where
  | engine (e : EngineId)
  | core (cl : Fin 16) (k : Fin 6)
  | cluster (cl : Fin 16)
deriving DecidableEq, Repr

/-- What patrol scrubbing reads (R175): a memory unit, or an SRAM of a cluster: 0 its store, 1 to 6 the WSP of a core, 7 to 12 the ASP of one. -/
inductive ScrubTarget where
  | unit (u : MemUnit)
  | sram (cl : Fin 16) (bank : Fin 13)
deriving DecidableEq, Repr

/-- The second member of a race (R108), B: a token slot of a core's table, or, in the cluster store's table, of its cluster. -/
structure RaceMember where
  cl : Fin 16
  core : Fin 6
  slot : Fin 128
deriving DecidableEq, Repr

/-- The move classes of R170. -/
inductive MoveClass where
  | kv
  | headbox
  | host
deriving DecidableEq, Repr

/-- Which bytes the reset inputs of J1 name (R431). -/
inductive ResetPin where
  | perst
  | mod
  | mgt
deriving DecidableEq, Repr

/-- What decoded from a wire position (R216): an intact codeword's 280 bytes, or an uncorrectable codeword. -/
inductive WireFlit where
  | bytes (b : List Byte)
  | uncorrectable
deriving DecidableEq, Repr

/-- The measurements of one module-recovery run (R331, R71, R180), supplied by the hardware as it measures them. -/
structure Recovery where
  xing : List Nat
  bistOk : Bool
  harvestOk : Bool
  bistCluster : Fin 16
  trimFail : Option (Fin 64)
  abort : Option (BitVec 32)
  pop : List Nat
  caps : List Nat
  ranks : List Bool
  refPresent : Bool
  sysref : Bool
deriving DecidableEq, Repr

/-- What the machine takes from the signed configuration record (R409): its version, the module identity, whether the part is stepping B0, and
the harvest map: the physical core held in reset in each cluster (R21, R22). -/
structure ConfigRecord where
  version : Fin 65536
  identity : BitVec 64
  b0 : Bool
  harvest : List (Fin 7)
deriving DecidableEq, Repr

/-- One entry of an accepted RSA verification: modulus bytes are the key store's (R292). -/
structure SignedMsg where
  body : List Byte
  signature : List Byte
deriving DecidableEq, Repr

/-- The parts a readmission self-test can fail in (R414): 0 pass, else the code of SELFTEST_RESULT.PART. -/
abbrev TestPart := Fin 7

/-- The commands. -/
inductive Instr where
  -- jobs and the plan
  | jobStart (rq : Requester)
  | jobOrigin
  | sheetBoundary
  | stretchQuantumStart
  | stretchQuantumEnd
  | deckleFlitArrival (port : Fin 12) (header : BitVec 128) (hops : Fin 64) (payload : List Byte)
  | announceHalfEnd
  | deckleCommit
  | requestComputation
  -- timebase
  | timingExchange (port : Fin 12) (t1 t2 t3 t4 : Nat) (depth : Fin 128) (lock : Fin 8) (root : Bool) (rootId : Fin 262144) (intact : BitVec 4)
  | upstreamLost
  | holdoverExpired
  | standbyRootPromote
  | acquireComplete
  | sysrefLost
  | sysrefDetected
  | ppsEdge
  | referenceLoss
  | treeCfgWrite (rq : Requester) (v : BitVec 32)
  | wallStep
  | wallAdjWrite (rq : Requester) (v : BitVec 32)
  -- regional clocks, power, temperature
  | regionStopBegin (cl : Fin 16)
  | generatorLock (cl : Fin 16)
  | freqChangeFail (cl : Fin 16)
  | droopEvent (cl : Fin 16)
  | sagWarn (mv : Nat)
  | sagClear (mv : Nat)
  | supplyReset (mv : Nat)
  | overvolt (mv : Nat)
  | powerWindowEnd (avg peak minMv : Nat)
  | thermalSample (cl : Fin 16) (t0 t1 t2 t3 : Nat)
  | thermalTrip (point : Fin 64) (degc : Nat)
  | thermalReset (point : Fin 64) (degc : Nat)
  | coolantRange (inlet outlet : Nat)
  | memoryOvertemp (u : MemUnit) (degc : Nat)
  -- core-engine operations
  | nop (e : CoreEng)
  | opEnd (e : CoreEng)
  | sheetEnd (e : CoreEng)
  | loop (e : CoreEng)
  | loopPadEnd (e : CoreEng)
  | setcnt (e : CoreEng)
  | bar (e : CoreEng)
  | barrierComplete (cl : Fin 16) (k : Fin 6) (b : Fin 16)
  | sync (e : CoreEng)
  | waitSatisfied (e : CoreEng)
  | hint (e : CoreEng)
  | mma (e : CoreEng)
  | mmaComplete (e : CoreEng)
  | wload (e : CoreEng)
  | wloadBroadcastEnd (cl : Fin 16) (k : Fin 6)
  | swap (e : CoreEng)
  | swapEffect (cl : Fin 16) (k : Fin 6)
  | drain (e : CoreEng)
  | drainComplete (e : CoreEng)
  | vadd (e : CoreEng)
  | vsub (e : CoreEng)
  | vmul (e : CoreEng)
  | vfma (e : CoreEng)
  | vdiv (e : CoreEng)
  | vsqrt (e : CoreEng)
  | vrecip (e : CoreEng)
  | vrsqrt (e : CoreEng)
  | vexp2 (e : CoreEng)
  | vlog2 (e : CoreEng)
  | vmin (e : CoreEng)
  | vmax (e : CoreEng)
  | vabs (e : CoreEng)
  | vneg (e : CoreEng)
  | vcmp (e : CoreEng)
  | vsel (e : CoreEng)
  | vcvtTo (e : CoreEng)
  | vcvtFrom (e : CoreEng)
  | aclr (e : CoreEng)
  | aacc (e : CoreEng)
  | aload (e : CoreEng)
  | alane (e : CoreEng)
  | acvt (e : CoreEng)
  | astore (e : CoreEng)
  | fred (e : CoreEng)
  | fmacc (e : CoreEng)
  | rand (e : CoreEng)
  | move (e : CoreEng) (partner : Option (Fin 128))
  | gather (e : CoreEng)
  | gatherComplete (e : CoreEng)
  | imload (e : CoreEng)
  | svcread (e : CoreEng)
  | opComplete (e : CoreEng)
  | deadlineCheck (e : CoreEng)
  | dieEngineHangCheck (e : EngineId) (tick : Nat)
  | haltReq (rq : Requester) (e : EngineId)
  | check (e : EngineId)
  | tokenTableWrite (rq : Requester) (addr : BitVec 26) (v : BitVec 32)
  -- resets below the module
  | engineReset (rq : Requester) (e : EngineId)
  | coreReset (rq : Requester) (cl : Fin 16) (k : Fin 6)
  | clusterReset (rq : Requester) (cl : Fin 16)
  | meReset (rq : Requester) (cl : Fin 16) (i : Fin 2)
  | resetAbandonTimeout (d : Domain)
  | resetComplete (d : Domain)
  -- memory tiers
  | tread (u : MemUnit)
  | treadDeliver (u : MemUnit)
  | twrite (u : MemUnit)
  | refreshWindow (u : MemUnit)
  | patrolScrub (t : ScrubTarget) (corrected uncorrectable : Bool)
  | moveSlot (u : MemUnit) (c : MoveClass)
  -- slot programs
  | idle (e : SlotEng) (ch : Fin 128)
  | send (e : SlotEng) (ch : Fin 128) (partner : Option RaceMember)
  | fwd (e : SlotEng) (ch : Fin 128)
  | mcast (e : SlotEng)
  | outset (e : SlotEng)
  | repeatOp (e : SlotEng)
  | scheduledFlitArrival (port : Fin 12) (header : BitVec 128) (payload : List Byte)
  | deliver (e : SlotEng) (input : Fin 128)
  | hold (e : SlotEng) (input : Fin 128)
  | heldEntryDiscard (e : SlotEng) (input : Fin 128)
  | epochTailEnd
  | sideFlit (cl : Fin 16) (out : Fin 128)
  -- link layer
  | flitTransmit (port : Fin 12) (pos : Fin 16)
  | flitReceive (port : Fin 12) (slotPos : Bool) (f : WireFlit)
  | nakRepeat (port : Fin 12) (seq : Fin 4096)
  | linkDownTimeout (port : Fin 12)
  | retrainLink (rq : Requester) (port : Fin 12)
  | linkOff (port : Fin 12) (copies : List (BitVec 40))
  | enableWrite (rq : Requester) (port : Fin 12) (v : BitVec 32)
  | signalDetected (port : Fin 12)
  | equaliseComplete (port : Fin 12) (txMask rxMask : BitVec 8)
  | alignComplete (port : Fin 12) (locked : BitVec 8)
  | identifyComplete (port : Fin 12) (x y z : Fin 64) (rx ry rz : Fin 128) (peerPort : Fin 12) (peerTx peerRx : BitVec 8) (version : Fin 16)
  | trainTimeout (port : Fin 12)
  | degradeWindowEnd (port : Fin 12) (sym : List Nat) (sb : List Nat) (uncorr : Nat) (lockHeld : BitVec 8)
  | laneLost (port : Fin 12) (lane : Fin 8)
  | retrainLane (rq : Requester) (port : Fin 12) (lanes : BitVec 8)
  | dropReq (port : Fin 12) (copies : List (BitVec 40))
  | addReq (port : Fin 12) (copies : List (BitVec 40))
  | change (port : Fin 12) (copies : List (BitVec 40))
  | changeAck (port : Fin 12) (copies : List (BitVec 40)) (ptBeforeS : Nat)
  | laneRequestResend (port : Fin 12)
  | widthSwitch (port : Fin 12) (tx : Bool)
  -- service plane
  | servicePacketReceive (port : Option (Fin 12)) (vc : Fin 8) (flits : List (List Byte))
  | svcRead (src : Option (Fin 12)) (header : List Byte)
  | svcWrite (src : Option (Fin 12)) (header : List Byte) (data : List Byte)
  | svcMailbox (src : Option (Fin 12)) (header : List Byte) (data : List Byte)
  | telRead (src : Option (Fin 12)) (header : List Byte)
  | mctp (secured : Bool) (tagOk : Bool) (msgType : Fin 256) (data : List Byte)
  | serviceResponse (port : Option (Fin 12)) (header : List Byte) (data : List Byte)
  | niRequestTimeout (token : BitVec 32)
  | staleEntryFree (port : Fin 12) (token : BitVec 32)
  | rtCheck
  | rtFlip (rq : Requester)
  | rtTailEnd
  | telemetryWindowEnd (port : Fin 12)
  | keyExchange (accepted : Bool)
  | getCertificate
  | challenge (nonce : List Byte)
  | getMeasurements (nonce : List Byte)
  | heartbeat (session : Fin 16)
  | keyUpdate (session : Fin 16)
  | sessionHeartbeatTimeout (session : Fin 16)
  | requestUpdate (session : Fin 16) (component : Fin 65536) (m : SignedMsg)
  | requestFirmwareData (viaI3c : Bool) (offset : Nat) (data : List Byte)
  | verifyComplete
  | activateFirmware (session : Fin 16) (m : SignedMsg)
  | operatorRestartRequest (session : Fin 16)
  | keyEnrol (revoke : Bool) (slot : Fin 8) (m : SignedMsg)
  | operatorRootKeyWrite (viaI3c : Bool) (key : List Byte) (m : SignedMsg)
  | endpointTableWrite (session : Fin 16) (eid : Fin 256) (coord : Fin 262144)
  | levelChangeRequest (session : Fin 16) (level : BitVec 8)
  | linkEventNotice (port : Fin 12) (kind : Fin 4) (time : Nat)
  -- serving
  | stepCutoff
  | stepBuild
  | stepBuildDeadline
  | pageCopyComplete (target : MemUnit) (ok : Bool)
  | pageZeroComplete (target : MemUnit) (ok : Bool)
  | resultsCopy
  | ringEntriesWrite (rq : Requester) (v : BitVec 32)
  -- headbox
  | intakeOpen (rq : Requester) (desc : Fin 4)
  | manifestCheckComplete
  | chunkComplete
  | chunksAvailWrite (rq : Requester) (v : BitVec 32)
  | hdbAbort (rq : Requester) (desc : Fin 4)
  | hdbActivate (rq : Requester) (desc : Fin 4)
  | setRelease (rq : Requester) (desc : Fin 4)
  | wsDescriptorWrite (rq : Requester) (desc : Fin 4) (reg : Fin 3) (v : BitVec 32)
  | manBaseWrite (rq : Requester) (hi : Bool) (v : BitVec 32)
  -- teardown and health
  | teardown (rq : Requester)
  | teardownTick
  | teardownDrainEnd
  | teardownScrubStart
  | teardownScrubComplete
  | releaseKept (rq : Requester)
  | keptReleaseComplete (r : Fin 16)
  | keptEntryWrite (rq : Requester) (r : Fin 16) (reg : Fin 3) (v : BitVec 32)
  | healthRecompute
  | selftest (rq : Requester)
  | selftestComplete (part : TestPart)
  -- PCIe function, pins, module resets
  | flr
  | d3hotEntry
  | perstN (ns : Nat)
  | modRstN (ns : Nat)
  | mgtRstN (ns : Nat)
  | moduleReset (rq : Option Requester)
  | moduleResetDone (r : Recovery)
  | powerOn
  -- windows
  | deviceWindowRead (off : Nat) (len : Nat)
  | deviceWindowWrite (off : Nat) (data : List Byte)
  | imemWindowWrite (e : EngineId) (off : Nat) (data : List Byte)
  | stagingWrite (off : Nat) (data : List Byte)
  | netifWindowWrite (off : Nat) (data : List Byte)
  -- DMA
  | qTailWrite (rq : Requester) (q : Fin 8) (v : BitVec 32)
  | h2d (q : Fin 8) (hostFault : Bool)
  | d2h (q : Fin 8) (hostFault : Bool)
  | remoteRead (q : Fin 8)
  | imemH2d (q : Fin 8) (hostFault : Bool)
  | dmaComplete (q : Fin 8)
  | qDisable (rq : Requester) (q : Fin 8)
  -- loading
  | loadStart (rq : Requester)
  | loadDone
  | discard (rq : Requester)
  -- registers
  | guardUnlock (rq : Requester) (key : BitVec 32)
  | guardExpire (rq : Requester)
  | registerWrite (rq : Requester) (addr : BitVec 27) (v : BitVec 32)
  | errStickyWrite (rq : Requester) (addr : BitVec 26) (v : BitVec 32)
  | pairLoRead (rq : Requester) (addr : BitVec 26)
  | coordWrite (rq : Requester) (hi : Bool) (v : BitVec 32)
  | adopt (rq : Requester)
  | configPassEnd
  | logSelWrite (rq : Requester) (v : BitVec 32)
  -- management and boot
  | bootRetry (rq : Requester)
  | behaviourRequestedWrite (rq : Requester) (v : BitVec 32)
  | managementRestart
  | bootRomVerify (copyAOk copyBOk : Bool) (svnA svnB : Fin 256)
  | stage1Complete (record : ConfigRecord) (recOk : Bool) (pufBits : Nat) (pufOk : Bool) (fwOk : Bool) (fwSvn : Fin 256)
  | bootOk
  | stageTimeout (stage : Fin 3)
  | sensorSample (sensor : Fin 64) (value : Nat) (answers : Bool)
  | referenceRestored
  | resetInputRelease (pin : ResetPin)
  | flrComplete
  | d3hotExit
  | ppsTimeout
deriving DecidableEq, Repr

end Sys2Proof
end

