-- ==== Sys2Proof/Machine/Bits.lean ====
section
/-! DEFINITION. Bit fields, sign, byte order and saturation: the helpers every other file uses (R6, R7). -/

namespace Sys2Proof.Machine

/-- Bits [lsb + w − 1 : lsb] of v (R6). -/
def bits (v lsb w : Nat) : Nat := v / 2 ^ lsb % 2 ^ w

/-- One bit of v. -/
def bit (v i : Nat) : Bool := v / 2 ^ i % 2 == 1

/-- 1 or 0. -/
def b2n (b : Bool) : Nat := if b then 1 else 0

/-- v with bits [lsb + w − 1 : lsb] replaced by x. -/
def setBits (v lsb w x : Nat) : Nat := v - bits v lsb w * 2 ^ lsb + x % 2 ^ w * 2 ^ lsb

/-- v with bit i set, or cleared. -/
def setBit (v i : Nat) (b : Bool) : Nat := setBits v i 1 (b2n b)

/-- The two's-complement reading of the low w bits. -/
def toSigned (w v : Nat) : Int :=
  if v % 2 ^ w < 2 ^ (w - 1) then (v % 2 ^ w : Nat) else (v % 2 ^ w : Nat) - (2 ^ w : Nat)

/-- The low w bits of an integer. -/
def ofSigned (w : Nat) (i : Int) : Nat := (i % (2 ^ w : Nat)).toNat

/-- Rounded-up division; 0 by convention of Nat division when the divisor is 0. -/
def ceilDiv (a b : Nat) : Nat := (a + b - 1) / b

/-- A count that stops at its largest w-bit value. -/
def satAdd (w a n : Nat) : Nat := min (a + n) (2 ^ w - 1)

/-- Little-endian bytes as a number (R6). -/
def leNat : List Byte → Nat
  | [] => 0
  | b :: r => b.toNat + 256 * leNat r

/-- Big-endian bytes as a number (R290's signature form). -/
def beNat (bs : List Byte) : Nat := bs.foldl (fun a b => a * 256 + b.toNat) 0

/-- The n little-endian bytes of a number (R6). -/
def natLe : Nat → Nat → List Byte
  | 0, _ => []
  | n + 1, v => BitVec.ofNat 8 v :: natLe n (v / 256)

/-- The n big-endian bytes of a number. -/
def natBe (n v : Nat) : List Byte := (natLe n v).reverse

/-- n zero bytes. -/
def zeros (n : Nat) : List Byte := List.replicate n 0

/-- The bytes [off, off + n) of a list, zero past its end. -/
def slice (bs : List Byte) (off n : Nat) : List Byte :=
  let r := (bs.drop off).take n
  r ++ zeros (n - r.length)

/-- Little-endian field of n bytes at off. -/
def fieldLe (bs : List Byte) (off n : Nat) : Nat := leNat (slice bs off n)

/-- All bytes of a list are zero. -/
def allZero (bs : List Byte) : Bool := bs.all (· == 0)

/-- Bitwise exclusive or, and, or of numbers, by Lean's own Nat operations. -/
def xor (a b : Nat) : Nat := a ^^^ b

/-- Number of set bits of the low n bits. -/
def popcount (n v : Nat) : Nat := (List.range n).foldl (fun a i => a + b2n (bit v i)) 0

/-- The lowest set bit below n, if any. -/
def lowestBit (n v : Nat) : Option Nat := (List.range n).find? (bit v)

/-- floor(log2 n), 0 for 0. -/
def log2 (n : Nat) : Nat := Nat.log2 n

/-- Integer square root by bisection on bits: the largest r with r² ≤ n, for n < 4^k. -/
def isqrtAux (n : Nat) : Nat → Nat → Nat
  | 0, r => r
  | k + 1, r => if (r + 2 ^ k) * (r + 2 ^ k) ≤ n then isqrtAux n k (r + 2 ^ k) else isqrtAux n k r

/-- Integer square root. -/
def isqrt (n : Nat) : Nat := isqrtAux n (Nat.log2 n / 2 + 1) 0

end Sys2Proof.Machine
end

