-- ==== Sys2Proof/Machine/Crc.lean ====
section
/-! DEFINITION. The cyclic redundancy checks: CRC-32C (R383) and the flit CRC-64 (R216), both least significant bit first. -/

namespace Sys2Proof.Machine

/-- n steps of a reflected CRC register. -/
def crcSteps (poly : Nat) : Nat → Nat → Nat
  | 0, c => c
  | n + 1, c => crcSteps poly n (if c % 2 = 1 then xor (c / 2) poly else c / 2)

/-- One byte into the register. -/
def crcByte (poly c : Nat) (b : Byte) : Nat := crcSteps poly 8 (xor c b.toNat)

/-- Bytes into a register, first byte first. (The match makes an evaluation compute each register value before the next byte.) -/
def crcBytes (poly : Nat) : List Byte → Nat → Nat
  | [], c => c
  | b :: r, c => match crcByte poly c b with
    | 0 => crcBytes poly r 0
    | k + 1 => crcBytes poly r (k + 1)

/-- Bytes into a CRC-32C register (R383). -/
def crc32cUpd (c : Nat) (bs : List Byte) : Nat := crcBytes 0x82F63B78 bs c

/-- CRC-32C: Castagnoli, initial value and final XOR all ones (R383). -/
def crc32c (bs : List Byte) : Nat := xor (crc32cUpd 0xFFFFFFFF bs) 0xFFFFFFFF

/-- CRC-64 over flit bytes: polynomial 0x42F0_E1EB_A9EA_3693 with bits least significant first (R216). -/
def crc64 (bs : List Byte) : Nat := xor (crcBytes 0xC96C5795D7870F42 bs 0xFFFFFFFFFFFFFFFF) 0xFFFFFFFFFFFFFFFF

end Sys2Proof.Machine
end

