-- ==== Sys2Proof/Machine/Sparse.lean ====
section
/-! DEFINITION. Sparse tables: a list of (key, value) pairs with keys strictly rising and no entry equal to the default that
an unlisted key reads as. Registers, memories and per-instance state are held so, and equal contents are equal lists. -/

namespace Sys2Proof.Machine

/-- The value at a key; the default where the key is not listed. -/
def Tab.get {α : Type} (t : List (Nat × α)) (d : α) (k : Nat) : α :=
  match t with
  | [] => d
  | (a, v) :: r => if a = k then v else Tab.get r d k

/-- The table without a key. -/
def Tab.del {α : Type} (t : List (Nat × α)) (k : Nat) : List (Nat × α) :=
  match t with
  | [] => []
  | (a, v) :: r => if a = k then Tab.del r k else (a, v) :: Tab.del r k

/-- A new entry before the first larger key. -/
def Tab.ins {α : Type} (t : List (Nat × α)) (k : Nat) (v : α) : List (Nat × α) :=
  match t with
  | [] => [(k, v)]
  | (a, w) :: r => if k < a then (k, v) :: (a, w) :: r else (a, w) :: Tab.ins r k v

/-- A write: the entry replaced, or removed where the new value is the default. -/
def Tab.put {α : Type} [DecidableEq α] (t : List (Nat × α)) (d : α) (k : Nat) (v : α) : List (Nat × α) :=
  if v = d then Tab.del t k else Tab.ins (Tab.del t k) k v

/-- The table without the keys of [lo, hi). -/
def Tab.clear {α : Type} (t : List (Nat × α)) (lo hi : Nat) : List (Nat × α) :=
  match t with
  | [] => []
  | (a, v) :: r => if lo ≤ a ∧ a < hi then Tab.clear r lo hi else (a, v) :: Tab.clear r lo hi

/-- Every key of the table is above b, and the keys rise. -/
def Tab.above {α : Type} (b : Nat) (t : List (Nat × α)) : Bool :=
  match t with
  | [] => true
  | (a, _) :: r => decide (b ≤ a) && Tab.above (a + 1) r

/-- The canonical form of keys: strictly rising. -/
def Tab.rising {α : Type} (t : List (Nat × α)) : Bool := Tab.above 0 t

/-- A byte memory: unlisted addresses read 0 (DESIGN CHOICE, log entry 4). -/
abbrev Memory := List Host.Cell

/-- One byte. -/
def Memory.read (m : Memory) (a : Nat) : Byte := Tab.get m 0 a

/-- One byte written. -/
def Memory.write (m : Memory) (a : Nat) (v : Byte) : Memory := Tab.put m 0 a v

/-- n bytes from a. -/
def Memory.readN (m : Memory) (a : Nat) : Nat → List Byte
  | 0 => []
  | n + 1 => Memory.read m a :: Memory.readN m (a + 1) n

/-- Bytes written from a on. -/
def Memory.writeN (m : Memory) (a : Nat) : List Byte → Memory
  | [] => m
  | b :: r => Memory.writeN (Memory.write m a b) (a + 1) r

/-- The bytes of [lo, hi) become zero. -/
def Memory.zero (m : Memory) (lo hi : Nat) : Memory := Tab.clear m lo hi

/-- The canonical form: addresses strictly rising, no entry equal to what an unlisted address reads as. -/
def Memory.wf (m : Memory) : Bool := Tab.rising m && m.all (fun c => c.2 != 0)

/-- A little-endian number of n bytes at a. -/
def Memory.num (m : Memory) (a n : Nat) : Nat := leNat (Memory.readN m a n)

/-- A little-endian number of n bytes written at a. -/
def Memory.putNum (m : Memory) (a n v : Nat) : Memory := Memory.writeN m a (natLe n v)

end Sys2Proof.Machine
end

