-- ==== Sys2Proof/Machine/RegField.lean ====
section
/-! DEFINITION. What a register field is (R8, R9) and how a page lists its fields. -/

namespace Sys2Proof.Machine

/-- The access types of R8; `cmd` is a masked command bit ("clears itself", R376), `rm` a stored masked bit. -/
inductive FKind where
  | ro
  | rw
  | rm
  | cmd
  | sc
deriving DecidableEq, Repr

/-- A field: the BAR0 address of its (first) word, its lowest bit there, its width (over 32 for a register pair), its type,
whether it is guarded (G), whether it is a configuration field (R382), and its reset value. -/
structure Field where
  addr : Nat
  lsb : Nat
  width : Nat
  kind : FKind
  guarded : Bool
  config : Bool
  reset : Nat
deriving DecidableEq, Repr

/-- The key a field's value is held under: no two fields share an address and a lowest bit. -/
def Field.key (f : Field) : Nat := f.addr * 32 + f.lsb

/-- A line of a page's field table: a first field, and how many times it repeats at which stride. -/
structure Row where
  field : Field
  stride : Nat
  count : Nat
deriving DecidableEq, Repr

/-- The i-th repetition of a row's field. -/
def Row.at (r : Row) (i : Nat) : Field := { r.field with addr := r.field.addr + r.stride * i }

/-- The word of the row that lies at a word address, if any: the field and which 32-bit word of it. -/
def Row.find (r : Row) (a : Nat) : Option (Field × Nat) :=
  let words := if r.field.width ≤ 32 then 1 else (r.field.width + 31) / 32
  if a < r.field.addr then none
  else
    let o := a - r.field.addr
    let i := if r.stride = 0 then 0 else o / r.stride
    let o' := o - r.stride * i
    if i < max r.count 1 ∧ o' % 4 = 0 ∧ o' / 4 < words then some (r.at i, o' / 4) else none

end Sys2Proof.Machine
end

