-- ==== Sys2Proof/Machine/RegMap.lean ====
section
/-! DEFINITION. The register map: one definition for every field of every register page, named PAGE.REGISTER
(PAGE.REGISTER_FIELD where the register has several fields), with its absolute BAR0 address, its place in the word, its
access type and its reset value, all from the field tables of spec/ (the rule is named at each page). A pair of registers
_LO/_HI is one wide field at the _LO address (R7). A page with several instances takes its base address b; a register
that repeats within a page takes its index i. ErrBit holds the sticky-bit positions. The lists `rows…` give each page’s fields for
raw reads, raw writes and the configuration CRC. A field whose Reset column is a dash resets to 0 (DESIGN CHOICE, log entry 3). -/

namespace Sys2Proof.Machine

/-! ### TBS (R78; spec/03_timebase.md) -/

def Reg.TBS.PLAN_TIME : Field := ⟨0x2040, 0, 64, .ro, false, false, 0⟩
def Reg.TBS.SCHED_TIME : Field := ⟨0x2048, 0, 64, .ro, false, false, 0⟩
def Reg.TBS.STRETCH_OFFSET : Field := ⟨0x2050, 0, 64, .ro, false, false, 0⟩
def Reg.TBS.SHEET_NUM : Field := ⟨0x2058, 0, 48, .ro, false, false, 0⟩
def Reg.TBS.HALT_SHEET : Field := ⟨0x2060, 0, 48, .ro, false, false, 0⟩
def Reg.TBS.HALT_SHEET_VALID : Field := ⟨0x2064, 31, 1, .ro, false, false, 0⟩
def Reg.TBS.JOB_ORIGIN : Field := ⟨0x2068, 0, 64, .ro, false, false, 0⟩
def Reg.TBS.STATE_LOCK_STATE : Field := ⟨0x2070, 0, 3, .ro, false, false, 0⟩
def Reg.TBS.STATE_ROOT : Field := ⟨0x2070, 3, 1, .ro, false, false, 0⟩
def Reg.TBS.STATE_UPSTREAM : Field := ⟨0x2070, 4, 4, .ro, false, false, 15⟩
def Reg.TBS.STATE_DEPTH : Field := ⟨0x2070, 8, 7, .ro, false, false, 127⟩
def Reg.TBS.STATE_IN_JOB : Field := ⟨0x2070, 15, 1, .ro, false, false, 0⟩
def Reg.TBS.STATE_SYSREF_PRESENT : Field := ⟨0x2070, 16, 1, .ro, false, false, 0⟩
def Reg.TBS.STATE_PPS_PRESENT : Field := ⟨0x2070, 17, 1, .ro, false, false, 0⟩
def Reg.TBS.TREE_CFG_ROLE : Field := ⟨0x2074, 0, 1, .rw, true, true, 0⟩
def Reg.TBS.TREE_CFG_ROOT_REF : Field := ⟨0x2074, 1, 1, .rw, true, true, 0⟩
def Reg.TBS.TREE_CFG_CAND0 : Field := ⟨0x2074, 4, 4, .rw, true, true, 15⟩
def Reg.TBS.TREE_CFG_CAND1 : Field := ⟨0x2074, 8, 4, .rw, true, true, 15⟩
def Reg.TBS.TREE_CFG_CAND2 : Field := ⟨0x2074, 12, 4, .rw, true, true, 15⟩
def Reg.TBS.TREE_CFG_CAND3 : Field := ⟨0x2074, 16, 4, .rw, true, true, 15⟩
def Reg.TBS.TREE_CFG_AUTO_FAILOVER : Field := ⟨0x2074, 20, 1, .rw, true, true, 1⟩
def Reg.TBS.TREE_CFG_STANDBY_ROOT : Field := ⟨0x2074, 21, 1, .rw, true, true, 0⟩
def Reg.TBS.OFFSET_EST : Field := ⟨0x2078, 0, 24, .ro, false, false, 0⟩
def Reg.TBS.FREQ_EST : Field := ⟨0x207c, 0, 32, .ro, false, false, 0⟩
def Reg.TBS.HOLDOVER_TIME : Field := ⟨0x2080, 0, 32, .ro, false, false, 0⟩
def Reg.TBS.SLEW_REMAIN : Field := ⟨0x2084, 0, 24, .ro, false, false, 0⟩
def Reg.TBS.PPS_CAPTURE : Field := ⟨0x2088, 0, 64, .ro, false, false, 0⟩
def Reg.TBS.WALL_TIME : Field := ⟨0x2090, 0, 64, .ro, false, false, 0⟩
def Reg.TBS.WALL_SET : Field := ⟨0x2098, 0, 64, .rw, true, false, 0⟩
def Reg.TBS.WALL_CTRL : Field := ⟨0x20a0, 0, 1, .cmd, false, false, 0⟩
def Reg.TBS.WALL_ADJ : Field := ⟨0x20a4, 0, 32, .rw, false, false, 0⟩
def Reg.TBS.ASYM_CORR (i : Nat) : Field := ⟨0x20c0 + 4 * i, 0, 16, .rw, false, true, 0⟩
def Reg.TBS.LINK_DELAY_DELAY (i : Nat) : Field := ⟨0x2100 + 4 * i, 0, 24, .ro, false, false, 0⟩
def Reg.TBS.LINK_DELAY_VALID (i : Nat) : Field := ⟨0x2100 + 4 * i, 31, 1, .ro, false, false, 0⟩
def Reg.TBS.XING_LAT_CAL (i : Nat) : Field := ⟨0x2140 + 4 * i, 0, 4, .ro, false, false, 0⟩
def Reg.TBS.XING_LAT_BOUND (i : Nat) : Field := ⟨0x2140 + 4 * i, 4, 4, .ro, false, false, ([4, 4, 3, 4, 6, 8, 5, 0].getD i 0)⟩

/-- Every field of the TBS page (or block). -/
def rowsTBS : List Row :=
  [⟨Reg.TBS.PLAN_TIME, 0, 1⟩, ⟨Reg.TBS.SCHED_TIME, 0, 1⟩, ⟨Reg.TBS.STRETCH_OFFSET, 0, 1⟩, ⟨Reg.TBS.SHEET_NUM, 0, 1⟩, ⟨Reg.TBS.HALT_SHEET, 0, 1⟩, ⟨Reg.TBS.HALT_SHEET_VALID, 0, 1⟩, ⟨Reg.TBS.JOB_ORIGIN, 0, 1⟩, ⟨Reg.TBS.STATE_LOCK_STATE, 0, 1⟩, ⟨Reg.TBS.STATE_ROOT, 0, 1⟩, ⟨Reg.TBS.STATE_UPSTREAM, 0, 1⟩, ⟨Reg.TBS.STATE_DEPTH, 0, 1⟩, ⟨Reg.TBS.STATE_IN_JOB, 0, 1⟩]
  ++ [⟨Reg.TBS.STATE_SYSREF_PRESENT, 0, 1⟩, ⟨Reg.TBS.STATE_PPS_PRESENT, 0, 1⟩, ⟨Reg.TBS.TREE_CFG_ROLE, 0, 1⟩, ⟨Reg.TBS.TREE_CFG_ROOT_REF, 0, 1⟩, ⟨Reg.TBS.TREE_CFG_CAND0, 0, 1⟩, ⟨Reg.TBS.TREE_CFG_CAND1, 0, 1⟩, ⟨Reg.TBS.TREE_CFG_CAND2, 0, 1⟩, ⟨Reg.TBS.TREE_CFG_CAND3, 0, 1⟩, ⟨Reg.TBS.TREE_CFG_AUTO_FAILOVER, 0, 1⟩, ⟨Reg.TBS.TREE_CFG_STANDBY_ROOT, 0, 1⟩, ⟨Reg.TBS.OFFSET_EST, 0, 1⟩, ⟨Reg.TBS.FREQ_EST, 0, 1⟩]
  ++ [⟨Reg.TBS.HOLDOVER_TIME, 0, 1⟩, ⟨Reg.TBS.SLEW_REMAIN, 0, 1⟩, ⟨Reg.TBS.PPS_CAPTURE, 0, 1⟩, ⟨Reg.TBS.WALL_TIME, 0, 1⟩, ⟨Reg.TBS.WALL_SET, 0, 1⟩, ⟨Reg.TBS.WALL_CTRL, 0, 1⟩, ⟨Reg.TBS.WALL_ADJ, 0, 1⟩, ⟨Reg.TBS.ASYM_CORR 0, 4, 12⟩, ⟨Reg.TBS.LINK_DELAY_DELAY 0, 4, 12⟩, ⟨Reg.TBS.LINK_DELAY_VALID 0, 4, 12⟩, ⟨Reg.TBS.XING_LAT_CAL 0, 4, 8⟩, ⟨Reg.TBS.XING_LAT_BOUND 0, 0, 1⟩]
  ++ [⟨Reg.TBS.XING_LAT_BOUND 1, 0, 1⟩, ⟨Reg.TBS.XING_LAT_BOUND 2, 0, 1⟩, ⟨Reg.TBS.XING_LAT_BOUND 3, 0, 1⟩, ⟨Reg.TBS.XING_LAT_BOUND 4, 0, 1⟩, ⟨Reg.TBS.XING_LAT_BOUND 5, 0, 1⟩, ⟨Reg.TBS.XING_LAT_BOUND 6, 0, 1⟩, ⟨Reg.TBS.XING_LAT_BOUND 7, 0, 1⟩]

/-! ### CLK (R80, R324; spec/03_timebase.md, spec/13_power.md) -/

def Reg.CLK.FREQ_TARGET (b : Nat) : Field := ⟨b + 0x40, 0, 8, .ro, false, false, 0⟩
def Reg.CLK.FREQ_NOW_NOW (b : Nat) : Field := ⟨b + 0x44, 0, 8, .ro, false, false, 0⟩
def Reg.CLK.FREQ_NOW_STOPPED (b : Nat) : Field := ⟨b + 0x44, 8, 1, .ro, false, false, 0⟩
def Reg.CLK.FREQ_NOW_DROOP_ACTIVE (b : Nat) : Field := ⟨b + 0x44, 9, 1, .ro, false, false, 0⟩
def Reg.CLK.FLOOR (b : Nat) : Field := ⟨b + 0x48, 0, 8, .ro, false, false, 0⟩
def Reg.CLK.DROOP_EVENTS (b : Nat) : Field := ⟨b + 0x4c, 0, 32, .ro, false, false, 0⟩
def Reg.CLK.DROOP_TOTAL (b : Nat) : Field := ⟨b + 0x50, 0, 32, .ro, false, false, 0⟩
def Reg.CLK.DROOP_BUDGET (b : Nat) : Field := ⟨b + 0x54, 0, 16, .rw, false, true, 0⟩
def Reg.CLK.STOP_LOG_DURATION (b : Nat) : Field := ⟨b + 0x58, 0, 10, .ro, false, false, 0⟩
def Reg.CLK.STOP_LOG_DROOP_WAIT (b : Nat) : Field := ⟨b + 0x58, 10, 10, .ro, false, false, 0⟩
def Reg.CLK.STOP_LOG_DROOP_IN_STOP (b : Nat) : Field := ⟨b + 0x58, 20, 1, .ro, false, false, 0⟩
def Reg.CLK.STOP_LOG_SAG_STOP (b : Nat) : Field := ⟨b + 0x58, 21, 1, .ro, false, false, 0⟩
def Reg.CLK.STOP_LOG_CHANGE_FAILED (b : Nat) : Field := ⟨b + 0x58, 22, 1, .ro, false, false, 0⟩
def Reg.CLK.THERMAL_DEGC (b : Nat) : Field := ⟨b + 0x60, 0, 8, .ro, false, false, 0⟩
def Reg.CLK.THERMAL_F_THERM (b : Nat) : Field := ⟨b + 0x60, 8, 8, .ro, false, false, 130⟩
def Reg.CLK.REQUEST_QUANTA (b : Nat) : Field := ⟨b + 0x64, 0, 7, .ro, false, false, 0⟩
def Reg.CLK.REQUEST_CAUSE (b : Nat) : Field := ⟨b + 0x64, 7, 4, .ro, false, false, 0⟩
def Reg.CLK.TOKENS (b : Nat) : Field := ⟨b + 0x68, 0, 5, .ro, false, false, 0⟩
def Reg.CLK.UNHINTED (b : Nat) : Field := ⟨b + 0x6c, 0, 32, .ro, false, false, 0⟩

/-- Every field of the CLK page (or block). -/
def rowsCLK (b : Nat) : List Row :=
  [⟨Reg.CLK.FREQ_TARGET b, 0, 1⟩, ⟨Reg.CLK.FREQ_NOW_NOW b, 0, 1⟩, ⟨Reg.CLK.FREQ_NOW_STOPPED b, 0, 1⟩, ⟨Reg.CLK.FREQ_NOW_DROOP_ACTIVE b, 0, 1⟩, ⟨Reg.CLK.FLOOR b, 0, 1⟩, ⟨Reg.CLK.DROOP_EVENTS b, 0, 1⟩, ⟨Reg.CLK.DROOP_TOTAL b, 0, 1⟩, ⟨Reg.CLK.DROOP_BUDGET b, 0, 1⟩, ⟨Reg.CLK.STOP_LOG_DURATION b, 0, 1⟩, ⟨Reg.CLK.STOP_LOG_DROOP_WAIT b, 0, 1⟩, ⟨Reg.CLK.STOP_LOG_DROOP_IN_STOP b, 0, 1⟩, ⟨Reg.CLK.STOP_LOG_SAG_STOP b, 0, 1⟩]
  ++ [⟨Reg.CLK.STOP_LOG_CHANGE_FAILED b, 0, 1⟩, ⟨Reg.CLK.THERMAL_DEGC b, 0, 1⟩, ⟨Reg.CLK.THERMAL_F_THERM b, 0, 1⟩, ⟨Reg.CLK.REQUEST_QUANTA b, 0, 1⟩, ⟨Reg.CLK.REQUEST_CAUSE b, 0, 1⟩, ⟨Reg.CLK.TOKENS b, 0, 1⟩, ⟨Reg.CLK.UNHINTED b, 0, 1⟩]

/-! ### COR (R113; spec/04_cores_and_engines.md) -/

def Reg.COR.ENGINE_MASK_MASK (b : Nat) : Field := ⟨b + 0x40, 0, 8, .rw, false, true, 0⟩
def Reg.COR.ENGINE_MASK_IN_JOB (b : Nat) : Field := ⟨b + 0x40, 31, 1, .ro, false, false, 0⟩
def Reg.COR.ENGINE_STATE (b : Nat) : Field := ⟨b + 0x44, 0, 24, .ro, false, false, 0⟩
def Reg.COR.SHEET_DONE_ENGINES (b : Nat) : Field := ⟨b + 0x48, 0, 8, .ro, false, false, 0⟩
def Reg.COR.SHEET_DONE_CORE (b : Nat) : Field := ⟨b + 0x48, 8, 1, .ro, false, false, 0⟩
def Reg.COR.RESET_CTRL_ENGINE_RESET (b : Nat) : Field := ⟨b + 0x4c, 0, 8, .cmd, true, false, 0⟩
def Reg.COR.RESET_CTRL_CORE_RESET (b : Nat) : Field := ⟨b + 0x4c, 8, 1, .cmd, true, false, 0⟩
def Reg.COR.RESET_STATUS_ENGINES (b : Nat) : Field := ⟨b + 0x50, 0, 8, .ro, false, false, 255⟩
def Reg.COR.RESET_STATUS_CORE (b : Nat) : Field := ⟨b + 0x50, 8, 1, .ro, false, false, 1⟩
def Reg.COR.RACE_WINS (b : Nat) : Field := ⟨b + 0x54, 0, 32, .ro, false, false, 0⟩
def Reg.COR.RACE_LOSSES (b : Nat) : Field := ⟨b + 0x58, 0, 32, .ro, false, false, 0⟩
def Reg.COR.BAR_MASK (b : Nat) (i : Nat) : Field := ⟨b + 0x200 + 8 * i, 0, 8, .rw, false, true, 0⟩
def Reg.COR.BAR_STATE_ARRIVED (b : Nat) (i : Nat) : Field := ⟨b + 0x204 + 8 * i, 0, 8, .ro, false, false, 0⟩
def Reg.COR.BAR_STATE_GEN (b : Nat) (i : Nat) : Field := ⟨b + 0x204 + 8 * i, 16, 16, .ro, false, false, 0⟩
def Reg.COR.TOK_REGION_BASE (b : Nat) (i : Nat) : Field := ⟨b + 0x400 + 8 * i, 0, 12, .rw, false, true, 0⟩
def Reg.COR.TOK_REGION_SPACE (b : Nat) (i : Nat) : Field := ⟨b + 0x400 + 8 * i, 12, 1, .rw, false, true, 0⟩
def Reg.COR.TOK_REGION_LEN (b : Nat) (i : Nat) : Field := ⟨b + 0x400 + 8 * i, 13, 13, .rw, false, true, 0⟩
def Reg.COR.TOK_REGION_VALID (b : Nat) (i : Nat) : Field := ⟨b + 0x400 + 8 * i, 31, 1, .rw, false, true, 0⟩
def Reg.COR.TOK_COUNT_POSTED (b : Nat) (i : Nat) : Field := ⟨b + 0x404 + 8 * i, 0, 16, .ro, false, false, 0⟩
def Reg.COR.TOK_COUNT_RELEASED (b : Nat) (i : Nat) : Field := ⟨b + 0x404 + 8 * i, 16, 16, .ro, false, false, 0⟩

/-- Every field of the COR page (or block). -/
def rowsCOR (b : Nat) : List Row :=
  [⟨Reg.COR.ENGINE_MASK_MASK b, 0, 1⟩, ⟨Reg.COR.ENGINE_MASK_IN_JOB b, 0, 1⟩, ⟨Reg.COR.ENGINE_STATE b, 0, 1⟩, ⟨Reg.COR.SHEET_DONE_ENGINES b, 0, 1⟩, ⟨Reg.COR.SHEET_DONE_CORE b, 0, 1⟩, ⟨Reg.COR.RESET_CTRL_ENGINE_RESET b, 0, 1⟩, ⟨Reg.COR.RESET_CTRL_CORE_RESET b, 0, 1⟩, ⟨Reg.COR.RESET_STATUS_ENGINES b, 0, 1⟩, ⟨Reg.COR.RESET_STATUS_CORE b, 0, 1⟩, ⟨Reg.COR.RACE_WINS b, 0, 1⟩, ⟨Reg.COR.RACE_LOSSES b, 0, 1⟩, ⟨Reg.COR.BAR_MASK b 0, 8, 16⟩]
  ++ [⟨Reg.COR.BAR_STATE_ARRIVED b 0, 8, 16⟩, ⟨Reg.COR.BAR_STATE_GEN b 0, 8, 16⟩, ⟨Reg.COR.TOK_REGION_BASE b 0, 8, 64⟩, ⟨Reg.COR.TOK_REGION_SPACE b 0, 8, 64⟩, ⟨Reg.COR.TOK_REGION_LEN b 0, 8, 64⟩, ⟨Reg.COR.TOK_REGION_VALID b 0, 8, 64⟩, ⟨Reg.COR.TOK_COUNT_POSTED b 0, 8, 64⟩, ⟨Reg.COR.TOK_COUNT_RELEASED b 0, 8, 64⟩]

/-! ### ENG (R115; spec/04_cores_and_engines.md) -/

def Reg.ENG.STATE_STATE (b : Nat) : Field := ⟨b + 0x40, 0, 3, .ro, false, false, 0⟩
def Reg.ENG.STATE_ACTIVE_BANK (b : Nat) : Field := ⟨b + 0x40, 3, 1, .ro, false, false, 0⟩
def Reg.ENG.STATE_WAIT_KIND (b : Nat) : Field := ⟨b + 0x40, 4, 4, .ro, false, false, 0⟩
def Reg.ENG.STATE_WAIT_SLOT (b : Nat) : Field := ⟨b + 0x40, 8, 6, .ro, false, false, 0⟩
def Reg.ENG.NEXT_OP (b : Nat) : Field := ⟨b + 0x44, 0, 16, .ro, false, false, 0⟩
def Reg.ENG.HALT_REASON (b : Nat) : Field := ⟨b + 0x48, 0, 16, .ro, false, false, 0⟩
def Reg.ENG.HALT_ADDR_ADDR (b : Nat) : Field := ⟨b + 0x4c, 0, 16, .ro, false, false, 0⟩
def Reg.ENG.HALT_ADDR_BANK (b : Nat) : Field := ⟨b + 0x4c, 16, 1, .ro, false, false, 0⟩
def Reg.ENG.HALT_TIME (b : Nat) : Field := ⟨b + 0x50, 0, 64, .ro, false, false, 0⟩
def Reg.ENG.DEADLINE (b : Nat) : Field := ⟨b + 0x58, 0, 21, .rw, false, false, 0⟩
def Reg.ENG.GRACE (b : Nat) : Field := ⟨b + 0x5c, 0, 16, .rw, false, true, 1024⟩
def Reg.ENG.BANK_CTRL_FLIP_SEL (b : Nat) : Field := ⟨b + 0x60, 0, 1, .rm, false, false, 0⟩
def Reg.ENG.BANK_CTRL_READY (b : Nat) : Field := ⟨b + 0x60, 1, 1, .ro, false, false, 0⟩
def Reg.ENG.BANK_CTRL_CHECK (b : Nat) : Field := ⟨b + 0x60, 2, 1, .cmd, false, false, 0⟩
def Reg.ENG.IMEM_LEN (b : Nat) : Field := ⟨b + 0x64, 0, 17, .rw, false, false, 0⟩
def Reg.ENG.IMEM_REF (b : Nat) : Field := ⟨b + 0x68, 0, 32, .rw, false, false, 0⟩
def Reg.ENG.IMEM_CRC (b : Nat) : Field := ⟨b + 0x6c, 0, 32, .ro, false, false, 0⟩
def Reg.ENG.CNT (b : Nat) (i : Nat) : Field := ⟨b + 0x70 + 4 * i, 0, 32, .ro, false, false, 0⟩
def Reg.ENG.LOOP_STATE (b : Nat) : Field := ⟨b + 0x90, 0, 3, .ro, false, false, 0⟩
def Reg.ENG.CTRL (b : Nat) : Field := ⟨b + 0x94, 0, 1, .cmd, true, false, 0⟩
def Reg.ENG.ACTIVE_LEN (b : Nat) : Field := ⟨b + 0x98, 0, 17, .ro, false, false, 0⟩
def Reg.ENG.IMEM_VER (b : Nat) : Field := ⟨b + 0x9c, 0, 32, .rw, false, false, 0⟩

/-- Every field of the ENG page (or block). -/
def rowsENG (b : Nat) : List Row :=
  [⟨Reg.ENG.STATE_STATE b, 0, 1⟩, ⟨Reg.ENG.STATE_ACTIVE_BANK b, 0, 1⟩, ⟨Reg.ENG.STATE_WAIT_KIND b, 0, 1⟩, ⟨Reg.ENG.STATE_WAIT_SLOT b, 0, 1⟩, ⟨Reg.ENG.NEXT_OP b, 0, 1⟩, ⟨Reg.ENG.HALT_REASON b, 0, 1⟩, ⟨Reg.ENG.HALT_ADDR_ADDR b, 0, 1⟩, ⟨Reg.ENG.HALT_ADDR_BANK b, 0, 1⟩, ⟨Reg.ENG.HALT_TIME b, 0, 1⟩, ⟨Reg.ENG.DEADLINE b, 0, 1⟩, ⟨Reg.ENG.GRACE b, 0, 1⟩, ⟨Reg.ENG.BANK_CTRL_FLIP_SEL b, 0, 1⟩]
  ++ [⟨Reg.ENG.BANK_CTRL_READY b, 0, 1⟩, ⟨Reg.ENG.BANK_CTRL_CHECK b, 0, 1⟩, ⟨Reg.ENG.IMEM_LEN b, 0, 1⟩, ⟨Reg.ENG.IMEM_REF b, 0, 1⟩, ⟨Reg.ENG.IMEM_CRC b, 0, 1⟩, ⟨Reg.ENG.CNT b 0, 4, 8⟩, ⟨Reg.ENG.LOOP_STATE b, 0, 1⟩, ⟨Reg.ENG.CTRL b, 0, 1⟩, ⟨Reg.ENG.ACTIVE_LEN b, 0, 1⟩, ⟨Reg.ENG.IMEM_VER b, 0, 1⟩]

/-! ### BLK (R445; spec/04_cores_and_engines.md) -/

def Reg.BLK.ERR_ENABLE (b : Nat) : Field := ⟨b + 0xf0, 0, 16, .rw, false, false, 0⟩
def Reg.BLK.ERR_FIRST (b : Nat) : Field := ⟨b + 0xf4, 0, 5, .ro, false, false, 0⟩
def Reg.BLK.ERR_FIRST_TIME (b : Nat) : Field := ⟨b + 0xf8, 0, 32, .ro, false, false, 0⟩
def Reg.BLK.ERR_STICKY (b : Nat) : Field := ⟨b + 0xfc, 0, 16, .sc, false, false, 0⟩

/-- Every field of the BLK page (or block). -/
def rowsBLK (b : Nat) : List Row :=
  [⟨Reg.BLK.ERR_ENABLE b, 0, 1⟩, ⟨Reg.BLK.ERR_FIRST b, 0, 1⟩, ⟨Reg.BLK.ERR_FIRST_TIME b, 0, 1⟩, ⟨Reg.BLK.ERR_STICKY b, 0, 1⟩]

/-! ### MV (R117; spec/04_cores_and_engines.md) -/

def Reg.MV.BASE (b : Nat) (i : Nat) : Field := ⟨b + 0x100 + 32 * i, 0, 48, .rw, false, true, 0⟩
def Reg.MV.STRIDE (b : Nat) (i : Nat) : Field := ⟨b + 0x108 + 32 * i, 0, 32, .rw, false, true, 0⟩
def Reg.MV.ELEM (b : Nat) (i : Nat) : Field := ⟨b + 0x10c + 32 * i, 0, 12, .rw, false, true, 0⟩
def Reg.MV.LIMIT (b : Nat) (i : Nat) : Field := ⟨b + 0x110 + 32 * i, 0, 28, .rw, false, true, 0⟩
def Reg.MV.TENANT (b : Nat) (i : Nat) : Field := ⟨b + 0x114 + 32 * i, 0, 16, .rw, false, true, 0⟩
def Reg.MV.DFLAGS_VALID (b : Nat) (i : Nat) : Field := ⟨b + 0x118 + 32 * i, 0, 1, .rw, false, true, 0⟩
def Reg.MV.DFLAGS_PAGE_CHECK (b : Nat) (i : Nat) : Field := ⟨b + 0x118 + 32 * i, 1, 1, .rw, false, true, 0⟩

/-- Every field of the MV page (or block). -/
def rowsMV (b : Nat) : List Row :=
  [⟨Reg.MV.BASE b 0, 32, 16⟩, ⟨Reg.MV.STRIDE b 0, 32, 16⟩, ⟨Reg.MV.ELEM b 0, 32, 16⟩, ⟨Reg.MV.LIMIT b 0, 32, 16⟩, ⟨Reg.MV.TENANT b 0, 32, 16⟩, ⟨Reg.MV.DFLAGS_VALID b 0, 32, 16⟩, ⟨Reg.MV.DFLAGS_PAGE_CHECK b 0, 32, 16⟩]

/-! ### CLU (R118; spec/04_cores_and_engines.md) -/

def Reg.CLU.CORE_MASK_CORES (b : Nat) : Field := ⟨b + 0x40, 0, 6, .rw, false, true, 0⟩
def Reg.CLU.CORE_MASK_IN_JOB (b : Nat) : Field := ⟨b + 0x40, 8, 1, .ro, false, false, 0⟩
def Reg.CLU.RESET_CTRL_CLUSTER_RESET (b : Nat) : Field := ⟨b + 0x44, 0, 1, .cmd, true, false, 0⟩
def Reg.CLU.RESET_CTRL_ME_RESET (b : Nat) : Field := ⟨b + 0x44, 1, 2, .cmd, true, false, 0⟩
def Reg.CLU.RESET_STATUS_CLUSTER (b : Nat) : Field := ⟨b + 0x48, 0, 1, .ro, false, false, 1⟩
def Reg.CLU.RESET_STATUS_ME (b : Nat) : Field := ⟨b + 0x48, 1, 2, .ro, false, false, 3⟩

/-- Every field of the CLU page (or block). -/
def rowsCLU (b : Nat) : List Row :=
  [⟨Reg.CLU.CORE_MASK_CORES b, 0, 1⟩, ⟨Reg.CLU.CORE_MASK_IN_JOB b, 0, 1⟩, ⟨Reg.CLU.RESET_CTRL_CLUSTER_RESET b, 0, 1⟩, ⟨Reg.CLU.RESET_CTRL_ME_RESET b, 0, 1⟩, ⟨Reg.CLU.RESET_STATUS_CLUSTER b, 0, 1⟩, ⟨Reg.CLU.RESET_STATUS_ME b, 0, 1⟩]

/-! ### MX (R139; spec/05_matrix_arrays.md) -/

def Reg.MX.ARRAY_STATUS_MODE (b : Nat) : Field := ⟨b + 0x100, 0, 3, .ro, false, false, 0⟩
def Reg.MX.ARRAY_STATUS_ACT_FMT (b : Nat) : Field := ⟨b + 0x100, 3, 3, .ro, false, false, 0⟩
def Reg.MX.ARRAY_STATUS_WT_FMT (b : Nat) : Field := ⟨b + 0x100, 6, 3, .ro, false, false, 0⟩
def Reg.MX.ARRAY_STATUS_HEAVY_NOW (b : Nat) : Field := ⟨b + 0x100, 9, 1, .ro, false, false, 0⟩
def Reg.MX.ARRAY_STATUS_TOKEN_HELD (b : Nat) : Field := ⟨b + 0x100, 10, 1, .ro, false, false, 0⟩
def Reg.MX.ARRAY_STATUS_SHADOW (b : Nat) : Field := ⟨b + 0x100, 11, 2, .ro, false, false, 0⟩
def Reg.MX.ARRAY_STATUS_SWAP_PENDING (b : Nat) : Field := ⟨b + 0x100, 13, 1, .ro, false, false, 0⟩
def Reg.MX.WEIGHT_GEN_GEN (b : Nat) : Field := ⟨b + 0x104, 0, 16, .ro, false, false, 0⟩
def Reg.MX.WEIGHT_GEN_LIVE_TAG (b : Nat) : Field := ⟨b + 0x104, 16, 16, .ro, false, false, 0⟩
def Reg.MX.SHADOW_TAG_TAG (b : Nat) : Field := ⟨b + 0x108, 0, 16, .ro, false, false, 0⟩
def Reg.MX.SHADOW_TAG_ROWS (b : Nat) : Field := ⟨b + 0x108, 16, 8, .ro, false, false, 0⟩
def Reg.MX.VECTORS_SHEET (b : Nat) : Field := ⟨b + 0x10c, 0, 32, .ro, false, false, 0⟩
def Reg.MX.HEAVY_SHEET (b : Nat) : Field := ⟨b + 0x110, 0, 32, .ro, false, false, 0⟩
def Reg.MX.LIGHT_FALLBACK (b : Nat) : Field := ⟨b + 0x114, 0, 32, .ro, false, false, 0⟩
def Reg.MX.ACC_HDR_ANCHOR (b : Nat) (i : Nat) : Field := ⟨b + 0x120 + 16 * i, 0, 10, .ro, false, false, 0⟩
def Reg.MX.ACC_HDR_MODE (b : Nat) (i : Nat) : Field := ⟨b + 0x120 + 16 * i, 10, 3, .ro, false, false, 0⟩
def Reg.MX.ACC_HDR_FMT (b : Nat) (i : Nat) : Field := ⟨b + 0x120 + 16 * i, 13, 3, .ro, false, false, 0⟩
def Reg.MX.ACC_HDR_STATE (b : Nat) (i : Nat) : Field := ⟨b + 0x120 + 16 * i, 16, 2, .ro, false, false, 0⟩
def Reg.MX.ACC_HDR_OVF (b : Nat) (i : Nat) : Field := ⟨b + 0x120 + 16 * i, 18, 1, .ro, false, false, 0⟩
def Reg.MX.ACC_UNDERFLOW (b : Nat) (i : Nat) : Field := ⟨b + 0x124 + 16 * i, 0, 32, .ro, false, false, 0⟩

/-- Every field of the MX page (or block). -/
def rowsMX (b : Nat) : List Row :=
  [⟨Reg.MX.ARRAY_STATUS_MODE b, 0, 1⟩, ⟨Reg.MX.ARRAY_STATUS_ACT_FMT b, 0, 1⟩, ⟨Reg.MX.ARRAY_STATUS_WT_FMT b, 0, 1⟩, ⟨Reg.MX.ARRAY_STATUS_HEAVY_NOW b, 0, 1⟩, ⟨Reg.MX.ARRAY_STATUS_TOKEN_HELD b, 0, 1⟩, ⟨Reg.MX.ARRAY_STATUS_SHADOW b, 0, 1⟩, ⟨Reg.MX.ARRAY_STATUS_SWAP_PENDING b, 0, 1⟩, ⟨Reg.MX.WEIGHT_GEN_GEN b, 0, 1⟩, ⟨Reg.MX.WEIGHT_GEN_LIVE_TAG b, 0, 1⟩, ⟨Reg.MX.SHADOW_TAG_TAG b, 0, 1⟩, ⟨Reg.MX.SHADOW_TAG_ROWS b, 0, 1⟩, ⟨Reg.MX.VECTORS_SHEET b, 0, 1⟩]
  ++ [⟨Reg.MX.HEAVY_SHEET b, 0, 1⟩, ⟨Reg.MX.LIGHT_FALLBACK b, 0, 1⟩, ⟨Reg.MX.ACC_HDR_ANCHOR b 0, 16, 2⟩, ⟨Reg.MX.ACC_HDR_MODE b 0, 16, 2⟩, ⟨Reg.MX.ACC_HDR_FMT b 0, 16, 2⟩, ⟨Reg.MX.ACC_HDR_STATE b 0, 16, 2⟩, ⟨Reg.MX.ACC_HDR_OVF b 0, 16, 2⟩, ⟨Reg.MX.ACC_UNDERFLOW b 0, 16, 2⟩]

/-! ### VX (R158; spec/06_formats_and_anchored_sums.md) -/

def Reg.VX.VACC_HDR_ANCHOR (b : Nat) (i : Nat) : Field := ⟨b + 0x100 + 16 * i, 0, 10, .ro, false, false, 0⟩
def Reg.VX.VACC_HDR_OVF (b : Nat) (i : Nat) : Field := ⟨b + 0x100 + 16 * i, 10, 1, .ro, false, false, 0⟩
def Reg.VX.VACC_UNDERFLOW (b : Nat) (i : Nat) : Field := ⟨b + 0x104 + 16 * i, 0, 32, .ro, false, false, 0⟩

/-- Every field of the VX page (or block). -/
def rowsVX (b : Nat) : List Row :=
  [⟨Reg.VX.VACC_HDR_ANCHOR b 0, 16, 8⟩, ⟨Reg.VX.VACC_HDR_OVF b 0, 16, 8⟩, ⟨Reg.VX.VACC_UNDERFLOW b 0, 16, 8⟩]

/-! ### HBM (R181; spec/07_memory_tiers.md) -/

def Reg.HBM.STACK_STATUS_TRAINED (b : Nat) : Field := ⟨b + 0x40, 0, 1, .ro, false, false, 0⟩
def Reg.HBM.STACK_STATUS_ONLINE (b : Nat) : Field := ⟨b + 0x40, 1, 1, .ro, false, false, 0⟩
def Reg.HBM.TEMP_DEGC (b : Nat) : Field := ⟨b + 0x44, 0, 8, .ro, false, false, 0⟩
def Reg.HBM.TEMP_OVERTEMP (b : Nat) : Field := ⟨b + 0x44, 8, 1, .ro, false, false, 0⟩
def Reg.HBM.CE_COUNT (b : Nat) : Field := ⟨b + 0x48, 0, 32, .ro, false, false, 0⟩
def Reg.HBM.UE_COUNT (b : Nat) : Field := ⟨b + 0x4c, 0, 32, .ro, false, false, 0⟩
def Reg.HBM.UE_ADDR (b : Nat) : Field := ⟨b + 0x50, 0, 48, .ro, false, false, 0⟩
def Reg.HBM.SCRUB_PASSES (b : Nat) : Field := ⟨b + 0x58, 0, 32, .ro, false, false, 0⟩
def Reg.HBM.SCRUB_POS (b : Nat) : Field := ⟨b + 0x5c, 0, 20, .ro, false, false, 0⟩
def Reg.HBM.MOVE_USED (b : Nat) : Field := ⟨b + 0x60, 0, 32, .ro, false, false, 0⟩
def Reg.HBM.MOVE_IDLE (b : Nat) : Field := ⟨b + 0x64, 0, 32, .ro, false, false, 0⟩
def Reg.HBM.RESERVE_WAIT (b : Nat) : Field := ⟨b + 0x68, 0, 32, .ro, false, false, 0⟩
def Reg.HBM.POOL_OFFSET (b : Nat) : Field := ⟨b + 0x70, 0, 36, .rw, false, true, 0⟩
def Reg.HBM.POOL_PAGES (b : Nat) : Field := ⟨b + 0x78, 0, 24, .rw, false, true, 0⟩
def Reg.HBM.POOL_FREE (b : Nat) : Field := ⟨b + 0x7c, 0, 24, .ro, false, false, 0⟩
def Reg.HBM.QUOTA_BASE (b : Nat) : Field := ⟨b + 0x80, 0, 48, .rw, false, true, 0⟩

/-- Every field of the HBM page (or block). -/
def rowsHBM (b : Nat) : List Row :=
  [⟨Reg.HBM.STACK_STATUS_TRAINED b, 0, 1⟩, ⟨Reg.HBM.STACK_STATUS_ONLINE b, 0, 1⟩, ⟨Reg.HBM.TEMP_DEGC b, 0, 1⟩, ⟨Reg.HBM.TEMP_OVERTEMP b, 0, 1⟩, ⟨Reg.HBM.CE_COUNT b, 0, 1⟩, ⟨Reg.HBM.UE_COUNT b, 0, 1⟩, ⟨Reg.HBM.UE_ADDR b, 0, 1⟩, ⟨Reg.HBM.SCRUB_PASSES b, 0, 1⟩, ⟨Reg.HBM.SCRUB_POS b, 0, 1⟩, ⟨Reg.HBM.MOVE_USED b, 0, 1⟩, ⟨Reg.HBM.MOVE_IDLE b, 0, 1⟩, ⟨Reg.HBM.RESERVE_WAIT b, 0, 1⟩]
  ++ [⟨Reg.HBM.POOL_OFFSET b, 0, 1⟩, ⟨Reg.HBM.POOL_PAGES b, 0, 1⟩, ⟨Reg.HBM.POOL_FREE b, 0, 1⟩, ⟨Reg.HBM.QUOTA_BASE b, 0, 1⟩]

/-! ### DDR (R183; spec/07_memory_tiers.md) -/

def Reg.DDR.DIMM_STATUS_POP (b : Nat) : Field := ⟨b + 0x40, 0, 3, .ro, false, false, 0⟩
def Reg.DDR.DIMM_STATUS_CAP (b : Nat) : Field := ⟨b + 0x40, 3, 2, .ro, false, false, 0⟩
def Reg.DDR.DIMM_STATUS_RANKS (b : Nat) : Field := ⟨b + 0x40, 5, 1, .ro, false, false, 0⟩
def Reg.DDR.DIMM_STATUS_TIER_UP (b : Nat) : Field := ⟨b + 0x40, 6, 1, .ro, false, false, 0⟩
def Reg.DDR.TEMP_DEGC (b : Nat) : Field := ⟨b + 0x44, 0, 8, .ro, false, false, 0⟩
def Reg.DDR.TEMP_OVERTEMP (b : Nat) : Field := ⟨b + 0x44, 8, 1, .ro, false, false, 0⟩
def Reg.DDR.POOL_OFFSET (b : Nat) : Field := ⟨b + 0x70, 0, 38, .rw, false, true, 0⟩
def Reg.DDR.POOL_PAGES (b : Nat) : Field := ⟨b + 0x78, 0, 28, .rw, false, true, 0⟩
def Reg.DDR.POOL_FREE (b : Nat) : Field := ⟨b + 0x7c, 0, 28, .ro, false, false, 0⟩
def Reg.DDR.CE_COUNT (b : Nat) : Field := ⟨b + 0x48, 0, 32, .ro, false, false, 0⟩
def Reg.DDR.UE_COUNT (b : Nat) : Field := ⟨b + 0x4c, 0, 32, .ro, false, false, 0⟩
def Reg.DDR.UE_ADDR (b : Nat) : Field := ⟨b + 0x50, 0, 48, .ro, false, false, 0⟩
def Reg.DDR.SCRUB_PASSES (b : Nat) : Field := ⟨b + 0x58, 0, 32, .ro, false, false, 0⟩
def Reg.DDR.SCRUB_POS (b : Nat) : Field := ⟨b + 0x5c, 0, 22, .ro, false, false, 0⟩
def Reg.DDR.MOVE_USED (b : Nat) : Field := ⟨b + 0x60, 0, 32, .ro, false, false, 0⟩
def Reg.DDR.MOVE_IDLE (b : Nat) : Field := ⟨b + 0x64, 0, 32, .ro, false, false, 0⟩
def Reg.DDR.RESERVE_WAIT (b : Nat) : Field := ⟨b + 0x68, 0, 32, .ro, false, false, 0⟩

/-- Every field of the DDR page (or block). -/
def rowsDDR (b : Nat) : List Row :=
  [⟨Reg.DDR.DIMM_STATUS_POP b, 0, 1⟩, ⟨Reg.DDR.DIMM_STATUS_CAP b, 0, 1⟩, ⟨Reg.DDR.DIMM_STATUS_RANKS b, 0, 1⟩, ⟨Reg.DDR.DIMM_STATUS_TIER_UP b, 0, 1⟩, ⟨Reg.DDR.TEMP_DEGC b, 0, 1⟩, ⟨Reg.DDR.TEMP_OVERTEMP b, 0, 1⟩, ⟨Reg.DDR.POOL_OFFSET b, 0, 1⟩, ⟨Reg.DDR.POOL_PAGES b, 0, 1⟩, ⟨Reg.DDR.POOL_FREE b, 0, 1⟩, ⟨Reg.DDR.CE_COUNT b, 0, 1⟩, ⟨Reg.DDR.UE_COUNT b, 0, 1⟩, ⟨Reg.DDR.UE_ADDR b, 0, 1⟩]
  ++ [⟨Reg.DDR.SCRUB_PASSES b, 0, 1⟩, ⟨Reg.DDR.SCRUB_POS b, 0, 1⟩, ⟨Reg.DDR.MOVE_USED b, 0, 1⟩, ⟨Reg.DDR.MOVE_IDLE b, 0, 1⟩, ⟨Reg.DDR.RESERVE_WAIT b, 0, 1⟩]

/-! ### PRT (R210; spec/08_scheduled_fabric.md) -/

def Reg.PRT.PORT_STATUS_WIDTH (b : Nat) : Field := ⟨b + 0x40, 0, 4, .ro, false, false, 0⟩
def Reg.PRT.PORT_STATUS_TRAINED (b : Nat) : Field := ⟨b + 0x40, 4, 1, .ro, false, false, 0⟩
def Reg.PRT.PORT_STATUS_IN_JOB (b : Nat) : Field := ⟨b + 0x40, 5, 1, .ro, false, false, 0⟩
def Reg.PRT.PORT_STATUS_FENCED (b : Nat) : Field := ⟨b + 0x40, 6, 1, .ro, false, false, 1⟩
def Reg.PRT.PORT_STATUS_MARGIN_LOST (b : Nat) : Field := ⟨b + 0x40, 7, 1, .ro, false, false, 0⟩
def Reg.PRT.PORT_STATUS_RETRY_COVER (b : Nat) : Field := ⟨b + 0x40, 8, 3, .ro, false, false, 0⟩
def Reg.PRT.PORT_STATUS_FWD_ONLY (b : Nat) : Field := ⟨b + 0x40, 11, 1, .ro, false, false, 0⟩
def Reg.PRT.PORT_STATUS_MISCABLED (b : Nat) : Field := ⟨b + 0x40, 12, 1, .ro, false, false, 0⟩
def Reg.PRT.JOB_TAG_TAG (b : Nat) : Field := ⟨b + 0x44, 0, 16, .ro, false, false, 0⟩
def Reg.PRT.JOB_TAG_NEAR_TAG (b : Nat) : Field := ⟨b + 0x44, 16, 16, .ro, false, false, 0⟩
def Reg.PRT.NEIGHBOUR_X (b : Nat) : Field := ⟨b + 0x48, 0, 6, .ro, false, false, 0⟩
def Reg.PRT.NEIGHBOUR_Y (b : Nat) : Field := ⟨b + 0x48, 6, 6, .ro, false, false, 0⟩
def Reg.PRT.NEIGHBOUR_Z (b : Nat) : Field := ⟨b + 0x48, 12, 6, .ro, false, false, 0⟩
def Reg.PRT.NEIGHBOUR_PORT (b : Nat) : Field := ⟨b + 0x48, 18, 4, .ro, false, false, 15⟩
def Reg.PRT.NEIGHBOUR_VALID (b : Nat) : Field := ⟨b + 0x48, 22, 1, .ro, false, false, 0⟩
def Reg.PRT.FLIGHT_CAL (b : Nat) : Field := ⟨b + 0x4c, 0, 10, .ro, false, false, 0⟩
def Reg.PRT.FLIGHT_VALID (b : Nat) : Field := ⟨b + 0x4c, 10, 1, .ro, false, false, 0⟩
def Reg.PRT.FLIGHT_BUDGET (b : Nat) : Field := ⟨b + 0x4c, 16, 10, .ro, false, false, 0⟩
def Reg.PRT.RELEASE_OFFSET (b : Nat) : Field := ⟨b + 0x50, 0, 11, .ro, false, false, 0⟩
def Reg.PRT.RELEASE_N (b : Nat) : Field := ⟨b + 0x50, 12, 3, .ro, false, false, 0⟩
def Reg.PRT.RELEASE_ALLOW (b : Nat) : Field := ⟨b + 0x50, 16, 11, .ro, false, false, 0⟩
def Reg.PRT.COUCH (b : Nat) : Field := ⟨b + 0x54, 0, 11, .ro, false, false, 0⟩
def Reg.PRT.RETRY_SHEET_MAX_RETX (b : Nat) : Field := ⟨b + 0x58, 0, 4, .ro, false, false, 0⟩
def Reg.PRT.RETRY_SHEET_MIN_SLACK (b : Nat) : Field := ⟨b + 0x58, 16, 16, .ro, false, false, 65535⟩
def Reg.PRT.LATE_COUNT (b : Nat) : Field := ⟨b + 0x5c, 0, 32, .ro, false, false, 0⟩
def Reg.PRT.LATE_ARRIVALS (b : Nat) : Field := ⟨b + 0x60, 0, 32, .ro, false, false, 0⟩
def Reg.PRT.HOLLOW_RECEIVED (b : Nat) : Field := ⟨b + 0x64, 0, 32, .ro, false, false, 0⟩
def Reg.PRT.FENCE_DROPS (b : Nat) : Field := ⟨b + 0x68, 0, 32, .ro, false, false, 0⟩
def Reg.PRT.STRAY_DROPS (b : Nat) : Field := ⟨b + 0x6c, 0, 32, .ro, false, false, 0⟩

/-- Every field of the PRT page (or block). -/
def rowsPRT (b : Nat) : List Row :=
  [⟨Reg.PRT.PORT_STATUS_WIDTH b, 0, 1⟩, ⟨Reg.PRT.PORT_STATUS_TRAINED b, 0, 1⟩, ⟨Reg.PRT.PORT_STATUS_IN_JOB b, 0, 1⟩, ⟨Reg.PRT.PORT_STATUS_FENCED b, 0, 1⟩, ⟨Reg.PRT.PORT_STATUS_MARGIN_LOST b, 0, 1⟩, ⟨Reg.PRT.PORT_STATUS_RETRY_COVER b, 0, 1⟩, ⟨Reg.PRT.PORT_STATUS_FWD_ONLY b, 0, 1⟩, ⟨Reg.PRT.PORT_STATUS_MISCABLED b, 0, 1⟩, ⟨Reg.PRT.JOB_TAG_TAG b, 0, 1⟩, ⟨Reg.PRT.JOB_TAG_NEAR_TAG b, 0, 1⟩, ⟨Reg.PRT.NEIGHBOUR_X b, 0, 1⟩, ⟨Reg.PRT.NEIGHBOUR_Y b, 0, 1⟩]
  ++ [⟨Reg.PRT.NEIGHBOUR_Z b, 0, 1⟩, ⟨Reg.PRT.NEIGHBOUR_PORT b, 0, 1⟩, ⟨Reg.PRT.NEIGHBOUR_VALID b, 0, 1⟩, ⟨Reg.PRT.FLIGHT_CAL b, 0, 1⟩, ⟨Reg.PRT.FLIGHT_VALID b, 0, 1⟩, ⟨Reg.PRT.FLIGHT_BUDGET b, 0, 1⟩, ⟨Reg.PRT.RELEASE_OFFSET b, 0, 1⟩, ⟨Reg.PRT.RELEASE_N b, 0, 1⟩, ⟨Reg.PRT.RELEASE_ALLOW b, 0, 1⟩, ⟨Reg.PRT.COUCH b, 0, 1⟩, ⟨Reg.PRT.RETRY_SHEET_MAX_RETX b, 0, 1⟩, ⟨Reg.PRT.RETRY_SHEET_MIN_SLACK b, 0, 1⟩]
  ++ [⟨Reg.PRT.LATE_COUNT b, 0, 1⟩, ⟨Reg.PRT.LATE_ARRIVALS b, 0, 1⟩, ⟨Reg.PRT.HOLLOW_RECEIVED b, 0, 1⟩, ⟨Reg.PRT.FENCE_DROPS b, 0, 1⟩, ⟨Reg.PRT.STRAY_DROPS b, 0, 1⟩]

/-! ### SLT (R212; spec/08_scheduled_fabric.md) -/

def Reg.SLT.SLOT_NOW_SLOT (b : Nat) : Field := ⟨b + 0x40, 0, 19, .ro, false, false, 0⟩
def Reg.SLT.SLOT_NOW_EPOCH (b : Nat) : Field := ⟨b + 0x40, 19, 1, .ro, false, false, 0⟩
def Reg.SLT.SLOT_NOW_TAIL (b : Nat) : Field := ⟨b + 0x40, 20, 1, .ro, false, false, 0⟩
def Reg.SLT.TX_SHEET (b : Nat) : Field := ⟨b + 0x44, 0, 32, .ro, false, false, 0⟩
def Reg.SLT.RX_SHEET (b : Nat) : Field := ⟨b + 0x48, 0, 32, .ro, false, false, 0⟩
def Reg.SLT.IDLE_SHEET (b : Nat) : Field := ⟨b + 0x4c, 0, 32, .ro, false, false, 0⟩
def Reg.SLT.CHECK_RESULT_CODE (b : Nat) : Field := ⟨b + 0x50, 0, 8, .ro, false, false, 0⟩
def Reg.SLT.CHECK_RESULT_BANK (b : Nat) : Field := ⟨b + 0x50, 8, 1, .ro, false, false, 0⟩
def Reg.SLT.SEED (b : Nat) : Field := ⟨b + 0x58, 0, 64, .ro, false, false, 0⟩

/-- Every field of the SLT page (or block). -/
def rowsSLT (b : Nat) : List Row :=
  [⟨Reg.SLT.SLOT_NOW_SLOT b, 0, 1⟩, ⟨Reg.SLT.SLOT_NOW_EPOCH b, 0, 1⟩, ⟨Reg.SLT.SLOT_NOW_TAIL b, 0, 1⟩, ⟨Reg.SLT.TX_SHEET b, 0, 1⟩, ⟨Reg.SLT.RX_SHEET b, 0, 1⟩, ⟨Reg.SLT.IDLE_SHEET b, 0, 1⟩, ⟨Reg.SLT.CHECK_RESULT_CODE b, 0, 1⟩, ⟨Reg.SLT.CHECK_RESULT_BANK b, 0, 1⟩, ⟨Reg.SLT.SEED b, 0, 1⟩]

/-! ### LNK (R236; spec/09_link_layer.md) -/

def Reg.LNK.LINK_STATUS_TRAIN_STATE (b : Nat) : Field := ⟨b + 0x40, 0, 3, .ro, false, false, 0⟩
def Reg.LNK.LINK_STATUS_UP (b : Nat) : Field := ⟨b + 0x40, 3, 1, .ro, false, false, 0⟩
def Reg.LNK.LINK_STATUS_TX_WIDTH (b : Nat) : Field := ⟨b + 0x40, 4, 4, .ro, false, false, 0⟩
def Reg.LNK.LINK_STATUS_RX_WIDTH (b : Nat) : Field := ⟨b + 0x40, 8, 4, .ro, false, false, 0⟩
def Reg.LNK.LINK_STATUS_TX_MASK (b : Nat) : Field := ⟨b + 0x40, 12, 8, .ro, false, false, 0⟩
def Reg.LNK.LINK_STATUS_RX_MASK (b : Nat) : Field := ⟨b + 0x40, 20, 8, .ro, false, false, 0⟩
def Reg.LNK.LINK_STATUS_CHANGE_PENDING (b : Nat) : Field := ⟨b + 0x40, 28, 1, .ro, false, false, 0⟩
def Reg.LNK.LANE_STATE (b : Nat) : Field := ⟨b + 0x44, 0, 16, .ro, false, false, 0⟩
def Reg.LNK.CTRL_ENABLE (b : Nat) : Field := ⟨b + 0x48, 0, 1, .rw, true, true, 1⟩
def Reg.LNK.CTRL_AUTO_RETRAIN (b : Nat) : Field := ⟨b + 0x48, 1, 1, .rw, false, true, 1⟩
def Reg.LNK.CTRL_AUTO_DROP (b : Nat) : Field := ⟨b + 0x48, 2, 1, .rw, false, true, 1⟩
def Reg.LNK.CTRL_AUTO_ADD (b : Nat) : Field := ⟨b + 0x48, 3, 1, .rw, false, true, 0⟩
def Reg.LNK.LANE_CMD_RETRAIN_LANE (b : Nat) : Field := ⟨b + 0x4c, 0, 8, .cmd, true, false, 0⟩
def Reg.LNK.LANE_CMD_RETRAIN_LINK (b : Nat) : Field := ⟨b + 0x4c, 8, 1, .cmd, true, false, 0⟩
def Reg.LNK.DOWN_TIMEOUT (b : Nat) : Field := ⟨b + 0x50, 0, 7, .rw, false, true, 4⟩
def Reg.LNK.DEGRADE_SYM_LIMIT (b : Nat) : Field := ⟨b + 0x54, 0, 24, .rw, false, true, 65536⟩
def Reg.LNK.DEGRADE_SB_LIMIT (b : Nat) : Field := ⟨b + 0x54, 24, 8, .rw, false, true, 16⟩
def Reg.LNK.TX_SEQ_NEXT (b : Nat) : Field := ⟨b + 0x58, 0, 12, .ro, false, false, 0⟩
def Reg.LNK.TX_SEQ_ACKED (b : Nat) : Field := ⟨b + 0x58, 12, 12, .ro, false, false, 4095⟩
def Reg.LNK.RX_SEQ_ACK_SENT (b : Nat) : Field := ⟨b + 0x5c, 0, 12, .ro, false, false, 4095⟩
def Reg.LNK.RX_SEQ_MISSING (b : Nat) : Field := ⟨b + 0x5c, 12, 10, .ro, false, false, 0⟩
def Reg.LNK.REPLAY_OUTSTANDING (b : Nat) : Field := ⟨b + 0x60, 0, 10, .ro, false, false, 0⟩
def Reg.LNK.REPLAY_QUEUED (b : Nat) : Field := ⟨b + 0x60, 10, 10, .ro, false, false, 0⟩
def Reg.LNK.REPLAY_HIGH (b : Nat) : Field := ⟨b + 0x60, 20, 10, .ro, false, false, 0⟩
def Reg.LNK.CRC_ERRORS (b : Nat) : Field := ⟨b + 0x64, 0, 32, .ro, false, false, 0⟩
def Reg.LNK.REPLAYS_SENT (b : Nat) : Field := ⟨b + 0x68, 0, 32, .ro, false, false, 0⟩
def Reg.LNK.NAKS_SENT (b : Nat) : Field := ⟨b + 0x6c, 0, 32, .ro, false, false, 0⟩
def Reg.LNK.DUPLICATES (b : Nat) : Field := ⟨b + 0x70, 0, 32, .ro, false, false, 0⟩
def Reg.LNK.WIDTH_CHANGES (b : Nat) : Field := ⟨b + 0x74, 0, 32, .ro, false, false, 0⟩
def Reg.LNK.DOWN_COUNT (b : Nat) : Field := ⟨b + 0x78, 0, 32, .ro, false, false, 0⟩
def Reg.LNK.TRAIN_FAILS (b : Nat) : Field := ⟨b + 0x7c, 0, 32, .ro, false, false, 0⟩
def Reg.LNK.FEC_CORR (b : Nat) (i : Nat) : Field := ⟨b + 0x80 + 4 * i, 0, 32, .ro, false, false, 0⟩
def Reg.LNK.FEC_UNCORR (b : Nat) : Field := ⟨b + 0xa0, 0, 32, .ro, false, false, 0⟩
def Reg.LNK.FEC_UNCORR_TOTAL (b : Nat) : Field := ⟨b + 0xa4, 0, 32, .ro, false, false, 0⟩
def Reg.LNK.SB_ERRORS (b : Nat) (i : Nat) : Field := ⟨b + 0xc0 + 4 * i, 0, 16, .ro, false, false, 0⟩
def Reg.LNK.XOFF_STATE_LOCAL (b : Nat) : Field := ⟨b + 0xe0, 0, 8, .ro, false, false, 0⟩
def Reg.LNK.XOFF_STATE_REMOTE (b : Nat) : Field := ⟨b + 0xe0, 8, 8, .ro, false, false, 0⟩
def Reg.LNK.XOFF_STATE_SKID (b : Nat) : Field := ⟨b + 0xe0, 16, 9, .ro, false, false, 0⟩
def Reg.LNK.SVC_OUTSTANDING (b : Nat) : Field := ⟨b + 0xe4, 0, 10, .ro, false, false, 0⟩
def Reg.LNK.LINK_LOST_COUNT (b : Nat) : Field := ⟨b + 0xe8, 0, 32, .ro, false, false, 0⟩
def Reg.LNK.LAST_DOWN (b : Nat) : Field := ⟨b + 0xf0, 0, 64, .ro, false, false, 0⟩

/-- Every field of the LNK page (or block). -/
def rowsLNK (b : Nat) : List Row :=
  [⟨Reg.LNK.LINK_STATUS_TRAIN_STATE b, 0, 1⟩, ⟨Reg.LNK.LINK_STATUS_UP b, 0, 1⟩, ⟨Reg.LNK.LINK_STATUS_TX_WIDTH b, 0, 1⟩, ⟨Reg.LNK.LINK_STATUS_RX_WIDTH b, 0, 1⟩, ⟨Reg.LNK.LINK_STATUS_TX_MASK b, 0, 1⟩, ⟨Reg.LNK.LINK_STATUS_RX_MASK b, 0, 1⟩, ⟨Reg.LNK.LINK_STATUS_CHANGE_PENDING b, 0, 1⟩, ⟨Reg.LNK.LANE_STATE b, 0, 1⟩, ⟨Reg.LNK.CTRL_ENABLE b, 0, 1⟩, ⟨Reg.LNK.CTRL_AUTO_RETRAIN b, 0, 1⟩, ⟨Reg.LNK.CTRL_AUTO_DROP b, 0, 1⟩, ⟨Reg.LNK.CTRL_AUTO_ADD b, 0, 1⟩]
  ++ [⟨Reg.LNK.LANE_CMD_RETRAIN_LANE b, 0, 1⟩, ⟨Reg.LNK.LANE_CMD_RETRAIN_LINK b, 0, 1⟩, ⟨Reg.LNK.DOWN_TIMEOUT b, 0, 1⟩, ⟨Reg.LNK.DEGRADE_SYM_LIMIT b, 0, 1⟩, ⟨Reg.LNK.DEGRADE_SB_LIMIT b, 0, 1⟩, ⟨Reg.LNK.TX_SEQ_NEXT b, 0, 1⟩, ⟨Reg.LNK.TX_SEQ_ACKED b, 0, 1⟩, ⟨Reg.LNK.RX_SEQ_ACK_SENT b, 0, 1⟩, ⟨Reg.LNK.RX_SEQ_MISSING b, 0, 1⟩, ⟨Reg.LNK.REPLAY_OUTSTANDING b, 0, 1⟩, ⟨Reg.LNK.REPLAY_QUEUED b, 0, 1⟩, ⟨Reg.LNK.REPLAY_HIGH b, 0, 1⟩]
  ++ [⟨Reg.LNK.CRC_ERRORS b, 0, 1⟩, ⟨Reg.LNK.REPLAYS_SENT b, 0, 1⟩, ⟨Reg.LNK.NAKS_SENT b, 0, 1⟩, ⟨Reg.LNK.DUPLICATES b, 0, 1⟩, ⟨Reg.LNK.WIDTH_CHANGES b, 0, 1⟩, ⟨Reg.LNK.DOWN_COUNT b, 0, 1⟩, ⟨Reg.LNK.TRAIN_FAILS b, 0, 1⟩, ⟨Reg.LNK.FEC_CORR b 0, 4, 8⟩, ⟨Reg.LNK.FEC_UNCORR b, 0, 1⟩, ⟨Reg.LNK.FEC_UNCORR_TOTAL b, 0, 1⟩, ⟨Reg.LNK.SB_ERRORS b 0, 4, 8⟩, ⟨Reg.LNK.XOFF_STATE_LOCAL b, 0, 1⟩]
  ++ [⟨Reg.LNK.XOFF_STATE_REMOTE b, 0, 1⟩, ⟨Reg.LNK.XOFF_STATE_SKID b, 0, 1⟩, ⟨Reg.LNK.SVC_OUTSTANDING b, 0, 1⟩, ⟨Reg.LNK.LINK_LOST_COUNT b, 0, 1⟩, ⟨Reg.LNK.LAST_DOWN b, 0, 1⟩]

/-! ### TEL (R255; spec/10_service_plane.md) -/

def Reg.TEL.TEL_CTRL (b : Nat) : Field := ⟨b + 0x40, 0, 5, .rw, false, true, 20⟩
def Reg.TEL.TEL_SEQ (b : Nat) : Field := ⟨b + 0x44, 0, 32, .ro, false, false, 0⟩
def Reg.TEL.TEL_START (b : Nat) : Field := ⟨b + 0x48, 0, 64, .ro, false, false, 0⟩
def Reg.TEL.TX_FLITS (b : Nat) (i : Nat) : Field := ⟨b + 0x50 + 4 * i, 0, 32, .ro, false, false, 0⟩
def Reg.TEL.RX_FLITS (b : Nat) (i : Nat) : Field := ⟨b + 0x60 + 4 * i, 0, 32, .ro, false, false, 0⟩
def Reg.TEL.REPLAYS (b : Nat) : Field := ⟨b + 0x70, 0, 32, .ro, false, false, 0⟩
def Reg.TEL.NAKS (b : Nat) : Field := ⟨b + 0x74, 0, 32, .ro, false, false, 0⟩
def Reg.TEL.COUCH_HIGH (b : Nat) : Field := ⟨b + 0x78, 0, 11, .ro, false, false, 0⟩
def Reg.TEL.LANES_LANE_STATE (b : Nat) : Field := ⟨b + 0x7c, 0, 16, .ro, false, false, 0⟩
def Reg.TEL.LANES_TX_WIDTH (b : Nat) : Field := ⟨b + 0x7c, 16, 4, .ro, false, false, 0⟩
def Reg.TEL.LANES_RX_WIDTH (b : Nat) : Field := ⟨b + 0x7c, 20, 4, .ro, false, false, 0⟩
def Reg.TEL.LANES_CHANGES (b : Nat) : Field := ⟨b + 0x7c, 24, 8, .ro, false, false, 0⟩
def Reg.TEL.VC_DEPTH_HIGH_RX_HIGH (b : Nat) (i : Nat) : Field := ⟨b + 0x80 + 4 * i, 0, 9, .ro, false, false, 0⟩
def Reg.TEL.VC_DEPTH_HIGH_TX_HIGH (b : Nat) (i : Nat) : Field := ⟨b + 0x80 + 4 * i, 16, 9, .ro, false, false, 0⟩
def Reg.TEL.VC_STALL (b : Nat) (i : Nat) : Field := ⟨b + 0xa0 + 4 * i, 0, 32, .ro, false, false, 0⟩

/-- Every field of the TEL page (or block). -/
def rowsTEL (b : Nat) : List Row :=
  [⟨Reg.TEL.TEL_CTRL b, 0, 1⟩, ⟨Reg.TEL.TEL_SEQ b, 0, 1⟩, ⟨Reg.TEL.TEL_START b, 0, 1⟩, ⟨Reg.TEL.TX_FLITS b 0, 4, 4⟩, ⟨Reg.TEL.RX_FLITS b 0, 4, 4⟩, ⟨Reg.TEL.REPLAYS b, 0, 1⟩, ⟨Reg.TEL.NAKS b, 0, 1⟩, ⟨Reg.TEL.COUCH_HIGH b, 0, 1⟩, ⟨Reg.TEL.LANES_LANE_STATE b, 0, 1⟩, ⟨Reg.TEL.LANES_TX_WIDTH b, 0, 1⟩, ⟨Reg.TEL.LANES_RX_WIDTH b, 0, 1⟩, ⟨Reg.TEL.LANES_CHANGES b, 0, 1⟩]
  ++ [⟨Reg.TEL.VC_DEPTH_HIGH_RX_HIGH b 0, 4, 8⟩, ⟨Reg.TEL.VC_DEPTH_HIGH_TX_HIGH b 0, 4, 8⟩, ⟨Reg.TEL.VC_STALL b 0, 4, 8⟩]

/-! ### NI (R256; spec/10_service_plane.md) -/

def Reg.NI.NI_TABLE_ACTIVE : Field := ⟨0x8040, 0, 1, .ro, false, false, 0⟩
def Reg.NI.NI_TABLE_READY : Field := ⟨0x8040, 1, 1, .ro, false, false, 0⟩
def Reg.NI.NI_TABLE_TAIL : Field := ⟨0x8040, 2, 1, .ro, false, false, 0⟩
def Reg.NI.NI_CMD_CHECK : Field := ⟨0x8044, 0, 1, .cmd, false, false, 0⟩
def Reg.NI.NI_CMD_FLIP : Field := ⟨0x8044, 1, 1, .cmd, true, false, 0⟩
def Reg.NI.NI_RT_LEN : Field := ⟨0x8048, 0, 17, .rw, false, false, 0⟩
def Reg.NI.NI_RT_REF : Field := ⟨0x804c, 0, 32, .rw, false, false, 0⟩
def Reg.NI.NI_RANK_RANK : Field := ⟨0x8050, 0, 16, .ro, false, false, 0⟩
def Reg.NI.NI_RANK_VALID : Field := ⟨0x8050, 16, 1, .ro, false, false, 0⟩
def Reg.NI.NI_REQ_TIMEOUT : Field := ⟨0x8054, 0, 10, .rw, false, true, 200⟩
def Reg.NI.REQ_SENT : Field := ⟨0x8058, 0, 32, .ro, false, false, 0⟩
def Reg.NI.TIMEOUTS : Field := ⟨0x805c, 0, 32, .ro, false, false, 0⟩
def Reg.NI.NO_ROUTES : Field := ⟨0x8060, 0, 32, .ro, false, false, 0⟩
def Reg.NI.STALE_FREED : Field := ⟨0x8064, 0, 32, .ro, false, false, 0⟩
def Reg.NI.UNAUTH_DROPS : Field := ⟨0x8068, 0, 32, .ro, false, false, 0⟩
def Reg.NI.AUTH_FAILS : Field := ⟨0x806c, 0, 32, .ro, false, false, 0⟩
def Reg.NI.SESSIONS : Field := ⟨0x8070, 0, 5, .ro, false, false, 0⟩

/-- Every field of the NI page (or block). -/
def rowsNI : List Row :=
  [⟨Reg.NI.NI_TABLE_ACTIVE, 0, 1⟩, ⟨Reg.NI.NI_TABLE_READY, 0, 1⟩, ⟨Reg.NI.NI_TABLE_TAIL, 0, 1⟩, ⟨Reg.NI.NI_CMD_CHECK, 0, 1⟩, ⟨Reg.NI.NI_CMD_FLIP, 0, 1⟩, ⟨Reg.NI.NI_RT_LEN, 0, 1⟩, ⟨Reg.NI.NI_RT_REF, 0, 1⟩, ⟨Reg.NI.NI_RANK_RANK, 0, 1⟩, ⟨Reg.NI.NI_RANK_VALID, 0, 1⟩, ⟨Reg.NI.NI_REQ_TIMEOUT, 0, 1⟩, ⟨Reg.NI.REQ_SENT, 0, 1⟩, ⟨Reg.NI.TIMEOUTS, 0, 1⟩]
  ++ [⟨Reg.NI.NO_ROUTES, 0, 1⟩, ⟨Reg.NI.STALE_FREED, 0, 1⟩, ⟨Reg.NI.UNAUTH_DROPS, 0, 1⟩, ⟨Reg.NI.AUTH_FAILS, 0, 1⟩, ⟨Reg.NI.SESSIONS, 0, 1⟩]

/-! ### SES (R288; spec/11_serving.md) -/

def Reg.SES.SES_STATUS_IN_JOB : Field := ⟨0x7040, 0, 1, .ro, false, false, 0⟩
def Reg.SES.SES_STATUS_LEAD : Field := ⟨0x7040, 1, 1, .ro, false, false, 0⟩
def Reg.SES.SES_STATUS_LOG_KEEPER : Field := ⟨0x7040, 2, 1, .ro, false, false, 0⟩
def Reg.SES.SES_STATUS_MODE : Field := ⟨0x7040, 3, 1, .ro, false, false, 0⟩
def Reg.SES.SES_STATUS_VARIANT : Field := ⟨0x7040, 4, 2, .ro, false, false, 0⟩
def Reg.SES.SES_STATUS_OTHER_FREE : Field := ⟨0x7040, 6, 1, .ro, false, false, 0⟩
def Reg.SES.SES_STATUS_WEIGHT_SET : Field := ⟨0x7040, 8, 8, .ro, false, false, 0⟩
def Reg.SES.SES_STATUS_OTHER_SET : Field := ⟨0x7040, 16, 8, .ro, false, false, 0⟩
def Reg.SES.STEP_NUM : Field := ⟨0x7044, 0, 32, .ro, false, false, 0⟩
def Reg.SES.STEP_TAKEN : Field := ⟨0x7048, 0, 32, .ro, false, false, 0⟩
def Reg.SES.INPUT_TAKEN : Field := ⟨0x704c, 0, 32, .ro, false, false, 0⟩
def Reg.SES.GEOMETRY_SLOTS : Field := ⟨0x7050, 0, 13, .ro, false, false, 0⟩
def Reg.SES.GEOMETRY_CHUNK_SLOTS : Field := ⟨0x7050, 13, 9, .ro, false, false, 0⟩
def Reg.SES.GEOMETRY_SPEC_K : Field := ⟨0x7050, 22, 3, .ro, false, false, 0⟩
def Reg.SES.PAGE_GEOM_PAGE_TOKENS : Field := ⟨0x7054, 0, 13, .ro, false, false, 0⟩
def Reg.SES.PAGE_GEOM_MAX_CTX_PAGES : Field := ⟨0x7054, 16, 13, .ro, false, false, 0⟩
def Reg.SES.CUTOFF : Field := ⟨0x7058, 0, 21, .ro, false, false, 0⟩
def Reg.SES.BUILD : Field := ⟨0x705c, 0, 21, .ro, false, false, 0⟩
def Reg.SES.TABLE_BASE : Field := ⟨0x7060, 0, 48, .ro, false, false, 0⟩
def Reg.SES.SESSIONS : Field := ⟨0x7068, 0, 21, .ro, false, false, 0⟩
def Reg.SES.PL_BASE : Field := ⟨0x706c, 0, 48, .ro, false, false, 0⟩
def Reg.SES.PL_BLOCKS : Field := ⟨0x7074, 0, 32, .ro, false, false, 0⟩
def Reg.SES.ADAPTER_BASE : Field := ⟨0x7078, 0, 48, .ro, false, false, 0⟩
def Reg.SES.LOG_BASE : Field := ⟨0x7080, 0, 48, .ro, false, false, 0⟩
def Reg.SES.LOG_PAGES : Field := ⟨0x7088, 0, 28, .ro, false, false, 0⟩
def Reg.SES.LOG_FREE : Field := ⟨0x708c, 0, 28, .ro, false, false, 0⟩
def Reg.SES.GEN_SEED : Field := ⟨0x7090, 0, 64, .ro, false, false, 0⟩
def Reg.SES.HBM_LOW : Field := ⟨0x7098, 0, 24, .ro, false, false, 0⟩
def Reg.SES.AUTO_TTL : Field := ⟨0x709c, 0, 32, .ro, false, false, 0⟩
def Reg.SES.SESS_ACTIVE : Field := ⟨0x70a0, 0, 21, .ro, false, false, 0⟩
def Reg.SES.SESS_PAUSED : Field := ⟨0x70a4, 0, 21, .ro, false, false, 0⟩
def Reg.SES.GEN_SESSIONS : Field := ⟨0x70a8, 0, 21, .ro, false, false, 0⟩
def Reg.SES.QUARANTINE : Field := ⟨0x70ac, 0, 28, .ro, false, false, 0⟩
def Reg.SES.RETIRED : Field := ⟨0x70b0, 0, 28, .ro, false, false, 0⟩
def Reg.SES.NOT_READY_TOTAL : Field := ⟨0x70b4, 0, 32, .ro, false, false, 0⟩
def Reg.SES.RESULTS_LOST_COUNT : Field := ⟨0x70b8, 0, 32, .ro, false, false, 0⟩
def Reg.SES.RING_BASE : Field := ⟨0x70c0, 0, 64, .rw, false, true, 0⟩
def Reg.SES.RING_ENTRIES : Field := ⟨0x70c8, 0, 16, .rw, false, true, 0⟩
def Reg.SES.RING_CONSUMED : Field := ⟨0x70cc, 0, 32, .rw, false, false, 0⟩
def Reg.SES.RING_SEQ_ADDR : Field := ⟨0x70d0, 0, 64, .rw, false, true, 0⟩
def Reg.SES.RING_CTRL_STEP_IRQ : Field := ⟨0x70d8, 0, 1, .rw, false, true, 0⟩
def Reg.SES.RING_CTRL_VECTOR : Field := ⟨0x70d8, 8, 8, .rw, false, true, 0⟩
def Reg.SES.RESULTS_PENDING : Field := ⟨0x70dc, 0, 7, .ro, false, false, 0⟩

/-- Every field of the SES page (or block). -/
def rowsSES : List Row :=
  [⟨Reg.SES.SES_STATUS_IN_JOB, 0, 1⟩, ⟨Reg.SES.SES_STATUS_LEAD, 0, 1⟩, ⟨Reg.SES.SES_STATUS_LOG_KEEPER, 0, 1⟩, ⟨Reg.SES.SES_STATUS_MODE, 0, 1⟩, ⟨Reg.SES.SES_STATUS_VARIANT, 0, 1⟩, ⟨Reg.SES.SES_STATUS_OTHER_FREE, 0, 1⟩, ⟨Reg.SES.SES_STATUS_WEIGHT_SET, 0, 1⟩, ⟨Reg.SES.SES_STATUS_OTHER_SET, 0, 1⟩, ⟨Reg.SES.STEP_NUM, 0, 1⟩, ⟨Reg.SES.STEP_TAKEN, 0, 1⟩, ⟨Reg.SES.INPUT_TAKEN, 0, 1⟩, ⟨Reg.SES.GEOMETRY_SLOTS, 0, 1⟩]
  ++ [⟨Reg.SES.GEOMETRY_CHUNK_SLOTS, 0, 1⟩, ⟨Reg.SES.GEOMETRY_SPEC_K, 0, 1⟩, ⟨Reg.SES.PAGE_GEOM_PAGE_TOKENS, 0, 1⟩, ⟨Reg.SES.PAGE_GEOM_MAX_CTX_PAGES, 0, 1⟩, ⟨Reg.SES.CUTOFF, 0, 1⟩, ⟨Reg.SES.BUILD, 0, 1⟩, ⟨Reg.SES.TABLE_BASE, 0, 1⟩, ⟨Reg.SES.SESSIONS, 0, 1⟩, ⟨Reg.SES.PL_BASE, 0, 1⟩, ⟨Reg.SES.PL_BLOCKS, 0, 1⟩, ⟨Reg.SES.ADAPTER_BASE, 0, 1⟩, ⟨Reg.SES.LOG_BASE, 0, 1⟩]
  ++ [⟨Reg.SES.LOG_PAGES, 0, 1⟩, ⟨Reg.SES.LOG_FREE, 0, 1⟩, ⟨Reg.SES.GEN_SEED, 0, 1⟩, ⟨Reg.SES.HBM_LOW, 0, 1⟩, ⟨Reg.SES.AUTO_TTL, 0, 1⟩, ⟨Reg.SES.SESS_ACTIVE, 0, 1⟩, ⟨Reg.SES.SESS_PAUSED, 0, 1⟩, ⟨Reg.SES.GEN_SESSIONS, 0, 1⟩, ⟨Reg.SES.QUARANTINE, 0, 1⟩, ⟨Reg.SES.RETIRED, 0, 1⟩, ⟨Reg.SES.NOT_READY_TOTAL, 0, 1⟩, ⟨Reg.SES.RESULTS_LOST_COUNT, 0, 1⟩]
  ++ [⟨Reg.SES.RING_BASE, 0, 1⟩, ⟨Reg.SES.RING_ENTRIES, 0, 1⟩, ⟨Reg.SES.RING_CONSUMED, 0, 1⟩, ⟨Reg.SES.RING_SEQ_ADDR, 0, 1⟩, ⟨Reg.SES.RING_CTRL_STEP_IRQ, 0, 1⟩, ⟨Reg.SES.RING_CTRL_VECTOR, 0, 1⟩, ⟨Reg.SES.RESULTS_PENDING, 0, 1⟩]

/-! ### HDB (R302; spec/12_headbox.md) -/

def Reg.HDB.HDB_STATUS_INTAKE : Field := ⟨0x6040, 0, 2, .ro, false, false, 0⟩
def Reg.HDB.HDB_STATUS_DESC : Field := ⟨0x6040, 2, 2, .ro, false, false, 0⟩
def Reg.HDB.HDB_STATUS_KIND : Field := ⟨0x6040, 4, 1, .ro, false, false, 0⟩
def Reg.HDB.HDB_STATUS_FAIL : Field := ⟨0x6040, 5, 1, .ro, false, false, 0⟩
def Reg.HDB.HDB_STATUS_FAIL_CODE : Field := ⟨0x6040, 8, 4, .ro, false, false, 0⟩
def Reg.HDB.CMD_OPEN : Field := ⟨0x6044, 0, 1, .cmd, true, false, 0⟩
def Reg.HDB.CMD_ABORT : Field := ⟨0x6044, 1, 1, .cmd, true, false, 0⟩
def Reg.HDB.CMD_ACTIVATE : Field := ⟨0x6044, 2, 1, .cmd, true, false, 0⟩
def Reg.HDB.CMD_RELEASE : Field := ⟨0x6044, 3, 1, .cmd, true, false, 0⟩
def Reg.HDB.CMD_DESC : Field := ⟨0x6044, 4, 2, .rm, true, true, 0⟩
def Reg.HDB.MAN_ADDR : Field := ⟨0x6048, 0, 64, .rw, false, false, 0⟩
def Reg.HDB.CHUNK_ADDR : Field := ⟨0x6050, 0, 64, .rw, false, false, 0⟩
def Reg.HDB.CHUNKS_AVAIL : Field := ⟨0x6058, 0, 21, .rw, false, false, 0⟩
def Reg.HDB.CHUNKS_DONE : Field := ⟨0x605c, 0, 21, .ro, false, false, 0⟩
def Reg.HDB.FAIL_CHUNK_INDEX : Field := ⟨0x6060, 0, 20, .ro, false, false, 0⟩
def Reg.HDB.FAIL_CHUNK_VALID : Field := ⟨0x6060, 31, 1, .ro, false, false, 0⟩
def Reg.HDB.ADAPTER_DEST : Field := ⟨0x6064, 0, 48, .rw, false, false, 0⟩
def Reg.HDB.MAN_BASE : Field := ⟨0x6070, 0, 48, .rw, false, true, 0⟩
def Reg.HDB.WPTR : Field := ⟨0x6078, 0, 21, .ro, false, false, 0⟩
def Reg.HDB.WS_CTRL_SET (i : Nat) : Field := ⟨0x6080 + 16 * i, 0, 8, .rw, false, true, 0⟩
def Reg.HDB.WS_CTRL_STATE (i : Nat) : Field := ⟨0x6080 + 16 * i, 8, 3, .ro, false, false, 0⟩
def Reg.HDB.WS_CTRL_DAMAGED (i : Nat) : Field := ⟨0x6080 + 16 * i, 11, 1, .ro, false, false, 0⟩
def Reg.HDB.WS_OFFSET (i : Nat) : Field := ⟨0x6084 + 16 * i, 0, 21, .rw, false, true, 0⟩
def Reg.HDB.WS_SIZE (i : Nat) : Field := ⟨0x6088 + 16 * i, 0, 21, .rw, false, true, 0⟩
def Reg.HDB.KEY_VALID : Field := ⟨0x60c0, 0, 8, .ro, false, false, 0⟩
def Reg.HDB.CHUNK_FAILS : Field := ⟨0x60c4, 0, 32, .ro, false, false, 0⟩
def Reg.HDB.KEY_ID (i : Nat) : Field := ⟨0x6200 + 32 * i, 0, 256, .ro, false, false, 0⟩

/-- Every field of the HDB page (or block). -/
def rowsHDB : List Row :=
  [⟨Reg.HDB.HDB_STATUS_INTAKE, 0, 1⟩, ⟨Reg.HDB.HDB_STATUS_DESC, 0, 1⟩, ⟨Reg.HDB.HDB_STATUS_KIND, 0, 1⟩, ⟨Reg.HDB.HDB_STATUS_FAIL, 0, 1⟩, ⟨Reg.HDB.HDB_STATUS_FAIL_CODE, 0, 1⟩, ⟨Reg.HDB.CMD_OPEN, 0, 1⟩, ⟨Reg.HDB.CMD_ABORT, 0, 1⟩, ⟨Reg.HDB.CMD_ACTIVATE, 0, 1⟩, ⟨Reg.HDB.CMD_RELEASE, 0, 1⟩, ⟨Reg.HDB.CMD_DESC, 0, 1⟩, ⟨Reg.HDB.MAN_ADDR, 0, 1⟩, ⟨Reg.HDB.CHUNK_ADDR, 0, 1⟩]
  ++ [⟨Reg.HDB.CHUNKS_AVAIL, 0, 1⟩, ⟨Reg.HDB.CHUNKS_DONE, 0, 1⟩, ⟨Reg.HDB.FAIL_CHUNK_INDEX, 0, 1⟩, ⟨Reg.HDB.FAIL_CHUNK_VALID, 0, 1⟩, ⟨Reg.HDB.ADAPTER_DEST, 0, 1⟩, ⟨Reg.HDB.MAN_BASE, 0, 1⟩, ⟨Reg.HDB.WPTR, 0, 1⟩, ⟨Reg.HDB.WS_CTRL_SET 0, 16, 4⟩, ⟨Reg.HDB.WS_CTRL_STATE 0, 16, 4⟩, ⟨Reg.HDB.WS_CTRL_DAMAGED 0, 16, 4⟩, ⟨Reg.HDB.WS_OFFSET 0, 16, 4⟩, ⟨Reg.HDB.WS_SIZE 0, 16, 4⟩]
  ++ [⟨Reg.HDB.KEY_VALID, 0, 1⟩, ⟨Reg.HDB.CHUNK_FAILS, 0, 1⟩, ⟨Reg.HDB.KEY_ID 0, 32, 8⟩]

/-! ### PWR (R322; spec/13_power.md) -/

def Reg.PWR.LIVE_SAG_WARN : Field := ⟨0x3040, 0, 1, .ro, false, false, 0⟩
def Reg.PWR.LIVE_CAP_BELOW_PLAN : Field := ⟨0x3040, 1, 1, .ro, false, false, 0⟩
def Reg.PWR.LIVE_RAMPING : Field := ⟨0x3040, 2, 1, .ro, false, false, 0⟩
def Reg.PWR.LIVE_THERM_LIMIT : Field := ⟨0x3040, 3, 1, .ro, false, false, 0⟩
def Reg.PWR.LIVE_MEM_HOT : Field := ⟨0x3040, 4, 1, .ro, false, false, 0⟩
def Reg.PWR.CAP : Field := ⟨0x3044, 0, 12, .rw, true, true, 2800⟩
def Reg.PWR.TOKEN_LIMIT : Field := ⟨0x3048, 0, 9, .rw, true, true, 384⟩
def Reg.PWR.TOKENS_POOL : Field := ⟨0x304c, 0, 9, .ro, false, false, 0⟩
def Reg.PWR.TOKENS_GRANTED : Field := ⟨0x304c, 16, 9, .ro, false, false, 0⟩
def Reg.PWR.PLAN_POWER_NEED : Field := ⟨0x3050, 0, 12, .ro, false, false, 0⟩
def Reg.PWR.PLAN_POWER_FLOOR : Field := ⟨0x3050, 16, 12, .ro, false, false, 0⟩
def Reg.PWR.CAP_EFF_EFFECTIVE : Field := ⟨0x3054, 0, 12, .ro, false, false, 0⟩
def Reg.PWR.CAP_EFF_CORRECTION : Field := ⟨0x3054, 12, 12, .ro, false, false, 0⟩
def Reg.PWR.CAP_EFF_F_CAP : Field := ⟨0x3054, 24, 8, .ro, false, false, 0⟩
def Reg.PWR.INPUT_MV : Field := ⟨0x3058, 0, 16, .ro, false, false, 0⟩
def Reg.PWR.INPUT_MIN_MV : Field := ⟨0x3058, 16, 16, .ro, false, false, 0⟩
def Reg.PWR.DRAW_AVG : Field := ⟨0x305c, 0, 12, .ro, false, false, 0⟩
def Reg.PWR.DRAW_PEAK : Field := ⟨0x305c, 16, 12, .ro, false, false, 0⟩
def Reg.PWR.SAMPLE_CTRL : Field := ⟨0x3060, 0, 5, .rw, false, true, 23⟩
def Reg.PWR.SAG_FREQ : Field := ⟨0x3064, 0, 8, .rw, false, true, 80⟩
def Reg.PWR.THERM_CFG_TJ_TARGET : Field := ⟨0x3068, 0, 8, .rw, true, true, 100⟩
def Reg.PWR.THERM_CFG_MEM_TARGET : Field := ⟨0x3068, 8, 8, .rw, true, true, 90⟩
def Reg.PWR.THERM_CFG_THERM_STEP : Field := ⟨0x3068, 16, 4, .rw, false, true, 5⟩
def Reg.PWR.TEMP_MAX_DEGC : Field := ⟨0x306c, 0, 8, .ro, false, false, 0⟩
def Reg.PWR.TEMP_MAX_POINT : Field := ⟨0x306c, 8, 6, .ro, false, false, 0⟩
def Reg.PWR.COOLANT_INLET : Field := ⟨0x3070, 0, 8, .ro, false, false, 0⟩
def Reg.PWR.COOLANT_OUTLET : Field := ⟨0x3070, 8, 8, .ro, false, false, 0⟩
def Reg.PWR.LOAN_CFG_GROUP : Field := ⟨0x3074, 0, 12, .ro, false, false, 0⟩
def Reg.PWR.LOAN_CFG_CRITICAL : Field := ⟨0x3074, 12, 1, .ro, false, false, 0⟩
def Reg.PWR.LOAN_MARGIN : Field := ⟨0x3078, 0, 12, .rw, false, true, 50⟩
def Reg.PWR.SHELF_BUDGET : Field := ⟨0x307c, 0, 20, .ro, false, false, 0⟩
def Reg.PWR.LOAN_STATE_BORROWED : Field := ⟨0x3080, 0, 12, .ro, false, false, 0⟩
def Reg.PWR.LOAN_STATE_LENT : Field := ⟨0x3080, 16, 12, .ro, false, false, 0⟩
def Reg.PWR.LAST_GASP_VALID : Field := ⟨0x3084, 0, 1, .ro, false, false, 0⟩
def Reg.PWR.LAST_GASP_CAUSE : Field := ⟨0x3084, 1, 2, .ro, false, false, 0⟩
def Reg.PWR.SAG_COUNT : Field := ⟨0x3088, 0, 32, .ro, false, false, 0⟩
def Reg.PWR.TRIP_COUNT : Field := ⟨0x308c, 0, 32, .ro, false, false, 0⟩
def Reg.PWR.THERM_POINT (i : Nat) : Field := ⟨0x3100 + 4 * i, 0, 8, .ro, false, false, 0⟩

/-- Every field of the PWR page (or block). -/
def rowsPWR : List Row :=
  [⟨Reg.PWR.LIVE_SAG_WARN, 0, 1⟩, ⟨Reg.PWR.LIVE_CAP_BELOW_PLAN, 0, 1⟩, ⟨Reg.PWR.LIVE_RAMPING, 0, 1⟩, ⟨Reg.PWR.LIVE_THERM_LIMIT, 0, 1⟩, ⟨Reg.PWR.LIVE_MEM_HOT, 0, 1⟩, ⟨Reg.PWR.CAP, 0, 1⟩, ⟨Reg.PWR.TOKEN_LIMIT, 0, 1⟩, ⟨Reg.PWR.TOKENS_POOL, 0, 1⟩, ⟨Reg.PWR.TOKENS_GRANTED, 0, 1⟩, ⟨Reg.PWR.PLAN_POWER_NEED, 0, 1⟩, ⟨Reg.PWR.PLAN_POWER_FLOOR, 0, 1⟩, ⟨Reg.PWR.CAP_EFF_EFFECTIVE, 0, 1⟩]
  ++ [⟨Reg.PWR.CAP_EFF_CORRECTION, 0, 1⟩, ⟨Reg.PWR.CAP_EFF_F_CAP, 0, 1⟩, ⟨Reg.PWR.INPUT_MV, 0, 1⟩, ⟨Reg.PWR.INPUT_MIN_MV, 0, 1⟩, ⟨Reg.PWR.DRAW_AVG, 0, 1⟩, ⟨Reg.PWR.DRAW_PEAK, 0, 1⟩, ⟨Reg.PWR.SAMPLE_CTRL, 0, 1⟩, ⟨Reg.PWR.SAG_FREQ, 0, 1⟩, ⟨Reg.PWR.THERM_CFG_TJ_TARGET, 0, 1⟩, ⟨Reg.PWR.THERM_CFG_MEM_TARGET, 0, 1⟩, ⟨Reg.PWR.THERM_CFG_THERM_STEP, 0, 1⟩, ⟨Reg.PWR.TEMP_MAX_DEGC, 0, 1⟩]
  ++ [⟨Reg.PWR.TEMP_MAX_POINT, 0, 1⟩, ⟨Reg.PWR.COOLANT_INLET, 0, 1⟩, ⟨Reg.PWR.COOLANT_OUTLET, 0, 1⟩, ⟨Reg.PWR.LOAN_CFG_GROUP, 0, 1⟩, ⟨Reg.PWR.LOAN_CFG_CRITICAL, 0, 1⟩, ⟨Reg.PWR.LOAN_MARGIN, 0, 1⟩, ⟨Reg.PWR.SHELF_BUDGET, 0, 1⟩, ⟨Reg.PWR.LOAN_STATE_BORROWED, 0, 1⟩, ⟨Reg.PWR.LOAN_STATE_LENT, 0, 1⟩, ⟨Reg.PWR.LAST_GASP_VALID, 0, 1⟩, ⟨Reg.PWR.LAST_GASP_CAUSE, 0, 1⟩, ⟨Reg.PWR.SAG_COUNT, 0, 1⟩]
  ++ [⟨Reg.PWR.TRIP_COUNT, 0, 1⟩, ⟨Reg.PWR.THERM_POINT 0, 4, 64⟩]

/-! ### PCI (R367; spec/15_host_interface.md) -/

def Reg.PCI.PCI_STATUS_SPEED : Field := ⟨0x4040, 0, 4, .ro, false, false, 0⟩
def Reg.PCI.PCI_STATUS_WIDTH : Field := ⟨0x4040, 4, 5, .ro, false, false, 0⟩
def Reg.PCI.PCI_STATUS_FLIT : Field := ⟨0x4040, 9, 1, .ro, false, false, 0⟩
def Reg.PCI.PCI_STATUS_MGT_READY : Field := ⟨0x4040, 10, 1, .ro, false, false, 0⟩
def Reg.PCI.PCI_STATUS_MINIMAL : Field := ⟨0x4040, 11, 1, .ro, false, false, 0⟩
def Reg.PCI.PCI_STATUS_MODULE_RESET : Field := ⟨0x4040, 12, 1, .ro, false, false, 0⟩
def Reg.PCI.PCI_STATUS_D3HOT : Field := ⟨0x4040, 13, 1, .ro, false, false, 0⟩
def Reg.PCI.WIN_BASE (i : Nat) : Field := ⟨0x4080 + 16 * i, 0, 48, .rw, false, false, 0⟩
def Reg.PCI.WIN_CTRL_KIND (i : Nat) : Field := ⟨0x4088 + 16 * i, 0, 3, .rw, false, false, 0⟩
def Reg.PCI.WIN_CTRL_WRITE (i : Nat) : Field := ⟨0x4088 + 16 * i, 3, 1, .rw, false, false, 0⟩
def Reg.PCI.Q_BASE (i : Nat) : Field := ⟨0x4200 + 32 * i, 0, 64, .rw, false, true, 0⟩
def Reg.PCI.Q_CPL (i : Nat) : Field := ⟨0x4208 + 32 * i, 0, 64, .rw, false, true, 0⟩
def Reg.PCI.Q_CTRL_LOG2_ENTRIES (i : Nat) : Field := ⟨0x4210 + 32 * i, 0, 5, .rw, false, true, 6⟩
def Reg.PCI.Q_CTRL_ENABLE (i : Nat) : Field := ⟨0x4210 + 32 * i, 5, 1, .rw, false, true, 0⟩
def Reg.PCI.Q_TAIL (i : Nat) : Field := ⟨0x4214 + 32 * i, 0, 16, .rw, false, false, 0⟩
def Reg.PCI.Q_HEAD (i : Nat) : Field := ⟨0x4218 + 32 * i, 0, 16, .ro, false, false, 0⟩
def Reg.PCI.Q_DONE (i : Nat) : Field := ⟨0x421c + 32 * i, 0, 32, .ro, false, false, 0⟩
def Reg.PCI.EVT_BASE : Field := ⟨0x4300, 0, 64, .rw, false, true, 0⟩
def Reg.PCI.EVT_CTRL_LOG2_ENTRIES : Field := ⟨0x4308, 0, 5, .rw, false, true, 6⟩
def Reg.PCI.EVT_CTRL_ENABLE : Field := ⟨0x4308, 5, 1, .rw, false, true, 0⟩
def Reg.PCI.EVT_WRITTEN : Field := ⟨0x430c, 0, 32, .ro, false, false, 0⟩
def Reg.PCI.EVT_CONSUMED : Field := ⟨0x4310, 0, 32, .rw, false, false, 0⟩
def Reg.PCI.EVT_LOST : Field := ⟨0x4314, 0, 32, .ro, false, false, 0⟩
def Reg.PCI.MBX_BASE : Field := ⟨0x4320, 0, 64, .rw, false, true, 0⟩
def Reg.PCI.MBX_CTRL_LOG2_ENTRIES : Field := ⟨0x4328, 0, 5, .rw, false, true, 4⟩
def Reg.PCI.MBX_CTRL_ENABLE : Field := ⟨0x4328, 5, 1, .rw, false, true, 0⟩
def Reg.PCI.MBX_WRITTEN : Field := ⟨0x432c, 0, 32, .ro, false, false, 0⟩
def Reg.PCI.MBX_CONSUMED : Field := ⟨0x4330, 0, 32, .rw, false, false, 0⟩
def Reg.PCI.LOAD_ADDR : Field := ⟨0x4340, 0, 64, .rw, false, false, 0⟩
def Reg.PCI.LOAD_LEN : Field := ⟨0x4348, 0, 32, .rw, false, false, 0⟩
def Reg.PCI.LOAD_CMD_START : Field := ⟨0x434c, 0, 1, .cmd, true, false, 0⟩
def Reg.PCI.LOAD_CMD_DISCARD : Field := ⟨0x434c, 1, 1, .cmd, true, false, 0⟩
def Reg.PCI.LOAD_STATUS_STATE : Field := ⟨0x4350, 0, 2, .ro, false, false, 0⟩
def Reg.PCI.LOAD_STATUS_CODE : Field := ⟨0x4350, 8, 8, .ro, false, false, 0⟩
def Reg.PCI.LOAD_STATUS_DETAIL : Field := ⟨0x4350, 16, 16, .ro, false, false, 0⟩

/-- Every field of the PCI page (or block). -/
def rowsPCI : List Row :=
  [⟨Reg.PCI.PCI_STATUS_SPEED, 0, 1⟩, ⟨Reg.PCI.PCI_STATUS_WIDTH, 0, 1⟩, ⟨Reg.PCI.PCI_STATUS_FLIT, 0, 1⟩, ⟨Reg.PCI.PCI_STATUS_MGT_READY, 0, 1⟩, ⟨Reg.PCI.PCI_STATUS_MINIMAL, 0, 1⟩, ⟨Reg.PCI.PCI_STATUS_MODULE_RESET, 0, 1⟩, ⟨Reg.PCI.PCI_STATUS_D3HOT, 0, 1⟩, ⟨Reg.PCI.WIN_BASE 0, 16, 16⟩, ⟨Reg.PCI.WIN_CTRL_KIND 0, 16, 16⟩, ⟨Reg.PCI.WIN_CTRL_WRITE 0, 16, 16⟩, ⟨Reg.PCI.Q_BASE 0, 32, 8⟩, ⟨Reg.PCI.Q_CPL 0, 32, 8⟩]
  ++ [⟨Reg.PCI.Q_CTRL_LOG2_ENTRIES 0, 32, 8⟩, ⟨Reg.PCI.Q_CTRL_ENABLE 0, 32, 8⟩, ⟨Reg.PCI.Q_TAIL 0, 32, 8⟩, ⟨Reg.PCI.Q_HEAD 0, 32, 8⟩, ⟨Reg.PCI.Q_DONE 0, 32, 8⟩, ⟨Reg.PCI.EVT_BASE, 0, 1⟩, ⟨Reg.PCI.EVT_CTRL_LOG2_ENTRIES, 0, 1⟩, ⟨Reg.PCI.EVT_CTRL_ENABLE, 0, 1⟩, ⟨Reg.PCI.EVT_WRITTEN, 0, 1⟩, ⟨Reg.PCI.EVT_CONSUMED, 0, 1⟩, ⟨Reg.PCI.EVT_LOST, 0, 1⟩, ⟨Reg.PCI.MBX_BASE, 0, 1⟩]
  ++ [⟨Reg.PCI.MBX_CTRL_LOG2_ENTRIES, 0, 1⟩, ⟨Reg.PCI.MBX_CTRL_ENABLE, 0, 1⟩, ⟨Reg.PCI.MBX_WRITTEN, 0, 1⟩, ⟨Reg.PCI.MBX_CONSUMED, 0, 1⟩, ⟨Reg.PCI.LOAD_ADDR, 0, 1⟩, ⟨Reg.PCI.LOAD_LEN, 0, 1⟩, ⟨Reg.PCI.LOAD_CMD_START, 0, 1⟩, ⟨Reg.PCI.LOAD_CMD_DISCARD, 0, 1⟩, ⟨Reg.PCI.LOAD_STATUS_STATE, 0, 1⟩, ⟨Reg.PCI.LOAD_STATUS_CODE, 0, 1⟩, ⟨Reg.PCI.LOAD_STATUS_DETAIL, 0, 1⟩]

/-! ### HDR (R373; spec/16_registers.md) -/

def Reg.HDR.PAGE_ID_TYPE (b : Nat) : Field := ⟨b + 0x0, 0, 8, .ro, false, false, 0⟩
def Reg.HDR.PAGE_ID_INSTANCE (b : Nat) : Field := ⟨b + 0x0, 8, 8, .ro, false, false, 0⟩
def Reg.HDR.PAGE_ID_CLUSTER (b : Nat) : Field := ⟨b + 0x0, 16, 8, .ro, false, false, 0⟩
def Reg.HDR.PAGE_ID_VERSION (b : Nat) : Field := ⟨b + 0x0, 24, 4, .ro, false, false, 1⟩
def Reg.HDR.PAGE_CAPS_CONFIG (b : Nat) : Field := ⟨b + 0x4, 0, 1, .ro, false, false, 0⟩
def Reg.HDR.PAGE_CAPS_GUARDED (b : Nat) : Field := ⟨b + 0x4, 1, 1, .ro, false, false, 0⟩
def Reg.HDR.PAGE_CAPS_ENG_BLOCKS (b : Nat) : Field := ⟨b + 0x4, 2, 2, .ro, false, false, 0⟩
def Reg.HDR.PAGE_CAPS_ENG_BASE (b : Nat) : Field := ⟨b + 0x4, 8, 8, .ro, false, false, 0⟩
def Reg.HDR.STATUS (b : Nat) : Field := ⟨b + 0x8, 0, 16, .ro, false, false, 0⟩
def Reg.HDR.ERR_STICKY (b : Nat) : Field := ⟨b + 0xc, 0, 16, .sc, false, false, 0⟩
def Reg.HDR.ERR_ENABLE (b : Nat) : Field := ⟨b + 0x10, 0, 16, .rw, false, false, 0⟩
def Reg.HDR.ERR_FIRST (b : Nat) : Field := ⟨b + 0x14, 0, 5, .ro, false, false, 0⟩
def Reg.HDR.ERR_FIRST_TIME (b : Nat) : Field := ⟨b + 0x18, 0, 32, .ro, false, false, 0⟩
def Reg.HDR.LOCK_STATE_HOST_OPEN (b : Nat) : Field := ⟨b + 0x1c, 0, 1, .ro, false, false, 0⟩
def Reg.HDR.LOCK_STATE_MGT_OPEN (b : Nat) : Field := ⟨b + 0x1c, 1, 1, .ro, false, false, 0⟩
def Reg.HDR.LOCK_STATE_REFUSED (b : Nat) : Field := ⟨b + 0x1c, 8, 8, .ro, false, false, 0⟩
def Reg.HDR.CFG_CRC (b : Nat) : Field := ⟨b + 0x20, 0, 32, .ro, false, false, 0⟩

/-- Every field of the HDR page (or block). -/
def rowsHDR (b : Nat) : List Row :=
  [⟨Reg.HDR.PAGE_ID_TYPE b, 0, 1⟩, ⟨Reg.HDR.PAGE_ID_INSTANCE b, 0, 1⟩, ⟨Reg.HDR.PAGE_ID_CLUSTER b, 0, 1⟩, ⟨Reg.HDR.PAGE_ID_VERSION b, 0, 1⟩, ⟨Reg.HDR.PAGE_CAPS_CONFIG b, 0, 1⟩, ⟨Reg.HDR.PAGE_CAPS_GUARDED b, 0, 1⟩, ⟨Reg.HDR.PAGE_CAPS_ENG_BLOCKS b, 0, 1⟩, ⟨Reg.HDR.PAGE_CAPS_ENG_BASE b, 0, 1⟩, ⟨Reg.HDR.STATUS b, 0, 1⟩, ⟨Reg.HDR.ERR_STICKY b, 0, 1⟩, ⟨Reg.HDR.ERR_ENABLE b, 0, 1⟩, ⟨Reg.HDR.ERR_FIRST b, 0, 1⟩]
  ++ [⟨Reg.HDR.ERR_FIRST_TIME b, 0, 1⟩, ⟨Reg.HDR.LOCK_STATE_HOST_OPEN b, 0, 1⟩, ⟨Reg.HDR.LOCK_STATE_MGT_OPEN b, 0, 1⟩, ⟨Reg.HDR.LOCK_STATE_REFUSED b, 0, 1⟩, ⟨Reg.HDR.CFG_CRC b, 0, 1⟩]

/-! ### GLB (R389; spec/16_registers.md) -/

def Reg.GLB.IDENT_STEPPING : Field := ⟨0x40, 0, 8, .ro, false, false, 161⟩
def Reg.GLB.IDENT_BEHAVIOUR : Field := ⟨0x40, 8, 8, .ro, false, false, 161⟩
def Reg.GLB.MODULE_STATE_MINIMAL : Field := ⟨0x44, 0, 1, .ro, false, false, 0⟩
def Reg.GLB.MODULE_STATE_COMPUTE_IN_RESET : Field := ⟨0x44, 1, 1, .ro, false, false, 1⟩
def Reg.GLB.MODULE_STATE_MODULE_RESET : Field := ⟨0x44, 2, 1, .ro, false, false, 0⟩
def Reg.GLB.MODULE_STATE_IN_JOB : Field := ⟨0x44, 3, 1, .ro, false, false, 0⟩
def Reg.GLB.MODULE_STATE_PENDING : Field := ⟨0x44, 4, 1, .ro, false, false, 0⟩
def Reg.GLB.MODULE_STATE_FWD_ONLY : Field := ⟨0x44, 5, 1, .ro, false, false, 0⟩
def Reg.GLB.RESET_CTRL : Field := ⟨0x48, 0, 1, .cmd, true, false, 0⟩
def Reg.GLB.GUARD_UNLOCK_HOST_OPEN : Field := ⟨0x4c, 0, 1, .ro, false, false, 0⟩
def Reg.GLB.GUARD_UNLOCK_MGT_OPEN : Field := ⟨0x4c, 1, 1, .ro, false, false, 0⟩
def Reg.GLB.GUARD_REFUSALS : Field := ⟨0x50, 0, 32, .ro, false, false, 0⟩
def Reg.GLB.COORD_LO_X : Field := ⟨0x58, 0, 6, .rw, true, true, 0⟩
def Reg.GLB.COORD_LO_Y : Field := ⟨0x58, 6, 6, .rw, true, true, 0⟩
def Reg.GLB.COORD_LO_Z : Field := ⟨0x58, 12, 6, .rw, true, true, 0⟩
def Reg.GLB.COORD_LO_VALID : Field := ⟨0x58, 31, 1, .rw, true, true, 0⟩
def Reg.GLB.COORD_HI_RING_X : Field := ⟨0x5c, 0, 7, .rw, true, true, 0⟩
def Reg.GLB.COORD_HI_RING_Y : Field := ⟨0x5c, 7, 7, .rw, true, true, 0⟩
def Reg.GLB.COORD_HI_RING_Z : Field := ⟨0x5c, 14, 7, .rw, true, true, 0⟩
def Reg.GLB.CFG_CTRL_CHECK_EN : Field := ⟨0x60, 0, 1, .rm, true, false, 0⟩
def Reg.GLB.CFG_CTRL_MODE : Field := ⟨0x60, 1, 1, .rm, true, false, 0⟩
def Reg.GLB.CFG_CTRL_ADOPT : Field := ⟨0x60, 2, 1, .cmd, true, false, 0⟩
def Reg.GLB.CFG_REF : Field := ⟨0x64, 0, 32, .rw, true, false, 0⟩
def Reg.GLB.CFG_NOW : Field := ⟨0x68, 0, 32, .ro, false, false, 0⟩
def Reg.GLB.CFG_PASSES : Field := ⟨0x6c, 0, 32, .ro, false, false, 0⟩
def Reg.GLB.CFG_DRIFTS : Field := ⟨0x70, 0, 32, .ro, false, false, 0⟩
def Reg.GLB.JOB_CTRL_START : Field := ⟨0x80, 0, 1, .cmd, true, false, 0⟩
def Reg.GLB.JOB_CTRL_TEARDOWN : Field := ⟨0x80, 1, 1, .cmd, true, false, 0⟩
def Reg.GLB.JOB_CTRL_RELEASE_KEPT : Field := ⟨0x80, 2, 1, .cmd, true, false, 0⟩
def Reg.GLB.JOB_STATUS_STATE : Field := ⟨0x84, 0, 3, .ro, false, false, 0⟩
def Reg.GLB.JOB_STATUS_START_CODE : Field := ⟨0x84, 8, 8, .ro, false, false, 0⟩
def Reg.GLB.JOB_STATUS_TEARDOWN_CODE : Field := ⟨0x84, 16, 8, .ro, false, false, 0⟩
def Reg.GLB.START_T0 : Field := ⟨0x88, 0, 64, .rw, false, false, 0⟩
def Reg.GLB.TEARDOWN_SHEET : Field := ⟨0x90, 0, 48, .rw, false, false, 0⟩
def Reg.GLB.TEARDOWN_TICK : Field := ⟨0x98, 0, 64, .ro, false, false, 0⟩
def Reg.GLB.KEPT_SELECT : Field := ⟨0xa0, 0, 16, .rw, false, false, 0⟩
def Reg.GLB.KEPT_BASE (i : Nat) : Field := ⟨0x100 + 16 * i, 0, 48, .rw, false, false, 0⟩
def Reg.GLB.KEPT_LEN (i : Nat) : Field := ⟨0x108 + 16 * i, 0, 28, .rw, false, false, 0⟩
def Reg.GLB.KEPT_STATE_STATE (i : Nat) : Field := ⟨0x10c + 16 * i, 0, 2, .ro, false, false, 0⟩
def Reg.GLB.KEPT_STATE_TAG (i : Nat) : Field := ⟨0x10c + 16 * i, 16, 16, .ro, false, false, 0⟩

/-- Every field of the GLB page (or block). -/
def rowsGLB : List Row :=
  [⟨Reg.GLB.IDENT_STEPPING, 0, 1⟩, ⟨Reg.GLB.IDENT_BEHAVIOUR, 0, 1⟩, ⟨Reg.GLB.MODULE_STATE_MINIMAL, 0, 1⟩, ⟨Reg.GLB.MODULE_STATE_COMPUTE_IN_RESET, 0, 1⟩, ⟨Reg.GLB.MODULE_STATE_MODULE_RESET, 0, 1⟩, ⟨Reg.GLB.MODULE_STATE_IN_JOB, 0, 1⟩, ⟨Reg.GLB.MODULE_STATE_PENDING, 0, 1⟩, ⟨Reg.GLB.MODULE_STATE_FWD_ONLY, 0, 1⟩, ⟨Reg.GLB.RESET_CTRL, 0, 1⟩, ⟨Reg.GLB.GUARD_UNLOCK_HOST_OPEN, 0, 1⟩, ⟨Reg.GLB.GUARD_UNLOCK_MGT_OPEN, 0, 1⟩, ⟨Reg.GLB.GUARD_REFUSALS, 0, 1⟩]
  ++ [⟨Reg.GLB.COORD_LO_X, 0, 1⟩, ⟨Reg.GLB.COORD_LO_Y, 0, 1⟩, ⟨Reg.GLB.COORD_LO_Z, 0, 1⟩, ⟨Reg.GLB.COORD_LO_VALID, 0, 1⟩, ⟨Reg.GLB.COORD_HI_RING_X, 0, 1⟩, ⟨Reg.GLB.COORD_HI_RING_Y, 0, 1⟩, ⟨Reg.GLB.COORD_HI_RING_Z, 0, 1⟩, ⟨Reg.GLB.CFG_CTRL_CHECK_EN, 0, 1⟩, ⟨Reg.GLB.CFG_CTRL_MODE, 0, 1⟩, ⟨Reg.GLB.CFG_CTRL_ADOPT, 0, 1⟩, ⟨Reg.GLB.CFG_REF, 0, 1⟩, ⟨Reg.GLB.CFG_NOW, 0, 1⟩]
  ++ [⟨Reg.GLB.CFG_PASSES, 0, 1⟩, ⟨Reg.GLB.CFG_DRIFTS, 0, 1⟩, ⟨Reg.GLB.JOB_CTRL_START, 0, 1⟩, ⟨Reg.GLB.JOB_CTRL_TEARDOWN, 0, 1⟩, ⟨Reg.GLB.JOB_CTRL_RELEASE_KEPT, 0, 1⟩, ⟨Reg.GLB.JOB_STATUS_STATE, 0, 1⟩, ⟨Reg.GLB.JOB_STATUS_START_CODE, 0, 1⟩, ⟨Reg.GLB.JOB_STATUS_TEARDOWN_CODE, 0, 1⟩, ⟨Reg.GLB.START_T0, 0, 1⟩, ⟨Reg.GLB.TEARDOWN_SHEET, 0, 1⟩, ⟨Reg.GLB.TEARDOWN_TICK, 0, 1⟩, ⟨Reg.GLB.KEPT_SELECT, 0, 1⟩]
  ++ [⟨Reg.GLB.KEPT_BASE 0, 16, 16⟩, ⟨Reg.GLB.KEPT_LEN 0, 16, 16⟩, ⟨Reg.GLB.KEPT_STATE_STATE 0, 16, 16⟩, ⟨Reg.GLB.KEPT_STATE_TAG 0, 16, 16⟩]

/-! ### MGT (R414; spec/17_management.md) -/

def Reg.MGT.MGT_STATUS_BOOT_OK : Field := ⟨0x5040, 0, 1, .ro, false, false, 0⟩
def Reg.MGT.MGT_STATUS_MINIMAL : Field := ⟨0x5040, 1, 1, .ro, false, false, 0⟩
def Reg.MGT.MGT_STATUS_SLOT : Field := ⟨0x5040, 2, 1, .ro, false, false, 0⟩
def Reg.MGT.MGT_STATUS_TRIAL : Field := ⟨0x5040, 3, 1, .ro, false, false, 0⟩
def Reg.MGT.MGT_STATUS_UPDATE_ACTIVE : Field := ⟨0x5040, 4, 1, .ro, false, false, 0⟩
def Reg.MGT.MGT_STATUS_ACTIVATION_PENDING : Field := ⟨0x5040, 5, 1, .ro, false, false, 0⟩
def Reg.MGT.MGT_STATUS_EXPEL_RECOMMENDED : Field := ⟨0x5040, 6, 1, .ro, false, false, 0⟩
def Reg.MGT.MGT_STATUS_SELFTEST_RUNNING : Field := ⟨0x5040, 7, 1, .ro, false, false, 0⟩
def Reg.MGT.FW_VERSION_A : Field := ⟨0x5044, 0, 32, .ro, false, false, 0⟩
def Reg.MGT.FW_VERSION_B : Field := ⟨0x5048, 0, 32, .ro, false, false, 0⟩
def Reg.MGT.SVN_RUNNING : Field := ⟨0x504c, 0, 8, .ro, false, false, 0⟩
def Reg.MGT.SVN_FLOOR : Field := ⟨0x504c, 8, 8, .ro, false, false, 0⟩
def Reg.MGT.BOOT_COUNT : Field := ⟨0x5050, 0, 32, .ro, false, false, 0⟩
def Reg.MGT.BOOT_FAILS_CONSECUTIVE : Field := ⟨0x5054, 0, 2, .ro, false, false, 0⟩
def Reg.MGT.BOOT_FAILS_TOTAL : Field := ⟨0x5054, 8, 24, .ro, false, false, 0⟩
def Reg.MGT.BOOT_REPORT_LO_STAGE (i : Nat) : Field := ⟨0x5058 + 8 * i, 0, 8, .ro, false, false, 0⟩
def Reg.MGT.BOOT_REPORT_LO_REASON (i : Nat) : Field := ⟨0x5058 + 8 * i, 8, 8, .ro, false, false, 0⟩
def Reg.MGT.BOOT_REPORT_LO_COPY (i : Nat) : Field := ⟨0x5058 + 8 * i, 16, 1, .ro, false, false, 0⟩
def Reg.MGT.BOOT_REPORT_HI (i : Nat) : Field := ⟨0x505c + 8 * i, 0, 32, .ro, false, false, 0⟩
def Reg.MGT.HEALTH_SCORE : Field := ⟨0x5070, 0, 10, .ro, false, false, 1000⟩
def Reg.MGT.HEALTH_THRESHOLD : Field := ⟨0x5070, 10, 10, .rw, true, true, 400⟩
def Reg.MGT.HEALTH_CFG_HALF_LIFE : Field := ⟨0x5074, 0, 8, .rw, true, true, 24⟩
def Reg.MGT.HEALTH_CFG_WINDOW : Field := ⟨0x5074, 8, 8, .rw, true, true, 1⟩
def Reg.MGT.MODULE_ID : Field := ⟨0x5078, 0, 64, .ro, false, false, 0⟩
def Reg.MGT.BEHAVIOUR_IN_FORCE : Field := ⟨0x5080, 0, 8, .ro, false, false, 161⟩
def Reg.MGT.BEHAVIOUR_REQUESTED : Field := ⟨0x5080, 8, 8, .rw, true, true, 161⟩
def Reg.MGT.BEHAVIOUR_PHYSICAL : Field := ⟨0x5080, 16, 8, .ro, false, false, 161⟩
def Reg.MGT.LOG_WRITTEN : Field := ⟨0x5084, 0, 32, .ro, false, false, 0⟩
def Reg.MGT.LOG_OLDEST : Field := ⟨0x5088, 0, 32, .ro, false, false, 0⟩
def Reg.MGT.LOG_SEL : Field := ⟨0x508c, 0, 32, .rw, false, true, 0⟩
def Reg.MGT.LOG_DATA (i : Nat) : Field := ⟨0x5090 + 4 * i, 0, 32, .ro, false, false, 0⟩
def Reg.MGT.LOG_STATUS_VALID : Field := ⟨0x50b0, 0, 1, .ro, false, false, 0⟩
def Reg.MGT.LOG_STATUS_RETAINED : Field := ⟨0x50b0, 1, 1, .ro, false, false, 0⟩
def Reg.MGT.LOG_STATUS_CRC_BAD : Field := ⟨0x50b0, 2, 1, .ro, false, false, 0⟩
def Reg.MGT.RAIL_V (i : Nat) : Field := ⟨0x50c0 + 8 * i, 0, 16, .ro, false, false, 0⟩
def Reg.MGT.RAIL_I (i : Nat) : Field := ⟨0x50c4 + 8 * i, 0, 16, .ro, false, false, 0⟩
def Reg.MGT.MGT_CMD_BOOT_RETRY : Field := ⟨0x51c0, 0, 1, .cmd, true, false, 0⟩
def Reg.MGT.MGT_CMD_SELFTEST : Field := ⟨0x51c0, 1, 1, .cmd, true, false, 0⟩
def Reg.MGT.SELFTEST_RESULT_STATE : Field := ⟨0x51c4, 0, 2, .ro, false, false, 0⟩
def Reg.MGT.SELFTEST_RESULT_PART : Field := ⟨0x51c4, 8, 8, .ro, false, false, 0⟩

/-- Every field of the MGT page (or block). -/
def rowsMGT : List Row :=
  [⟨Reg.MGT.MGT_STATUS_BOOT_OK, 0, 1⟩, ⟨Reg.MGT.MGT_STATUS_MINIMAL, 0, 1⟩, ⟨Reg.MGT.MGT_STATUS_SLOT, 0, 1⟩, ⟨Reg.MGT.MGT_STATUS_TRIAL, 0, 1⟩, ⟨Reg.MGT.MGT_STATUS_UPDATE_ACTIVE, 0, 1⟩, ⟨Reg.MGT.MGT_STATUS_ACTIVATION_PENDING, 0, 1⟩, ⟨Reg.MGT.MGT_STATUS_EXPEL_RECOMMENDED, 0, 1⟩, ⟨Reg.MGT.MGT_STATUS_SELFTEST_RUNNING, 0, 1⟩, ⟨Reg.MGT.FW_VERSION_A, 0, 1⟩, ⟨Reg.MGT.FW_VERSION_B, 0, 1⟩, ⟨Reg.MGT.SVN_RUNNING, 0, 1⟩, ⟨Reg.MGT.SVN_FLOOR, 0, 1⟩]
  ++ [⟨Reg.MGT.BOOT_COUNT, 0, 1⟩, ⟨Reg.MGT.BOOT_FAILS_CONSECUTIVE, 0, 1⟩, ⟨Reg.MGT.BOOT_FAILS_TOTAL, 0, 1⟩, ⟨Reg.MGT.BOOT_REPORT_LO_STAGE 0, 8, 3⟩, ⟨Reg.MGT.BOOT_REPORT_LO_REASON 0, 8, 3⟩, ⟨Reg.MGT.BOOT_REPORT_LO_COPY 0, 8, 3⟩, ⟨Reg.MGT.BOOT_REPORT_HI 0, 8, 3⟩, ⟨Reg.MGT.HEALTH_SCORE, 0, 1⟩, ⟨Reg.MGT.HEALTH_THRESHOLD, 0, 1⟩, ⟨Reg.MGT.HEALTH_CFG_HALF_LIFE, 0, 1⟩, ⟨Reg.MGT.HEALTH_CFG_WINDOW, 0, 1⟩, ⟨Reg.MGT.MODULE_ID, 0, 1⟩]
  ++ [⟨Reg.MGT.BEHAVIOUR_IN_FORCE, 0, 1⟩, ⟨Reg.MGT.BEHAVIOUR_REQUESTED, 0, 1⟩, ⟨Reg.MGT.BEHAVIOUR_PHYSICAL, 0, 1⟩, ⟨Reg.MGT.LOG_WRITTEN, 0, 1⟩, ⟨Reg.MGT.LOG_OLDEST, 0, 1⟩, ⟨Reg.MGT.LOG_SEL, 0, 1⟩, ⟨Reg.MGT.LOG_DATA 0, 4, 8⟩, ⟨Reg.MGT.LOG_STATUS_VALID, 0, 1⟩, ⟨Reg.MGT.LOG_STATUS_RETAINED, 0, 1⟩, ⟨Reg.MGT.LOG_STATUS_CRC_BAD, 0, 1⟩, ⟨Reg.MGT.RAIL_V 0, 8, 17⟩, ⟨Reg.MGT.RAIL_I 0, 8, 17⟩]
  ++ [⟨Reg.MGT.MGT_CMD_BOOT_RETRY, 0, 1⟩, ⟨Reg.MGT.MGT_CMD_SELFTEST, 0, 1⟩, ⟨Reg.MGT.SELFTEST_RESULT_STATE, 0, 1⟩, ⟨Reg.MGT.SELFTEST_RESULT_PART, 0, 1⟩]

/-! ### HARV (R22; spec/01_itden_at_a_glance.md) -/

def Reg.HARV.HARVEST_MAP_DISABLED_PHYS (i : Nat) : Field := ⟨0x1040 + 4 * i, 0, 3, .ro, false, false, 0⟩
def Reg.HARV.HARVEST_MAP_VALID (i : Nat) : Field := ⟨0x1040 + 4 * i, 8, 1, .ro, false, false, 0⟩
def Reg.HARV.HARVEST_SRC_RECORD_VERSION : Field := ⟨0x1080, 0, 16, .ro, false, false, 0⟩
def Reg.HARV.HARVEST_SRC_SIG_OK : Field := ⟨0x1080, 16, 1, .ro, false, false, 0⟩
def Reg.HARV.HARVEST_SRC_BIST_OK : Field := ⟨0x1080, 17, 1, .ro, false, false, 0⟩

/-- Every field of the HARV page (or block). -/
def rowsHARV : List Row :=
  [⟨Reg.HARV.HARVEST_MAP_DISABLED_PHYS 0, 4, 16⟩, ⟨Reg.HARV.HARVEST_MAP_VALID 0, 4, 16⟩, ⟨Reg.HARV.HARVEST_SRC_RECORD_VERSION, 0, 1⟩, ⟨Reg.HARV.HARVEST_SRC_SIG_OK, 0, 1⟩, ⟨Reg.HARV.HARVEST_SRC_BIST_OK, 0, 1⟩]

/-! ### STORE (R119; spec/04_cores_and_engines.md) -/

def Reg.STORE.TOK_REGION_BASE (b : Nat) (i : Nat) : Field := ⟨b + 0x800 + 8 * i, 0, 15, .rw, false, true, 0⟩
def Reg.STORE.TOK_REGION_LEN (b : Nat) (i : Nat) : Field := ⟨b + 0x800 + 8 * i, 15, 15, .rw, false, true, 0⟩
def Reg.STORE.TOK_REGION_VALID (b : Nat) (i : Nat) : Field := ⟨b + 0x800 + 8 * i, 31, 1, .rw, false, true, 0⟩
def Reg.STORE.TOK_COUNT_POSTED (b : Nat) (i : Nat) : Field := ⟨b + 0x804 + 8 * i, 0, 16, .ro, false, false, 0⟩
def Reg.STORE.TOK_COUNT_RELEASED (b : Nat) (i : Nat) : Field := ⟨b + 0x804 + 8 * i, 16, 16, .ro, false, false, 0⟩

/-- Every field of the STORE page (or block). -/
def rowsSTORE (b : Nat) : List Row :=
  [⟨Reg.STORE.TOK_REGION_BASE b 0, 8, 128⟩, ⟨Reg.STORE.TOK_REGION_LEN b 0, 8, 128⟩, ⟨Reg.STORE.TOK_REGION_VALID b 0, 8, 128⟩, ⟨Reg.STORE.TOK_COUNT_POSTED b 0, 8, 128⟩, ⟨Reg.STORE.TOK_COUNT_RELEASED b 0, 8, 128⟩]

/-! ### SY (R325; spec/13_power.md) -/

def Reg.SY.HINT_LAST_COUNT (b : Nat) : Field := ⟨b + 0x100, 0, 3, .ro, false, false, 0⟩
def Reg.SY.HINT_LAST_LEAD (b : Nat) : Field := ⟨b + 0x100, 3, 16, .ro, false, false, 0⟩
def Reg.SY.HINTS_SHEET (b : Nat) : Field := ⟨b + 0x104, 0, 32, .ro, false, false, 0⟩

/-- Every field of the SY page (or block). -/
def rowsSY (b : Nat) : List Row :=
  [⟨Reg.SY.HINT_LAST_COUNT b, 0, 1⟩, ⟨Reg.SY.HINT_LAST_LEAD b, 0, 1⟩, ⟨Reg.SY.HINTS_SHEET b, 0, 1⟩]

/-! ### Sticky bits -/

def ErrBit.TBS.UPSTREAM_LOST : Nat := 0
def ErrBit.TBS.HOLDOVER_EXPIRED : Nat := 1
def ErrBit.TBS.SYSREF_LOST : Nat := 2
def ErrBit.TBS.PPS_FAULT : Nat := 3
def ErrBit.TBS.DEPTH_EXCEEDED : Nat := 4
def ErrBit.TBS.NO_ELIGIBLE_UPSTREAM : Nat := 5
def ErrBit.TBS.START_UNLOCKED : Nat := 6
def ErrBit.TBS.XING_CAL_FAIL : Nat := 7
def ErrBit.TBS.WALL_STEPPED : Nat := 8
def ErrBit.TBS.OFFSET_EXCESS : Nat := 9
def ErrBit.TBS.ROOT_CONFLICT : Nat := 10
def ErrBit.CLK.FREQ_CHANGE_FAIL : Nat := 0
def ErrBit.COR.TOKEN_OVERLAP : Nat := 0
def ErrBit.COR.DELIVERY_OVERLAP : Nat := 1
def ErrBit.COR.TABLE_WRITE_IN_JOB : Nat := 2
def ErrBit.COR.ENGINE_HALTED : Nat := 3
def ErrBit.ENG.IMEM_ACTIVE_WRITE : Nat := 0
def ErrBit.ENG.LOOP_CLAMP : Nat := 1
def ErrBit.ENG.INDEX_RANGE : Nat := 2
def ErrBit.ENG.XTENANT_GATHER : Nat := 3
def ErrBit.ENG.TOKEN_UNPOSTED_READ : Nat := 4
def ErrBit.ENG.TOKEN_OVERWRITE : Nat := 5
def ErrBit.ENG.ILLEGAL_OP : Nat := 6
def ErrBit.ENG.HUNG : Nat := 7
def ErrBit.ENG.IMEM_CORRECTED : Nat := 8
def ErrBit.ENG.IMEM_UNCORRECTABLE : Nat := 9
def ErrBit.ENG.CRC_MISMATCH : Nat := 10
def ErrBit.MX.ACC_OVERFLOW : Nat := 11
def ErrBit.MX.NARROW_OVERFLOW : Nat := 12
def ErrBit.MX.HEAVY_NO_TOKEN : Nat := 13
def ErrBit.VX.VX_ACC_OVERFLOW : Nat := 11
def ErrBit.VX.VX_NARROW_OVERFLOW : Nat := 12
def ErrBit.VX.VX_INVALID : Nat := 13
def ErrBit.VX.VX_DIVZERO : Nat := 14
def ErrBit.VX.VX_OVERFLOW : Nat := 15
def ErrBit.HBM.CE : Nat := 0
def ErrBit.HBM.UE_PLAN : Nat := 1
def ErrBit.HBM.UE_MOVE : Nat := 2
def ErrBit.HBM.UE_SCRUB : Nat := 3
def ErrBit.HBM.OVERTEMP : Nat := 4
def ErrBit.HBM.QUOTA_WRITE : Nat := 5
def ErrBit.HBM.HOST_QUEUE_FULL : Nat := 6
def ErrBit.PRT.LATE_SLOT : Nat := 0
def ErrBit.PRT.HOLLOW_RECEIVED : Nat := 1
def ErrBit.PRT.LATE_ARRIVAL : Nat := 2
def ErrBit.PRT.FENCE_DROP : Nat := 3
def ErrBit.PRT.STRAY : Nat := 4
def ErrBit.PRT.PLAN_MARGIN_LOST : Nat := 5
def ErrBit.PRT.COUCH_UNCORRECTABLE : Nat := 6
def ErrBit.PRT.MISCABLED : Nat := 7
def ErrBit.PE.HOLLOW_SENT : Nat := 11
def ErrBit.PE.PATH_UNCORRECTABLE : Nat := 12
def ErrBit.LNK.LINK_DOWN : Nat := 0
def ErrBit.LNK.TRAIN_FAIL : Nat := 1
def ErrBit.LNK.LANE_DEGRADED : Nat := 2
def ErrBit.LNK.LANE_LOST : Nat := 3
def ErrBit.LNK.WIDTH_CHANGED : Nat := 4
def ErrBit.LNK.CHANGE_CANCELLED : Nat := 5
def ErrBit.LNK.REPLAY_FULL : Nat := 6
def ErrBit.LNK.ACK_RANGE : Nat := 7
def ErrBit.LNK.HDR_VERSION : Nat := 8
def ErrBit.LNK.SVC_OVERFLOW : Nat := 9
def ErrBit.LNK.LINK_LOST_ISSUED : Nat := 10
def ErrBit.NI.RT_CHECK_FAIL : Nat := 0
def ErrBit.NI.RT_TAIL_WRITE : Nat := 1
def ErrBit.NI.SVC_MALFORMED : Nat := 2
def ErrBit.NI.AUTH_FAIL : Nat := 3
def ErrBit.SES.RING_OVERRUN : Nat := 0
def ErrBit.SES.STEP_LATE : Nat := 1
def ErrBit.SES.RESULTS_LOST : Nat := 2
def ErrBit.SES.LOG_FULL : Nat := 3
def ErrBit.SES.HBM_POOL_EXHAUSTED : Nat := 4
def ErrBit.SES.DDR_POOL_EXHAUSTED : Nat := 5
def ErrBit.SES.SESSION_POISONED : Nat := 6
def ErrBit.SES.PAGE_RETIRED : Nat := 7
def ErrBit.SES.VARIANT_REFUSED : Nat := 8
def ErrBit.SES.WSWITCH_REFUSED : Nat := 9
def ErrBit.SES.ITEM_REJECTED : Nat := 10
def ErrBit.HDB.SIG_FAIL : Nat := 0
def ErrBit.HDB.CHUNK_HASH_FAIL : Nat := 1
def ErrBit.HDB.DECODE_FAIL : Nat := 2
def ErrBit.HDB.NONFINITE : Nat := 3
def ErrBit.HDB.RANGE : Nat := 4
def ErrBit.HDB.CMD_REFUSED : Nat := 5
def ErrBit.HDB.WS_DAMAGED : Nat := 6
def ErrBit.HDB.START_NO_WEIGHTS : Nat := 7
def ErrBit.PWR.SAG_WARN : Nat := 0
def ErrBit.PWR.SAG_RESET : Nat := 1
def ErrBit.PWR.OVERVOLT : Nat := 2
def ErrBit.PWR.CAP_BELOW_PLAN : Nat := 3
def ErrBit.PWR.CAP_BELOW_FLOOR : Nat := 4
def ErrBit.PWR.CAP_EXCEEDED : Nat := 5
def ErrBit.PWR.TOKEN_WITHHELD : Nat := 6
def ErrBit.PWR.THERM_LIMIT : Nat := 7
def ErrBit.PWR.THERM_TRIP : Nat := 8
def ErrBit.PWR.MEM_HOT : Nat := 9
def ErrBit.PWR.COOLANT_RANGE : Nat := 10
def ErrBit.PCI.BAD_ACCESS : Nat := 0
def ErrBit.PCI.WIN_RANGE : Nat := 1
def ErrBit.PCI.WIN_DENIED : Nat := 2
def ErrBit.PCI.WIN_UE : Nat := 3
def ErrBit.PCI.DMA_ERROR : Nat := 4
def ErrBit.PCI.EVT_OVERFLOW : Nat := 5
def ErrBit.PCI.MBX_FULL : Nat := 6
def ErrBit.PCI.LOAD_REFUSED : Nat := 7
def ErrBit.PCI.CMD_REFUSED : Nat := 8
def ErrBit.PCI.HOST_FAULT : Nat := 9
def ErrBit.PCI.LINK_DOWNTRAIN : Nat := 10
def ErrBit.GLB.GUARD_BAD_KEY : Nat := 0
def ErrBit.GLB.GUARD_REFUSED : Nat := 1
def ErrBit.GLB.CONFIG_DRIFT : Nat := 2
def ErrBit.GLB.PARITY_FAULT : Nat := 3
def ErrBit.GLB.START_REFUSED : Nat := 4
def ErrBit.GLB.TEARDOWN_REFUSED : Nat := 5
def ErrBit.MGT.BOOT_FAILED : Nat := 0
def ErrBit.MGT.MINIMAL_ENTERED : Nat := 1
def ErrBit.MGT.UPDATE_FAILED : Nat := 2
def ErrBit.MGT.TRIAL_REVERTED : Nat := 3
def ErrBit.MGT.SENSOR_FAULT : Nat := 4
def ErrBit.MGT.RAIL_WARN : Nat := 5
def ErrBit.MGT.FLASH_ERROR : Nat := 6
def ErrBit.MGT.EXPEL_RECOMMENDED : Nat := 7
def ErrBit.MGT.PUF_MARGIN : Nat := 8
def ErrBit.MGT.BEHAVIOUR_CHANGED : Nat := 9
def ErrBit.DDR.POP_FAULT : Nat := 7
def ErrBit.SLT.CHECK_FAIL : Nat := 0
def ErrBit.SY.HINT_RANGE : Nat := 11

end Sys2Proof.Machine
end

