-- ==== Sys2Proof/Config.lean ====
section
/-! DEFINITION. What the spec leaves open: free values, as constants with no body. Nothing can be proved of their values, so a
statement that holds, holds whatever they are. Each is named in the assumption log. -/

namespace Sys2Proof

/-- The value of the n-th open result of a run (an undefined or unstated value, R9; DESIGN CHOICE, log entry 7). -/
opaque Config.freeValue : Nat → Nat

/-- An upset that the outside world may bring in a tick (R100, R173, R191, R207): a word of device memory or of instruction memory (its number),
the couch entry of a port, a flit in a mesh buffer (its place), and whether the error is uncorrectable. -/
inductive Upset where
  | dev (word : Nat) (bad : Bool)
  | imem (word : Nat) (bad : Bool)
  | couch (port entry : Nat)
  | mesh (place : Nat)
deriving DecidableEq, Repr

/-- The upsets of the n-th tick: nothing constrains them (R100, R173; DESIGN CHOICE, log entry 24). -/
opaque Config.upsets : Nat → List Upset

/-- What a comparison writes where its predicate holds, and where it does not: the spec states no encoding (R152, R427; DESIGN CHOICE, log entry 8). -/
opaque Config.compareTrue : Nat
opaque Config.compareFalse : Nat

/-- Whether a selection takes its source A for a lane of its source C: the spec states no condition (R152, R427; DESIGN CHOICE, log entry 8). -/
opaque Config.selectsA : Nat → Bool

/-- Reading the fields of a SERVING section: the spec lists the fields and their order but not their widths (R417; DESIGN CHOICE, log entry 6).
The arguments are the section's bytes, the variant and the number of the field in the list of R417. -/
opaque Config.servingField : List Byte → Nat → Nat → Nat

/-- Reading a 16-byte record of an outcome block: the positions kept, and the tokens emitted. R270 names both and gives no layout (log
entry 6). -/
opaque Config.outcomeAdvance : List Byte → Nat
opaque Config.outcomeTokens : List Byte → List Nat

/-- The bytes of an entry of the adapter table: the spec lists its parts but not their places (R281; DESIGN CHOICE, log entry 6). -/
opaque Config.adapterImage : List Nat → List Byte

/-- Bytes of a couch or replay entry as a LINK window shows them: 512 bytes each, layout not given (R353; DESIGN CHOICE, log entry 6). -/
opaque Config.linkEntryImage : List Byte → Nat → List Byte

/-- Where the status word of an SVCREAD lies among its bytes: R249 names the word and not its place (DESIGN CHOICE, log entry 6). The argument is the
length. -/
opaque Config.statusWordAt : Nat → Nat

/-- The digest of the key store and of boot-time images as measurement blocks, whose byte layouts are not given (R411). -/
opaque Config.measurement : Nat → List Byte → List Byte

/-- The MCTP endpoint ID that firmware has mapped to a coordinate (R251): no value is given (PRESUMED, log entry 19). -/
opaque Config.endpointId : Nat → Nat

/-- The bytes of an SPDM or PLDM response whose cryptography lies outside the block’s defined state (R252, R411). -/
opaque Config.signed : List Byte → List Byte

/-- The header of an update image (R401, R408): the spec lists its fields and gives no layout (DESIGN CHOICE, log entry 6). Fields: 0 component, 1 version,
2 security version number, 3 whether it asks for the SVN floor to be raised (1). -/
opaque Config.imageField : List Byte → Nat → Nat

/-- Whether an image or record carries Clethar's signature over its header and body: the keys' digests in the boot ROM are not given
(R401, R409). -/
opaque Config.imageVerifies : List Byte → Bool

/-- The setpoint of a rail in mV, but for the busbar's; whether a sensor's answer lies in its physical range: not given (R397). -/
opaque Config.railSetpoint : Nat → Nat
opaque Config.sensorInRange : Nat → Nat → Bool

/-- The correction capacity of the helper data in bits: not given (R410). -/
opaque Config.pufCapacity : Nat

/-- Whether a quotient that is no whole number is rounded up: the spec averages offsets and delays (R63) and extrapolates a slope
(R318) without naming a rounding (DESIGN CHOICE, log entry 15). Arguments: the dividend and the divisor. -/
opaque Config.roundsUp : Int → Nat → Bool

/-- The schedule offset, from the start of a half of the deckle window, at which the Y or Z phase begins: the compiler fixes it in the ream, whose
format gives no field for it (R37, R417; DESIGN CHOICE, log entry 6). Arguments: the ream's digest, the half (0 announce, 1 echo), the axis. -/
opaque Config.phaseOffset : List Byte → Nat → Nat → Nat

/-- The weight set announced for a sheet, as a module other than rank 0 knows it before it enters the window (R38, R300; DESIGN CHOICE, log
entry 17). Arguments: the job's tag, the sheet. -/
opaque Config.announcedSet : Nat → Nat → Option Nat

end Sys2Proof
end

