-- ==== Sys2Proof/Machine/State.lean ====
section
/-! DEFINITION. The state of the module as plain data: the registers, the memories, and everything the rules keep that is no
register; the queue of waiting commands; the reset state; the ways a step can stop. -/

namespace Sys2Proof.Machine

/-- The memories. Device memory is keyed by device address (R163); instruction memory by (engine number × 2 + bank) × 65,536 +
offset (R83); staging memory by offset (R356); the step buffer by bank × 2 MiB + offset (R274); the rank tables by version ×
0x4_0000 + offset (R243, R353); flash by offset (R398); the MSI-X table by offset (R352). Host memory is outside the module and kept
as the environment's bytes. -/
structure Store where
  regs : List (Nat × Nat) := []
  dev : Memory := []
  imem : Memory := []
  staging : Memory := []
  step : Memory := []
  rank : Memory := []
  flash : Memory := []
  msix : Memory := []
  host : Memory := []
deriving DecidableEq, Repr

/-- A requester's guard (R377): open until a plan tick, or closed. -/
structure Guard where
  opened : Bool := false
  untilT : Nat := 0
deriving DecidableEq, Repr

/-- A weight tile: format (R129), row count k, tag, bytes in array tile order (R123). -/
structure Tile where
  fmt : Nat := 0
  k : Nat := 128
  tag : Nat := 0
  bytes : List Byte := []
deriving DecidableEq, Repr

/-- A half of an accumulator bank (R134): the value of unlisted accumulators, and the listed ones (row × 128 + column). -/
structure Half where
  fill : Int := 0
  acc : List (Nat × Int) := []
deriving DecidableEq, Repr

/-- What an anchored-register operation does at its completion (R155): `add` holds the FP32 lanes that enter. -/
inductive ArEffect where
  | clr (anchor : Nat)
  | add (lanes : List Nat)
  | rows (rs : List (Int × Bool × List Int))
  | lane
deriving DecidableEq, Repr

/-- A gather descriptor's fields as they stand when a GATHER issues (R104, R117). -/
structure GDesc where
  base : Nat
  size : Nat
  stride : Nat
  limit : Nat
  tenant : Nat
  check : Bool
  ok : Bool
deriving DecidableEq, Repr

/-- What an issued operation still has to do at its completion (R84). An operation that reads its operands over several cycles gathers here
what it has read so far: `copy` and `race` (source, destination), `imload` and `gather` their bytes, a gather the code of each entry too,
`mma` the column results of its vectors (`stale` once a later CLEAR has emptied its half, R135), `drain` its rows. -/
inductive Effect where
  | none
  | sheetEnd (deadline : Nat)
  | writes (ws : List (Nat × List Byte)) (flags : Nat)
  | copy (src dst : Nat) (data : List Byte)
  | race (src dst : Nat) (data : List Byte) (partner : Nat)
  | mma (half r0 mode : Nat) (heavy stale : Bool) (rows : List (List Int)) (inexact : Nat) (ovf : Bool)
  | wload
  | swap
  | drain (half : Nat) (ws : List (Nat × List Byte)) (narrow : Bool)
  | ar (r : Nat) (e : ArEffect)
  | gather (d : GDesc) (idx dst : Nat) (data : List Byte) (codes : List Nat)
  | imload (eng off src : Nat) (data : List Byte)
  | svcread (token addr len : Nat)
  | bar (b : Nat)
deriving DecidableEq, Repr

/-- An operation in flight: its encoding, its address and bank, the cycle it issued in, the cycles per unit of progress (R381), the
cycle before which it cannot complete, how many units it reads one after the other and how many it has reached, its effect. -/
structure InFlight where
  word : Nat
  addr : Nat
  bank : Nat
  start : Nat
  per : Nat
  readyAt : Nat
  units : Nat
  done : Nat
  effect : Effect
deriving DecidableEq, Repr

/-- An open loop (R101): first and last operation addresses, bound, body time, latched count, iterations done, pad release. -/
structure LoopFrame where
  first : Nat
  last : Nat
  bound : Nat
  time : Nat
  count : Nat
  done : Nat
  release : Nat
deriving DecidableEq, Repr

/-- An entry a slot engine holds (R190): its payload, header, and the slot it departed in. -/
structure HeldEntry where
  input : Nat
  slot : Nat
  hollow : Bool
  consumed : Bool
  payload : List Byte
deriving DecidableEq, Repr

/-- What an engine keeps beyond its register block; `nextIssue` is the first cycle in which it may issue again (R84);
`aliasLog` holds the writes of tick `aliasAt` through its bank alias, each as offset, old bytes, new bytes (R100). -/
structure Engine where
  inflight : List InFlight := []
  loops : List LoopFrame := []
  padUntil : Nat := 0
  issued : Nat := 0
  nextIssue : Nat := 0
  arrayFree : Nat := 0
  drainFree : Nat := 0
  awaited : Nat := 0
  partner : Option Nat := none
  doneSheet : Bool := false
  doneAt : Nat := 0
  nextDeadline : Nat := 0
  flipped : Bool := false
  resetBy : Nat := 0
  resetAt : Nat := 0
  snapshot : List Byte := []
  -- die-level engines
  lastTick : Nat := 0
  outBase : Nat := 0
  outMask : Nat := 0
  held : List HeldEntry := []
  repeats : List (Nat × Nat) := []
  sentAt : List (Nat × Nat) := []
  recvAt : List (Nat × Nat) := []
  tailBank : Option Nat := none
  aliasAt : Nat := 0
  aliasLog : List (Nat × List Byte × List Byte) := []
deriving DecidableEq, Repr

/-- What a core keeps: its tiles (R124), accumulator halves (engine × 2 + half), anchored registers' lanes. -/
structure CoreSt where
  shadow : Tile := {}
  live : Tile := {}
  loadEnd : Nat := 0
  halves : List (Nat × Half) := []
  ars : List (Nat × List (Nat × Int)) := []
deriving DecidableEq, Repr

/-- What a crossing into a cluster holds while its region is stopped (R71, R72, R92): payload to write, and the slot to post, as page, table and
number. -/
structure Inbound where
  addr : Nat
  data : List Byte
  post : Option (Nat × Nat × Nat)
deriving DecidableEq, Repr

/-- What a cluster's region keeps (R72–R75, R315, R318): arithmetic cycles since reset, the first of the present tick, and the fraction of one; the stop requested and the
stop under way; the frequencies of a stop; the droops of the last 50 ticks; the hundredths of a cycle that droops still take; whether it runs at or below f_floor with no stretch
to cover it; the targets of coming sheets; the last hint of each core; the core that last
posted each store slot, and the tick of that post; the temperature and schedule tick of the last request computation; the posts of its
engines that still cross to the plan domain (ticks left, page, table, slot), and what its crossings hold while the region is stopped. -/
structure ClusterSt where
  cycle : Nat := 0
  firstCycle : Nat := 0
  frac : Nat := 0
  stopReq : Option Nat := none
  gateClosed : Option Nat := none
  scheduled : Bool := false
  restart : Nat := 0
  oldFreq : Nat := 0
  pendingFreq : Option Nat := none
  droops : List Nat := []
  lost : Nat := 0
  uncovered : Bool := false
  plans : List (Nat × Nat) := []
  hints : List (Nat × Nat × Nat) := []
  posters : List (Nat × Nat) := []
  postTimes : List (Nat × Nat) := []
  lastTemp : Option (Nat × Nat) := none
  crossing : List (Nat × Nat × Nat × Nat) := []
  inbound : List Inbound := []
deriving DecidableEq, Repr

/-- A couch entry (R191): the flit's header and payload, when it arrived, how often it was sent again, whether it is uncorrectable. -/
structure Couch where
  slot : Nat
  epoch : Bool
  hollow : Bool
  payload : List Byte
  header : Nat
  time : Nat
  retx : Nat
  bad : Bool
deriving DecidableEq, Repr

/-- A width change in progress (R231): the new mask, its switch point, and whether it is acknowledged. -/
structure LaneChange where
  mask : Nat
  s : Nat
  acked : Bool
deriving DecidableEq, Repr

/-- An entry of a port's outstanding table (R234): the request's token, its input port (none: originated here), when it left, and its
header. -/
structure OutEntry where
  token : Nat
  input : Option (Fin 12)
  since : Nat
  header : List Byte
deriving DecidableEq, Repr

/-- A service flit waiting to leave: its payload, whether it opens a packet, and the input port of a forwarded packet (R234, R240). -/
structure SvcFlit where
  input : Option (Fin 12)
  first : Bool
  payload : List Byte
deriving DecidableEq, Repr

/-- What a port and its link layer keep. -/
structure PortSt where
  replayBuf : List (Nat × List Byte) := []
  replayQ : List Nat := []
  predicted : Nat := 0
  got : List Nat := []
  missing : List (Nat × Nat × Nat) := []
  nakQ : List Nat := []
  svcWait : List (Nat × Nat × List Byte) := []
  rxVc : List (Nat × List (List Byte)) := []
  txVc : List (Nat × List SvcFlit) := []
  outstanding : List OutEntry := []
  rrReq : Nat := 0
  rrRsp : Nat := 0
  lastGood : Nat := 0
  trainSince : Nat := 0
  eqTx : Nat := 0
  eqRx : Nat := 0
  txPend : Option LaneChange := none
  rxPend : Option LaneChange := none
  reqPend : Option (Nat × Nat × Nat) := none
  arrStamp : Nat := 0xFFFFFFFF
  txWord : Nat := 4
  stampPeriod : Nat := 0
  frameStart : Nat := 0
  offsets : List Int := []
  delays : List Int := []
  peerLock : Nat := 0
  peerDepth : Nat := 0x7F
  peerRoot : Bool := false
  peerRootId : Nat := 0
  peerRings : List Nat := []
  counts : List (Nat × Nat) := []
  winStart : Nat := 0
  winLog2 : Nat := 20
  txSlot : Option (List Byte × Nat) := none
  deckleQ : List (List Byte) := []
  txLast : List Byte := []
  laneTx : List Nat := []
  couch : List (Nat × Couch) := []
deriving DecidableEq, Repr

/-- A move waiting in a unit's queue (R170, R171, R268). Kinds: 1 the reading half of a page copy, 2 its writing half, 3 a zero write, 4 a
table access, 5 a headbox write, 6 a host read, 7 a host write, 8 a service READ or WRITE, 9 a results entry on its way to the host. `addr` is the next byte in
the unit, `len` the bytes still to move, `tag` what the move belongs to, `data` what the tier engine has buffered; of the kinds whose data
crosses to another die (R209), `far` is what the buffer at the far end holds, and `total` the bytes of the whole move. -/
structure Move where
  kind : Nat
  addr : Nat
  len : Nat
  tag : Nat
  bad : Bool
  data : List Byte
  far : List Byte := []
  total : Nat := 0
deriving DecidableEq, Repr

/-- A side flit (R208): the part of a 256-byte line that it reads or writes, its payload, the access it belongs to (0 for one that nothing waits for),
whether it writes, whether it uses class HOST slots of a memory unit, and whether it is the answer on its way back. -/
structure SideFlit where
  addr : Nat
  len : Nat
  data : List Byte
  tag : Nat
  write : Bool
  host : Bool
  back : Bool
deriving DecidableEq, Repr

/-- A scheduled read (R169): its mesh channel, when it is due, whether it was delivered, its device address, the 64-byte blocks of
it that are uncorrectable, its data. -/
structure ReadData where
  chan : Nat
  due : Nat
  delivered : Bool
  addr : Nat
  bad : List Nat
  data : List Byte
deriving DecidableEq, Repr

/-- What a memory unit keeps: its move queues, its scheduled reads, the memory slot last used by a move, the patrol position in bytes,
the accesses that wait for its reserve, and, plus one each, the periods in which the two halves of the reserve were last used, in which work
last had to wait, and in which it was last refreshed. -/
structure UnitSt where
  kv : List Move := []
  headbox : List Move := []
  hostq : List Move := []
  reads : List ReadData := []
  lastSlot : Nat := 0
  scrubAt : Nat := 0
  readback : List SideFlit := []
  scrubbed : Nat := 0
  reserved : Nat := 0
  waited : Nat := 0
  refreshed : Nat := 0
deriving DecidableEq, Repr

/-- A flit on the on-die mesh (R206, R207): the node and channel it arrives at, its departure slot, whether its buffer holds an uncorrectable
error, its payload. -/
structure MeshFlit where
  node : Nat
  chan : Nat
  slot : Nat
  hollow : Bool
  empty : Bool
  bad : Bool
  payload : List Byte
deriving DecidableEq, Repr

/-- A fault descriptor (R39). -/
structure FaultDesc where
  time : Nat
  sheet : Nat
  cls : Nat
  rank : Nat
  cluster : Nat
  core : Nat
  engine : Nat
  reason : Nat
  addr : Nat
deriving DecidableEq, Repr

/-- An entry of the sheet cycle (R417): length in blocks, flags, LIGHT_Q. -/
structure SheetEnt where
  blocks : Nat
  flags : Nat
  lightQ : Nat
deriving DecidableEq, Repr

/-- A declared range (R419), with its base resolved to a device address. -/
structure Range where
  use : Nat
  tier : Nat
  unit : Nat
  base : Nat
  len : Nat
deriving DecidableEq, Repr

/-- The loaded ream (R416–R419): what load keeps of it; `budgets` holds each port's flight budget and retransmission count as the ream gives
them (R195). -/
structure Ream where
  tag : Nat := 0
  floor : Nat := 0
  deckle : Nat := 2
  mode : Nat := 0
  variants : Nat := 1
  rank : Nat := 0
  initialSet : Nat := 0
  portMask : Nat := 0
  budgets : List (Nat × Nat) := []
  jobSize : Nat := 1
  fwdOnly : Bool := false
  cycle : List SheetEnt := []
  copies : List (List SheetEnt) := []
  tokens : List Nat := []
  moveMap : List Byte := []
  ranges : List Range := []
  serving : List Byte := []
  genSeed : Nat := 0
  groups : Nat := 1
  loanGroup : Nat := 0
  critical : Bool := false
  shelf : Nat := 0
  digest : List Byte := []
  loadsEngines : List Nat := []
deriving DecidableEq, Repr

/-- The plan's state (R31–R53, R344): the loaded ream; the sheet's quanta, and where it began in schedule and plan time; the
boundary before it; the deckle window's own contribution, the flits received in each half (side × 64 + hops), how many axis phases have been
sent, and whether the echo has begun; the
committed record and the halt it calls for; the faults and the stretch requests (plan time, quanta, causes) that no window has carried; every fault; the host's switch and
variant; a named teardown. -/
structure PlanSt where
  ream : Option Ream := none
  quanta : Nat := 0
  nextQuantum : Nat := 0
  inQuantum : Bool := false
  quantumEnd : Nat := 0
  sheetStart : Nat := 0
  sheetPlan : Nat := 0
  intervalStart : Nat := 0
  windowOpen : Bool := false
  contribution : List Byte := []
  held : List Byte := []
  ann : List Nat := []
  ech : List Nat := []
  annSent : Nat := 0
  echSent : Nat := 0
  echoing : Bool := false
  disagree : Bool := false
  committed : List Byte := []
  committedValid : Bool := false
  haltNext : Bool := false
  halted : Bool := false
  faults : List FaultDesc := []
  faultLog : List FaultDesc := []
  requests : List (Nat × Nat × Nat) := []
  loanMine : List (Nat × Nat × Nat) := []
  wswitchItem : Option (Nat × Nat × Nat) := none
  variantItem : Option (Nat × Nat) := none
  variant : Nat := 0
  teardownNamed : Bool := false
  teardownSheet : Nat := 0
  drained : Bool := false
  tokenLimits : List (Nat × Nat) := []
  granted : Nat := 0
  stepFlits : List (List Byte) := []
  stepOut : List (List Byte) := []
  stepHdr : List Byte := []
  grants : List (Nat × Nat) := []
  teardownRamp : Bool := false
deriving DecidableEq, Repr

/-- Power and supply (R304–R321): the f_cap computed for coming sheets, whether a thermal trip still holds, and since when. -/
structure PowerSt where
  fcap : List (Nat × Nat) := []
  tripped : Bool := false
  tripAt : Nat := 0
deriving DecidableEq, Repr

/-- The timebase beyond its page: STEP pending, the time a state was entered, the reference present at reset, the root followed. -/
structure TimeSt where
  stepPending : Bool := false
  wallSet : Bool := false
  wallPhase : Nat := 0
  slewPhase : Nat := 0
  since : Nat := 0
  noCandSince : Nat := 0
  refAtReset : Bool := true
  refPresent : Bool := true
  refLostAt : Nat := 0
  rootId : Nat := 0
  rewritten : Bool := false
deriving DecidableEq, Repr

/-- An entry of the recent-request table (R235). -/
structure Recent where
  token : Nat
  time : Nat
  response : List Byte
deriving DecidableEq, Repr

/-- A request this module originated and still waits for (R248). -/
structure Pending where
  token : Nat
  since : Nat
  requester : Nat
  done : Option Nat
  data : List Byte
deriving DecidableEq, Repr

/-- A flit that crosses the I/O-die bridge (R239): the port it leaves by, and whether it ends its packet. -/
structure BridgeFlit where
  port : Nat
  last : Bool
  flit : SvcFlit
deriving DecidableEq, Repr

/-- The network interfaces (R243–R250): the membership maps of the two rank-table versions, the tail, the recent-request table, the
module's own requests, the packets delivered here; the buffers of the I/O-die bridge by direction, end and VC, and the VCs turned off in
each direction (R239). -/
structure NiSt where
  members0 : List Nat := []
  members1 : List Nat := []
  tailEnd : Nat := 0
  flipPending : Bool := false
  recent : List Recent := []
  requests : List Pending := []
  counter : Nat := 0
  inbox : List (Option (Fin 12) × List Byte) := []
  bridge : List (Nat × List BridgeFlit) := []
  bridgeXoff : List (Nat × Nat) := []
deriving DecidableEq, Repr

/-- A prefill or replay waiting in the queue (R280): its session, its source, the position of its next token, the tokens left, and where the
next token lies: a word of the input area, or a token of the session's log. -/
structure Prefill where
  session : Nat
  replay : Bool
  next : Nat
  left : Nat
  word : Nat
deriving DecidableEq, Repr

/-- A version of an adapter entry (R281). -/
structure Adapter where
  addr : Nat := 0
  word : Nat := 0
  valid : Bool := false
  refs : Nat := 0
deriving DecidableEq, Repr

/-- An adapter entry (R281): its two versions, and the current one. -/
structure AdapterEnt where
  v0 : Adapter := {}
  v1 : Adapter := {}
  current : Nat := 0
deriving DecidableEq, Repr

/-- A slot of a built step (R275): `took` is the adapter version that a rebinding session counted for the step (R281); `chunk` marks a
chunk slot, with its count, source, word and index. -/
structure SlotRec where
  session : Option Nat := none
  live : Bool := false
  new : Bool := false
  status : Nat := 1
  spec : Bool := false
  position : Nat := 0
  tenant : Nat := 0
  adapter : Nat := 0
  aver : Nat := 0
  avalid : Bool := false
  took : Option (Nat × Nat) := none
  pages : List Nat := []
  chunk : Bool := false
  count : Nat := 0
  replay : Bool := false
  word : Nat := 0
  index : Nat := 0
deriving DecidableEq, Repr

/-- A built step, until its outcome is applied (R270): what its results entry shows (R286), and its slots. -/
structure Built where
  step : Nat
  wall : Nat
  variant : Nat
  set_ : Nat
  flags : Nat
  first : Nat
  items : List (List Byte)
  slots : List SlotRec
deriving DecidableEq, Repr

/-- A results entry in the device area (R287): its step, the bytes before the slot results, the slots with the position each had, and the
slot results once the outcome was applied. -/
structure Result where
  step : Nat
  head : List Byte
  slots : List SlotRec
  done : Option (List Byte)
deriving DecidableEq, Repr

/-- What the session engine keeps on die (R258–R287): the last step started; the step to build with its wall time and descriptors; what rank
0 took for the steps to come (step, first item, overrun, tags); the decode slots (session + 1) and the positions the plan carries in them;
the prefill queue; the built steps; the adapter entries; the sessions that met an uncorrectable error; the sessions that never held a
slot; the cached session entries (session, step last used plus one, the 64 bytes, R263); the owner SRAM (HBM page, tenant plus one where the page is OWNED, R267); the page-list blocks and log pages in use; each session's log pages and tokens;
the results waiting, the steps lost since an entry was written, the entries written to the ring; the step-buffer banks that are ready; the
set that a drain keeps; the refusals that the next results entry shows; the number of the item last applied. -/
structure ServSt where
  stepNum : Nat := 0
  building : Bool := false
  buildStep : Nat := 0
  wallMs : Nat := 0
  committedItems : List (List Byte) := []
  taken : List (Nat × Nat × Bool × List (List Byte)) := []
  slots : List (Nat × Nat) := []
  carried : List (Nat × Nat) := []
  newSlots : List Nat := []
  prefill : List Prefill := []
  built : List Built := []
  adapters : List (Nat × AdapterEnt) := []
  poisoned : List Nat := []
  fresh : List Nat := []
  refused : List Nat := []
  cache : List (Nat × Nat × List Byte) := []
  owner : List (Nat × Nat) := []
  plUsed : List Nat := []
  logUsed : List Nat := []
  logs : List (Nat × List Nat × Nat) := []
  results : List Result := []
  lost : Nat := 0
  written : Nat := 0
  bankReady : List Nat := []
  drainSet : Option Nat := none
  flags : Nat := 0
  itemNow : Nat := 0
deriving DecidableEq, Repr

/-- The headbox's intake in progress (R294–R296): the next chunk, the chunks of the package, its ABORT; the SHA-256 over ROOT and KEY_ID of
each descriptor's package and of the ACTIVE set (R411). -/
structure HdbSt where
  next : Nat := 0
  chunks : Nat := 0
  aborting : Bool := false
  copying : Bool := false
  keyRoots : List (Nat × List Byte) := []
  activeDigest : List Byte := []
deriving DecidableEq, Repr

/-- A DMA descriptor in progress (R357): its ring index, its bytes, its completion status once its data writes are issued, the bytes moved,
the token of its service READ. -/
structure Dma where
  index : Nat
  desc : List Byte
  status : Option Nat
  moved : Nat
  token : Option Nat
deriving DecidableEq, Repr

/-- The configuration header (R350): the revision shows the physical stepping, the serial number is the module identity of the record. -/
structure ConfigHeader where
  vendorId : Nat := 0x1F47
  deviceId : Nat := 0x2D02
  classCode : Nat := 0x120000
  revisionId : Nat := 0xA1
  serial : Nat := 0
deriving DecidableEq, Repr

/-- The PCIe function beyond its page (R351, R352, R356, R361, R364): the size of BAR2 as its power of two, 30 to 36, the unmasked MSI-X vectors and the pending ones, one bit each; DMA in
progress; the load image; host writes of staging memory under way (delivery tick, offset, bytes). -/
structure PcieSt where
  header : ConfigHeader := {}
  bar2Log : Nat := 32
  unmasked : Nat := 0
  pba : Nat := 0
  dma : List (Nat × List Dma) := []
  image : List Byte := []
  stagingQ : List (Nat × Nat × List Byte) := []
  flrDone : Bool := false
  flrBusy : Bool := false
deriving DecidableEq, Repr

/-- An SPDM session (R252): when it was last heard, how many records it has sent and received under its present keys, and how many keys it
has had. -/
structure Session where
  opened : Bool
  heard : Nat
  records : Nat
  keys : Nat
  recordsIn : Nat
deriving DecidableEq, Repr

/-- A health event (R341): kind, weight, when it was charged, its charge. -/
structure HealthEvent where
  kind : Nat
  weight : Nat
  time : Nat
  where_ : Nat
deriving DecidableEq, Repr

/-- A firmware update in progress (R407): its component, the slot or copy it writes, the bytes received, whether it was verified. -/
structure Update where
  component : Nat
  slot : Nat
  received : Nat
  verified : Bool
deriving DecidableEq, Repr

/-- The management subsystem (R395–R413). `stage`: 0 boot ROM, 1 stage 1, 2 firmware before BOOT_OK, 3 firmware after it, 4 minimal mode;
`since` is when it began on the management clock. `modReset`: a module recovery is under way; `pinsLow`: the reset inputs held low
(0 MGT_RST_N, 1 PERST_N, 2 MOD_RST_N); `endedTag`: the job that a module reset ended. In flash: the preferred slot, the slot in trial,
whether its image asks for its SVN as the floor, whether a behaviour level was ever asked for (R413), the stage-1 copy in use and the one
written since the last BOOT_OK (R408), the last-gasp records written and reported, the keys. `askers`: where the messages came
from that firmware has still to answer (R251). -/
structure MgmtSt where
  stage : Nat := 0
  since : Nat := 0
  clock : Nat := 0
  modReset : Bool := true
  pinsLow : List Nat := []
  endedTag : Option Nat := none
  romMinimal : Bool := false
  calOk : Bool := false
  preferred : Nat := 0
  trial : Option Nat := none
  raiseFloor : Bool := false
  levelHeld : Bool := false
  stage1Copy : Nat := 0
  stage1New : Option Nat := none
  svnStage1 : Nat := 0
  gaspCount : Nat := 0
  gaspReported : Nat := 0
  rootKey : List Byte := []
  pubKeys : List (Nat × List Byte) := []
  sessions : List (Nat × Session) := []
  update : Option Update := none
  events : List HealthEvent := []
  ceTimes : List (Nat × List Nat) := []
  stretchNamed : List Nat := []
  endpoints : List (Nat × Nat) := []
  railBad : List (Nat × Nat) := []
  inbox : List (List Byte) := []
  askers : List Nat := []
  outbox : List (List Byte) := []
deriving DecidableEq, Repr

/-- Everything the spec gives the module, but for the queue of waiting commands. `poison` lists the 64-bit words of device memory that
hold an uncorrectable error, by device address / 8 (R173, R174); `imemPoison` those of instruction memory, by address / 8 (R100); `soft` and
`imemSoft` list the words that hold a correctable one; `releases` the token slots whose departure's slot has not ended (R92): ticks left, page,
table, slot, and whether a race took it. `side` holds the side flits by router and output, `sideIn` the answers that have reached I/O die W,
`sideWait` the accesses that wait for answers, each with the number of its flits plus one; `sramScrub` the patrol position in each SRAM.
`cfgPassAt` and `cfgAdoptAt` hold the tick, plus one, of the last pass end and of the last ADOPT (R384), `keptAt` that at which a teardown last
took each kept range (R393), `mgtAt` that of management's last register write, and `mgtWrites` the bits of each word that it wrote then (R369). -/
structure Block where
  store : Store := {}
  latches : List (Nat × Nat) := []
  hostGuard : Guard := {}
  mgtGuard : Guard := {}
  poison : List (Nat × Nat) := []
  imemPoison : List (Nat × Nat) := []
  soft : List (Nat × Nat) := []
  imemSoft : List (Nat × Nat) := []
  releases : List (Nat × Nat × Nat × Nat × Bool) := []
  engines : List (Nat × Engine) := []
  cores : List (Nat × CoreSt) := []
  clusters : List (Nat × ClusterSt) := []
  ports : List (Nat × PortSt) := []
  units : List (Nat × UnitSt) := []
  mesh : List MeshFlit := []
  side : List (Nat × List SideFlit) := []
  sideIn : List SideFlit := []
  sideWait : List (Nat × Nat) := []
  sramScrub : List (Nat × Nat) := []
  heldReleases : List (Nat × Nat) := []
  cfgParity : List (Nat × Nat) := []
  cfgSnapshot : List (Nat × Nat) := []
  cfgPassAt : Nat := 0
  cfgAdoptAt : Nat := 0
  keptAt : List (Nat × Nat) := []
  mgtAt : Nat := 0
  mgtWrites : List (Nat × Nat) := []
  plan : PlanSt := {}
  power : PowerSt := {}
  time : TimeSt := {}
  ni : NiSt := {}
  serv : ServSt := {}
  hdb : HdbSt := {}
  pcie : PcieSt := {}
  mgmt : MgmtSt := {}
  free : Nat := 0
  reply : List Nat := []
  rises : List (Nat × Nat) := []
  captures : List (Nat × Nat) := []
deriving DecidableEq, Repr

/-- The state of the machine: the module, and the commands that wait, first in, first out. -/
structure State where
  block : Block := {}
  pending : List Instr := []
deriving DecidableEq, Repr

/-- The ways the machine stops with a fault. The spec stops the block nowhere: no meaning raises one. -/
inductive Fault where
  /-- Raised by nothing: kept for the interface. Safe. -/
  | unreachable
deriving DecidableEq, Repr

/-- The commands a step turns away. -/
inductive Refusal where
  /-- Raised by exec's arm for a command that has no meaning yet, named by its mnemonic. Safe: nothing is proved of it. -/
  | notModelled (mnemonic : String)
  /-- Raised where a command's payload does not have the length its format fixes (R217, R38): no such command exists. Safe. -/
  | illFormed (mnemonic : String)
deriving DecidableEq, Repr

/-- The module right after reset: every register at its Reset column (the dashes at the values of DESIGN CHOICE, log entry 3), nothing listed
in any memory, no command waiting. -/
def State.reset : State := {}

end Sys2Proof.Machine
end

