-- ==== Sys2Proof/Machine/Ops.lean ====
section
/-! DEFINITION. The named operations over the state: registers, memories, tables, engines, resets of a page, engine numbering,
page addresses. Every later file reads and writes the state through these. -/

namespace Sys2Proof.Machine

/-! ### Registers -/

/-- The value a field holds. -/
def rd (s : Block) (f : Field) : Nat := Tab.get s.store.regs f.reset f.key % 2 ^ f.width

/-- A field written with the low bits of a value. -/
def wr (s : Block) (f : Field) (v : Nat) : Block :=
  { s with store := { s.store with regs := Tab.put s.store.regs f.reset f.key (v % 2 ^ f.width) } }

/-- A one-bit field reads 1. -/
def flag (s : Block) (f : Field) : Bool := rd s f == 1

/-- A count that stops at its largest value. -/
def incSat (s : Block) (f : Field) (n : Nat) : Block := wr s f (min (rd s f + n) (2 ^ f.width - 1))

/-- A count that wraps. -/
def incMod (s : Block) (f : Field) (n : Nat) : Block := wr s f (rd s f + n)

/-- A field back at its Reset column. -/
def toReset (s : Block) (f : Field) : Block := wr s f f.reset

/-- A field takes the next free value (R9, DESIGN CHOICE, log entry 7). -/
def wrFree (s : Block) (f : Field) : Block := { wr s f (Config.freeValue s.free) with free := s.free + 1 }

/-- A page at its Reset columns: every field with an address in [base, base + 4096). -/
def resetPage (s : Block) (base : Nat) : Block :=
  { s with store := { s.store with regs := Tab.clear s.store.regs (base * 32) ((base + 0x1000) * 32) } }

/-- A range of offsets of a page at its Reset columns. -/
def resetRange (s : Block) (lo hi : Nat) : Block :=
  { s with store := { s.store with regs := Tab.clear s.store.regs (lo * 32) (hi * 32) } }

/-- The fields of a list, back at the values they had in an earlier state: what a reset keeps. -/
def keepFields (old s : Block) : List Field → Block
  | [] => s
  | f :: r => keepFields old (wr s f (rd old f)) r

/-! ### Memories -/

def devRead (s : Block) (a n : Nat) : List Byte := Memory.readN s.store.dev a n
def devNum (s : Block) (a n : Nat) : Nat := Memory.num s.store.dev a n
/-- A table of words without those that [lo, hi) covers whole, or without those it touches. -/
def wordsOutside (lo hi : Nat) (l : List (Nat × Nat)) : List (Nat × Nat) := l.filter (fun p => p.1 * 8 < lo || hi < p.1 * 8 + 8)
def wordsAway (lo hi : Nat) (l : List (Nat × Nat)) : List (Nat × Nat) := l.filter (fun p => p.1 * 8 + 8 ≤ lo || hi ≤ p.1 * 8)
/-- A word of a table meets [a, a + len). -/
def wordsMeet (l : List (Nat × Nat)) (a len : Nat) : Bool := l.any (fun p => p.1 * 8 < a + len && a < p.1 * 8 + 8)
/-- A write to device memory. A 64-bit word written whole is no longer uncorrectable; one written in part stays so, and a correctable error
goes with any write of its word (R173). -/
def devWrite (s : Block) (a : Nat) (bs : List Byte) : Block :=
  { s with
    store := { s.store with dev := Memory.writeN s.store.dev a bs }
    poison := wordsOutside a (a + bs.length) s.poison
    soft := wordsAway a (a + bs.length) s.soft }
def devPut (s : Block) (a n v : Nat) : Block := devWrite s a (natLe n v)
/-- Device memory of [lo, hi) zeroed. -/
def devZero (s : Block) (lo hi : Nat) : Block :=
  { s with
    store := { s.store with dev := Memory.zero s.store.dev lo hi }
    poison := wordsOutside lo hi s.poison
    soft := wordsAway lo hi s.soft }
/-- A word of [a, a + len) is uncorrectable (R174). -/
def poisoned (s : Block) (a len : Nat) : Bool := wordsMeet s.poison a len
/-- A word of [a, a + len) holds a correctable error (R173). -/
def softAt (s : Block) (a len : Nat) : Bool := wordsMeet s.soft a len
/-- The words of [a, a + 8n) become uncorrectable. -/
def poisonWords (s : Block) (a : Nat) : Nat → Block
  | 0 => s
  | n + 1 => poisonWords { s with poison := Tab.put s.poison 0 (a / 8) 1 } (a + 8) n
def hostRead (s : Block) (a n : Nat) : List Byte := Memory.readN s.store.host a n
def hostWrite (s : Block) (a : Nat) (bs : List Byte) : Block :=
  { s with store := { s.store with host := Memory.writeN s.store.host a bs } }
def stepRead (s : Block) (a n : Nat) : List Byte := Memory.readN s.store.step a n
def stepWrite (s : Block) (a : Nat) (bs : List Byte) : Block :=
  { s with store := { s.store with step := Memory.writeN s.store.step a bs } }
def stepZero (s : Block) (lo hi : Nat) : Block :=
  { s with store := { s.store with step := Memory.zero s.store.step lo hi } }
def rankRead (s : Block) (a n : Nat) : List Byte := Memory.readN s.store.rank a n
def rankWrite (s : Block) (a : Nat) (bs : List Byte) : Block :=
  { s with store := { s.store with rank := Memory.writeN s.store.rank a bs } }
def flashRead (s : Block) (a n : Nat) : List Byte := Memory.readN s.store.flash a n
def flashWrite (s : Block) (a : Nat) (bs : List Byte) : Block :=
  { s with store := { s.store with flash := Memory.writeN s.store.flash a bs } }
def flashZero (s : Block) (lo hi : Nat) : Block :=
  { s with store := { s.store with flash := Memory.zero s.store.flash lo hi } }
def imemRead (s : Block) (a n : Nat) : List Byte := Memory.readN s.store.imem a n
def imemWr (s : Block) (a : Nat) (bs : List Byte) : Block :=
  { s with
    store := { s.store with imem := Memory.writeN s.store.imem a bs }
    imemPoison := wordsOutside a (a + bs.length) s.imemPoison
    imemSoft := wordsAway a (a + bs.length) s.imemSoft }
def imemZero (s : Block) (lo hi : Nat) : Block :=
  { s with
    store := { s.store with imem := Memory.zero s.store.imem lo hi }
    imemPoison := wordsOutside lo hi s.imemPoison
    imemSoft := wordsAway lo hi s.imemSoft }
/-- A word of [a, a + len) of instruction memory is uncorrectable, or holds a correctable error (R100). -/
def imemBad (s : Block) (a len : Nat) : Bool := wordsMeet s.imemPoison a len
def imemSoftAt (s : Block) (a len : Nat) : Bool := wordsMeet s.imemSoft a len

/-- The memories that lose their contents when the module resets (R331): HBM, die SRAM, staging, step buffer, rank tables. The DDR5
range keeps its bytes unless the supply was lost. -/
def volatileReset (s : Block) (ddrToo : Bool) : Block :=
  { s with store := { s.store with
      dev := if ddrToo then [] else Memory.zero (Memory.zero s.store.dev 0 0x10000000000) 0x30000000000 0x1000000000000,
      imem := [], staging := [], step := [], rank := [] } }

/-! ### Running a command -/

/-- The outcome of a command whose effect on the module is f: the queue is not touched. -/
def run (f : Block → Block) (s : State) : Host.Outcome State Fault Refusal := .next { s with block := f s.block }

/-- The same, for a command whose payload must have the length its format fixes (DESIGN CHOICE, log entry 46). -/
def runIf (ok : Bool) (name : String) (f : Block → Block) (s : State) : Host.Outcome State Fault Refusal :=
  if ok then run f s else .refused (.illFormed name)

/-! ### Page addresses (R386–R388) -/

def prtPage (p : Nat) : Nat := 0x10000 + p * 0x1000
def telPage (p : Nat) : Nat := 0x20000 + p * 0x1000
def sltPage (p : Nat) : Nat := 0x30000 + p * 0x1000
def lnkPage (p : Nat) : Nat := 0x40000 + p * 0x1000
def hbmPage (n : Nat) : Nat := 0x50000 + n * 0x1000
def ddrPage (n : Nat) : Nat := 0x60000 + n * 0x1000
def cluPage (c : Nat) : Nat := 0x200000 + c * 0x200000
def clkPage (c : Nat) : Nat := cluPage c + 0x1000
def storePage (c : Nat) : Nat := cluPage c + 0x2000
def corPage (c k : Nat) : Nat := cluPage c + 0x10000 + k * 0x10000
def engPage8 (c k e : Nat) : Nat := corPage c k + (e + 1) * 0x1000

/-! ### Engine numbers: core engines cluster × 48 + core × 8 + code, then PE, HBE, SSE, HT, DT, ME (R10, R15) -/

def engCore (c k e : Nat) : Nat := c * 48 + k * 8 + e
def ceNum (e : CoreEng) : Nat := engCore e.cl e.core e.eng
def engPE (n : Nat) : Nat := 768 + n
def engHBE : Nat := 780
def engSSE : Nat := 781
def engHT (n : Nat) : Nat := 782 + n
def engDT (n : Nat) : Nat := 794 + n
def engME (c i : Nat) : Nat := 802 + 2 * c + i

def engNum : EngineId → Nat
  | .core e => engCore e.cl e.core e.eng
  | .pe n => engPE n
  | .hbe => engHBE
  | .sse => engSSE
  | .ht n => engHT n
  | .dt n => engDT n
  | .me c i => engME c i

def slotNum : SlotEng → Nat
  | .pe n => engPE n
  | .me c i => engME c i

def engIsCore (n : Nat) : Bool := n < 768
def engIsSlot (n : Nat) : Bool := (768 ≤ n && n < 780) || (802 ≤ n && n < 834)
def engIsMe (n : Nat) : Bool := 802 ≤ n && n < 834
def engIsPe (n : Nat) : Bool := 768 ≤ n && n < 780
def engIsTier (n : Nat) : Bool := 782 ≤ n && n < 802
def engCluster (n : Nat) : Nat := if n < 768 then n / 48 else (n - 802) / 2
def engCoreOf (n : Nat) : Nat := n % 48 / 8
def engKind (n : Nat) : Nat := n % 8

/-- The engine code of R39. -/
def engCode (n : Nat) : Nat :=
  if n < 768 then n % 8
  else if n < 780 then 0x10 + (n - 768)
  else if n = 780 then 0x20
  else if n = 781 then 0x21
  else if n < 794 then 0x30 + (n - 782)
  else if n < 802 then 0x40 + (n - 794)
  else 0x50 + (n - 802) % 2

/-- The engine that a code, a cluster and a core name, if any (R353, R357, R418). -/
def engOfCode (code cl core : Nat) : Option Nat :=
  if code < 8 then (if cl < 16 ∧ core < 6 then some (engCore cl core code) else none)
  else if 0x10 ≤ code ∧ code < 0x1C then some (engPE (code - 0x10))
  else if code = 0x20 then some engHBE
  else if code = 0x21 then some engSSE
  else if 0x30 ≤ code ∧ code < 0x3C then some (engHT (code - 0x30))
  else if 0x40 ≤ code ∧ code < 0x48 then some (engDT (code - 0x40))
  else if code = 0x50 ∨ code = 0x51 then (if cl < 16 then some (engME cl (code - 0x50)) else none)
  else none

/-- The cluster and core bytes of a descriptor or snapshot: 0xFF where the engine has none. A mesh engine is a die-level engine. -/
def engClusterByte (n : Nat) : Nat := if n < 768 then n / 48 else if engIsMe n then (n - 802) / 2 else 0xFF
def engCoreByte (n : Nat) : Nat := if n < 768 then n % 48 / 8 else 0xFF

/-- The page that holds the engine's block. -/
def engPage (n : Nat) : Nat :=
  if n < 768 then engPage8 (n / 48) (n % 48 / 8) (n % 8)
  else if n < 780 then sltPage (n - 768)
  else if n = 780 then 0x6000
  else if n = 781 then 0x7000
  else if n < 794 then hbmPage (n - 782)
  else if n < 802 then ddrPage (n - 794)
  else cluPage ((n - 802) / 2)

/-- Which relocated block of its page an engine has: none for an engine page of its own. -/
def engBlk (n : Nat) : Option Nat := if n < 768 then none else if engIsMe n then some ((n - 802) % 2) else some 0

/-- The address at which engine-page offset 0 of the engine's block would lie (R115, R445). -/
def engBlock (n : Nat) : Nat :=
  match engBlk n with
  | none => engPage n
  | some b => engPage n + 0xC0 + 0x100 * b

/-! ### Tables of the state -/

def eng (s : Block) (n : Nat) : Engine := Tab.get s.engines {} n
def setEng (s : Block) (n : Nat) (e : Engine) : Block := { s with engines := Tab.put s.engines {} n e }
def coreId (c k : Nat) : Nat := c * 6 + k
def core (s : Block) (c k : Nat) : CoreSt := Tab.get s.cores {} (coreId c k)
def setCore (s : Block) (c k : Nat) (x : CoreSt) : Block := { s with cores := Tab.put s.cores {} (coreId c k) x }
def clus (s : Block) (c : Nat) : ClusterSt := Tab.get s.clusters {} c
def setClus (s : Block) (c : Nat) (x : ClusterSt) : Block := { s with clusters := Tab.put s.clusters {} c x }
def prt (s : Block) (p : Nat) : PortSt := Tab.get s.ports {} p
def setPort (s : Block) (p : Nat) (x : PortSt) : Block := { s with ports := Tab.put s.ports {} p x }
def unit (s : Block) (u : Nat) : UnitSt := Tab.get s.units {} u
def setUnit (s : Block) (u : Nat) (x : UnitSt) : Block := { s with units := Tab.put s.units {} u x }

/-- Memory units: HBM stacks 0–11, DDR5 channels 12–19. -/
def unitNum : MemUnit → Nat
  | .hbm n => n
  | .ddr n => 12 + n

/-- A fold over the numbers below n. -/
def overN (n : Nat) (f : Nat → Block → Block) (s : Block) : Block := (List.range n).foldl (fun t i => f i t) s

/-- A fold over a list. -/
def overL {α : Type} (l : List α) (f : α → Block → Block) (s : Block) : Block := l.foldl (fun t x => f x t) s

/-- An update made only where a condition holds. -/
def when (b : Bool) (f : Block → Block) (s : Block) : Block := if b then f s else s

/-! ### The usual readings -/

/-- Couch entries in use at a port: arrived and not yet released, or held and not yet consumed (R191, R255). -/
def couchUsed (s : Block) (p : Nat) : Nat := (prt s p).couch.length + ((eng s (engPE p)).held.filter (fun h => !h.consumed)).length

def now (s : Block) : Nat := rd s Reg.TBS.PLAN_TIME

/-- Host writes of staging memory, as bytes over a memory. -/
def overlay (q : List (Nat × Nat × List Byte)) (m : Memory) : Memory := q.foldl (fun m w => Memory.writeN m w.2.1 w.2.2) m
/-- Staging memory as the plan sees it: with the host writes delivered before this tick (R356). -/
def stagingNow (s : Block) : Memory := overlay (s.pcie.stagingQ.filter (fun w => w.1 < now s)) s.store.staging
def stagingRead (s : Block) (a n : Nat) : List Byte := Memory.readN (stagingNow s) a n
def stagingNum (s : Block) (a n : Nat) : Nat := Memory.num (stagingNow s) a n
/-- Staging memory with every host write, as the host reads it back. -/
def stagingAll (s : Block) : Memory := overlay s.pcie.stagingQ s.store.staging
/-- Delivered writes stand in the memory; the others wait. -/
def stagingSettle (s : Block) : Block :=
  { s with
    store := { s.store with staging := stagingNow s }
    pcie := { s.pcie with stagingQ := s.pcie.stagingQ.filter (fun w => now s ≤ w.1) } }
/-- A write of the plan. -/
def stagingWr (s : Block) (a : Nat) (bs : List Byte) : Block :=
  let s := stagingSettle s
  { s with store := { s.store with staging := Memory.writeN s.store.staging a bs } }
/-- A write of the host: delivered after the latency of crossing class 4. -/
def stagingHost (s : Block) (a : Nat) (bs : List Byte) : Block :=
  let s := stagingSettle s
  { s with pcie := { s.pcie with stagingQ := s.pcie.stagingQ ++ [(now s + rd s (Reg.TBS.XING_LAT_CAL 4), a, bs)] } }
def stagingZero (s : Block) (lo hi : Nat) : Block :=
  { s with
    store := { s.store with staging := Memory.zero (stagingAll s) lo hi }
    pcie := { s.pcie with stagingQ := [] } }

def inJob (s : Block) : Bool := flag s Reg.TBS.STATE_IN_JOB
def sheet (s : Block) : Nat := rd s Reg.TBS.SHEET_NUM
def sched (s : Block) : Nat := rd s Reg.TBS.SCHED_TIME
def jobState (s : Block) : Nat := rd s Reg.GLB.JOB_STATUS_STATE

/-- The loaded ream; an empty one where none is loaded. -/
def ream (s : Block) : Ream := s.plan.ream.getD {}

def engState (s : Block) (n : Nat) : Nat := rd s (Reg.ENG.STATE_STATE (engBlock n))

/-- WAIT_KIND as it reads: a core engine that would run waits for the end of a region stop (R72, R115). -/
def waitKindOf (s : Block) (n : Nat) : Nat :=
  if n < 768 ∧ engState s n = 2 ∧ flag s (Reg.CLK.FREQ_NOW_STOPPED (clkPage (n / 48))) then 6 else rd s (Reg.ENG.STATE_WAIT_KIND (engBlock n))

/-- The engine belongs to the job: a selected engine of a core that does, or a die-level engine while the module does (R85). -/
def engInJob (s : Block) (n : Nat) : Bool :=
  if n < 768 then
    flag s (Reg.COR.ENGINE_MASK_IN_JOB (corPage (n / 48) (n % 48 / 8))) &&
    bit (rd s (Reg.COR.ENGINE_MASK_MASK (corPage (n / 48) (n % 48 / 8)))) (n % 8)
  else if engIsPe n then inJob s && flag s (Reg.PRT.PORT_STATUS_IN_JOB (prtPage (n - 768)))
  else inJob s

/-! ### Cyclic comparison -/

/-- A count is at least a value, modulo 65,536 (R89). -/
def atLeast16 (c v : Nat) : Bool := (c + 65536 - v % 65536) % 65536 < 32768

/-- The ring distance from b to a modulo 2^32. -/
def dist32 (a b : Nat) : Nat := (a + 2 ^ 32 - b % 2 ^ 32) % 2 ^ 32

end Sys2Proof.Machine
end

