-- ==== Sys2Proof/Machine/Flags.lean ====
section
/-! DEFINITION. The error records, live conditions, interrupts, events, the persistent log and sheet faults
(R39, R326, R327, R359, R361, R375, R399, R445). -/

namespace Sys2Proof.Machine

/-! ### Page identity (R373, R374) -/

/-- The block type of the page at a base address. -/
def pageType (a : Nat) : Nat :=
  if a < 0x9000 then [1, 2, 3, 4, 0x0E, 0x0F, 0x0C, 0x0D, 7].getD (a / 0x1000) 0
  else if a < 0x200000 then [0, 5, 6, 8, 9, 0x0A, 0x0B].getD (a / 0x10000) 0
  else
    let o := (a - 0x200000) % 0x200000
    if o < 0x10000 then 0x11 + o / 0x1000 else 0x20 + o % 0x10000 / 0x1000

/-- Port, stack, channel or engine number; the logical core for core and engine pages; 0 otherwise. -/
def pageInstance (a : Nat) : Nat :=
  if a < 0x10000 then 0
  else if a < 0x200000 then a % 0x10000 / 0x1000
  else
    let o := (a - 0x200000) % 0x200000
    if o < 0x10000 then 0 else o / 0x10000 - 1

/-- The cluster of a page in a cluster block, 0xFF for die-level pages. -/
def pageCluster (a : Nat) : Nat := if a < 0x200000 then 0xFF else (a - 0x200000) / 0x200000

/-- PAGE_ID. -/
def pageId (a : Nat) : Nat := pageType a + 0x100 * pageInstance a + 0x10000 * pageCluster a + 0x1000000

/-! ### MSI-X (R349, R361) -/

/-- A vector is raised: the message is written to host memory, or stays pending while the vector is masked (PRESUMED, log entry 10). -/
def msix (s : Block) (v : Nat) : Block :=
  if bit s.pcie.unmasked v then
    hostWrite s (Memory.num s.store.msix (16 * v) 8) (Memory.readN s.store.msix (16 * v + 8) 4)
  else { s with pcie := { s.pcie with pba := setBit s.pcie.pba v true } }

/-! ### The persistent log (R399) -/

/-- One entry appended; a sector is erased before the write position enters it. The timebase does not run in a module reset (DEDUCED, log entry 33). -/
def logEntry (s : Block) (kind code page detail : Nat) : Block :=
  let e := rd s Reg.MGT.LOG_WRITTEN
  let pos := 0x3700000 + 32 * (e % 1048576)
  let wall := if s.time.wallSet then rd s Reg.TBS.WALL_TIME else 0
  let plan := if s.mgmt.modReset then 0 else now s
  let body := natLe 2 kind ++ natLe 2 code ++ natLe 4 page ++ natLe 8 plan ++ natLe 8 wall ++ natLe 4 detail
  let s := if e % 2048 = 0 then
      wr (flashZero s pos (pos + 65536)) Reg.MGT.LOG_OLDEST (max (rd s Reg.MGT.LOG_OLDEST) (e + 2048 - 1048576))
    else s
  wr (flashWrite s pos (body ++ natLe 4 (crc32c body))) Reg.MGT.LOG_WRITTEN (e + 1)

/-! ### Error records -/

/-- An error record: the page header's, or a relocated engine block's (R326, R445). -/
structure ErrRec where
  page : Nat
  blk : Option Nat
deriving DecidableEq, Repr

def ErrRec.base (r : ErrRec) : Nat := match r.blk with | none => r.page | some b => r.page + 0xC0 + 0x100 * b
def ErrRec.sticky (r : ErrRec) : Field := match r.blk with | none => Reg.HDR.ERR_STICKY r.page | some _ => Reg.BLK.ERR_STICKY r.base
def ErrRec.enable (r : ErrRec) : Field := match r.blk with | none => Reg.HDR.ERR_ENABLE r.page | some _ => Reg.BLK.ERR_ENABLE r.base
def ErrRec.first (r : ErrRec) : Field := match r.blk with | none => Reg.HDR.ERR_FIRST r.page | some _ => Reg.BLK.ERR_FIRST r.base
def ErrRec.firstTime (r : ErrRec) : Field :=
  match r.blk with | none => Reg.HDR.ERR_FIRST_TIME r.page | some _ => Reg.BLK.ERR_FIRST_TIME r.base
/-- The code a report carries for a captured bit (R445). -/
def ErrRec.code (r : ErrRec) (i : Nat) : Nat := match r.blk with | none => i + 1 | some b => 0x40 * (b + 1) + i + 1

/-- The error record of a page's own header. -/
def pageRec (a : Nat) : ErrRec := ⟨a, none⟩

/-- The error record of an engine (R115, R445). -/
def engRec (n : Nat) : ErrRec := ⟨engPage n, engBlk n⟩

/-- The code of a log entry already written, replaced (R399). -/
def relog (s : Block) (e code : Nat) : Block :=
  let pos := 0x3700000 + 32 * (e % 1048576)
  let body := flashRead s pos 2 ++ natLe 2 code ++ flashRead s (pos + 4) 24
  flashWrite s pos (body ++ natLe 4 (crc32c body))

/-- Where the capture of a record was logged: an entry of the log, plus one. -/
def captureLog (r : ErrRec) : Nat := 2 ^ 40 + r.sticky.key

/-- The host address of the CODE byte of a capture's FIRST_ERROR record; 0 where no record was written. -/
def captureEvent (r : ErrRec) : Nat := 2 ^ 41 + r.sticky.key

/-- A capture begins: when, where its log entry goes, and no record yet. -/
def noteCapture (s : Block) (r : ErrRec) : Block :=
  { s with captures := Tab.put (Tab.put (Tab.put s.captures 0 r.sticky.key (now s + 1)) 0 (captureLog r) (rd s Reg.MGT.LOG_WRITTEN + 1)) 0 (captureEvent r) 0 }

/-- A bit set, with its capture and its interrupt; the report's event is left to the caller. Bits that set in one tick
leave the lowest index captured, in the report too (R326, R327; DEDUCED, log entry 11). -/
def raiseQuiet (s : Block) (r : ErrRec) (i : Nat) : Block :=
  let old := rd s r.sticky
  let s := { s with rises := Tab.put s.rises 0 (r.sticky.key * 16 + i) (now s + 1) }
  if bit old i then s
  else
    let s := wr s r.sticky (setBit old i true)
    let s :=
      if old = 0 then
        let s := noteCapture s r
        let s := wr (wr s r.first (i + 1)) r.firstTime (now s)
        logEntry s 1 (r.code i) (pageId r.page) (now s / 2 ^ 32)
      else if Tab.get s.captures 0 r.sticky.key = now s + 1 ∧ i + 1 < rd s r.first then
        relog (wr s r.first (i + 1)) (Tab.get s.captures 0 (captureLog r) - 1) (r.code i)
      else s
    if bit (rd s r.enable) i then msix s 0 else s

/-! ### Events (R359) -/

/-- The ring length 2^n, n kept within its range (DESIGN CHOICE, log entry 13). -/
def ringLen (lo n : Nat) : Nat := 2 ^ min 16 (max lo n)

/-- An event record: written while the ring has room, else counted as lost with EVT_OVERFLOW. A ring that is not enabled takes no
records and counts none (DESIGN CHOICE, log entry 12). -/
def event (s : Block) (kind code page detail : Nat) : Block :=
  if flag s Reg.PCI.EVT_CTRL_ENABLE then
    let n := ringLen 6 (rd s Reg.PCI.EVT_CTRL_LOG2_ENTRIES)
    let w := rd s Reg.PCI.EVT_WRITTEN
    if dist32 w (rd s Reg.PCI.EVT_CONSUMED) < n then
      let rec_ := natLe 1 kind ++ natLe 1 code ++ natLe 1 (w / n % 2) ++ natLe 1 0 ++ natLe 4 page ++ natLe 8 (now s) ++
        natLe 8 (rd s Reg.TBS.WALL_TIME) ++ natLe 8 detail
      msix (incMod (hostWrite s (rd s Reg.PCI.EVT_BASE + 32 * (w % n)) rec_) Reg.PCI.EVT_WRITTEN 1) 1
    else
      let r := pageRec 0x4000
      let reported := rd s r.sticky = 0 ∧ bit (rd s r.enable) ErrBit.PCI.EVT_OVERFLOW = true
      raiseQuiet (incSat s Reg.PCI.EVT_LOST (if reported then 2 else 1)) r ErrBit.PCI.EVT_OVERFLOW
  else s

/-- The FIRST_ERROR record of an enabled capture (R359), noted in case a lower bit of the same tick takes the capture. -/
def firstError (s : Block) (r : ErrRec) (i : Nat) : Block :=
  let at_ := rd s Reg.PCI.EVT_BASE + 32 * (rd s Reg.PCI.EVT_WRITTEN % ringLen 6 (rd s Reg.PCI.EVT_CTRL_LOG2_ENTRIES))
  let w := rd s Reg.PCI.EVT_WRITTEN
  let s := event s 1 (r.code i) (pageId r.page) 0
  { s with captures := Tab.put s.captures 0 (captureEvent r) (if rd s Reg.PCI.EVT_WRITTEN = w then 0 else at_ + 1) }

/-- A sticky bit rises with its cause (R326, R375): capture, interrupt, and the FIRST_ERROR event of an enabled capture. A lower bit that
takes the capture in the same tick gives the record its code. -/
def raise (s : Block) (r : ErrRec) (i : Nat) : Block :=
  let t := raiseQuiet s r i
  if !bit (rd s r.sticky) i && rd t r.first == i + 1 && bit (rd t r.enable) i && (rd s r.sticky == 0 || rd s r.first != i + 1) then
    (if Tab.get t.captures 0 (captureEvent r) = 0 then firstError t r i
     else hostWrite t (Tab.get t.captures 0 (captureEvent r)) [BitVec.ofNat 8 (r.code i)])
  else t

/-- A bit of a page's own record. -/
def raisePage (s : Block) (page i : Nat) : Block := raise s (pageRec page) i

/-- A live condition (R375): its STATUS bit follows it, and its sticky bit rises when it begins. -/
def live (s : Block) (page i : Nat) (b : Bool) : Block :=
  let st := rd s (Reg.HDR.STATUS page)
  if bit st i = b then s
  else
    let s := wr s (Reg.HDR.STATUS page) (setBit st i b)
    if b then raisePage s page i else s

/-- A live condition holds. -/
def isLive (s : Block) (page i : Nat) : Bool := bit (rd s (Reg.HDR.STATUS page)) i

/-- Sticky bits of a mask cleared by a write (R375, R376): a bit whose cause recurred in this tick stays; the capture
re-arms only when the register is left zero (DEDUCED, log entry 11). -/
def clearSticky (s : Block) (r : ErrRec) (mask : Nat) : Block :=
  let old := rd s r.sticky
  let new := (List.range 16).foldl (fun v i =>
    if bit mask i ∧ Tab.get s.rises 0 (r.sticky.key * 16 + i) ≠ now s + 1 then setBit v i false else v) old
  let s := wr s r.sticky new
  if new = 0 then
    { wr (wr s r.first 0) r.firstTime 0 with captures := Tab.put s.captures 0 r.sticky.key 0 }
  else s

/-! ### Faults (R39, R40, R52, R337) -/

def clsLateSlot : Nat := 1
def clsHollow : Nat := 2
def clsUncorrectable : Nat := 3
def clsStretchLimit : Nat := 4
def clsHung : Nat := 5
def clsFlipNotReady : Nat := 6
def clsDisagree : Nat := 7
def clsCapFloor : Nat := 8
def clsOverrun : Nat := 9

/-- The 32 bytes of a fault descriptor (R39). -/
def FaultDesc.bytes (f : FaultDesc) : List Byte :=
  natLe 8 f.time ++ natLe 6 f.sheet ++ natLe 2 f.cls ++ natLe 2 f.rank ++ natLe 1 f.cluster ++ natLe 1 f.core ++
  natLe 1 f.engine ++ natLe 1 0 ++ natLe 2 f.reason ++ natLe 4 f.addr ++ natLe 4 0

/-- A sheet fault of this module in its job: kept with its plan time for the window of the next sheet (R43); once a halt has been committed
no window carries it (R337). -/
def fault (s : Block) (cls cluster core_ engine reason addr : Nat) : Block :=
  if inJob s ∧ jobState s = 3 then
    let f : FaultDesc := ⟨now s, sheet s, cls, (ream s).rank, cluster, core_, engine, reason, addr⟩
    let carried := if flag s Reg.TBS.HALT_SHEET_VALID then s.plan.faults else s.plan.faults ++ [f]
    { s with plan := { s.plan with faults := carried, faultLog := s.plan.faultLog ++ [f] } }
  else s

/-- A fault of a die-level block outside clusters with no engine named. -/
def faultDie (s : Block) (cls : Nat) : Block := fault s cls 0xFF 0xFF 0xFF 0 0

/-- A fault that names an engine. -/
def faultEng (s : Block) (cls n reason addr : Nat) : Block :=
  fault s cls (engClusterByte n) (engCoreByte n) (engCode n) reason addr

end Sys2Proof.Machine
end

