-- ==== Sys2Proof/Machine/Operands.lean ====
section
/-! DEFINITION. The operand forms: every field of a 16-byte operation (R427, R428), and which encodings are legal
(R426, R427). A word is the 128-bit little-endian value of the operation. -/

namespace Sys2Proof.Machine

/-! ### The common fields of a core-engine operation, bits [47:0] (R427) -/

def fOpcode (w : Nat) : Nat := bits w 0 8
def fWaitK (w : Nat) : Nat := bits w 8 2
def fSigK (w : Nat) : Nat := bits w 10 2
def fWSpace (w : Nat) : Nat := bits w 12 1
def fSSpace (w : Nat) : Nat := bits w 13 1
def fWSlot (w : Nat) : Nat := bits w 14 7
def fSSlot (w : Nat) : Nat := bits w 21 7
def fWVal (w : Nat) : Nat := bits w 28 16
def fWRel (w : Nat) : Bool := bit w 44

/-! ### Opcodes (R426) -/

def opNOP : Nat := 0x00
def opEND : Nat := 0x01
def opSHEETEND : Nat := 0x02
def opLOOP : Nat := 0x03
def opSETCNT : Nat := 0x04
def opBAR : Nat := 0x05
def opSYNC : Nat := 0x06
def opHINT : Nat := 0x08
def opMMA : Nat := 0x10
def opWLOAD : Nat := 0x11
def opSWAP : Nat := 0x12
def opDRAIN : Nat := 0x13
def opVOP : Nat := 0x20
def opMOVE : Nat := 0x30
def opGATHER : Nat := 0x31
def opIMLOAD : Nat := 0x32
def opSVCREAD : Nat := 0x33

/-! ### Operand fields (R427) -/

def fDeadline (w : Nat) : Nat := bits w 48 21
def fLoopSrc (w : Nat) : Bool := bit w 48
def fLoopCount (w : Nat) : Nat := bits w 49 16
def fLoopReg (w : Nat) : Nat := bits w 49 3
def fLoopM (w : Nat) : Nat := bits w 65 16
def fLoopT (w : Nat) : Nat := bits w 81 16
def fLoopBody (w : Nat) : Nat := bits w 97 12
def fCntReg (w : Nat) : Nat := bits w 48 3
def fCntSrc (w : Nat) : Bool := bit w 51
def fCntImm (w : Nat) : Nat := bits w 52 32
def fCntAddr (w : Nat) : Nat := bits w 52 22
def fCntSpace (w : Nat) : Nat := bits w 84 1
def fBarrier (w : Nat) : Nat := bits w 48 4
def fHintCount (w : Nat) : Nat := bits w 48 3
def fHintLead (w : Nat) : Nat := bits w 51 16
def fMode (w : Nat) : Nat := bits w 48 3
def fAFmt (w : Nat) : Nat := bits w 51 3
def fMmaAddr (w : Nat) : Nat := bits w 54 21
def fStride (w : Nat) : Nat := bits w 75 12
def fN (w : Nat) : Nat := bits w 87 8
def fHalf (w : Nat) : Nat := bits w 95 1
def fR0 (w : Nat) : Nat := bits w 96 7
def fClear (w : Nat) : Bool := bit w 103
def fMmaAnchor (w : Nat) : Nat := bits w 104 10
def fSRel (w : Nat) : Bool := bit w 114
def fHeavy (w : Nat) : Bool := bit w 115
def fWlAddr (w : Nat) : Nat := bits w 48 22
def fWlFmt (w : Nat) : Nat := bits w 70 3
def fWlK (w : Nat) : Nat := bits w 73 8
def fWlTag (w : Nat) : Nat := bits w 81 16
def fDrHalf (w : Nat) : Nat := bits w 48 1
def fDrRow (w : Nat) : Nat := bits w 49 7
def fDrRows (w : Nat) : Nat := bits w 56 8
def fDrOut (w : Nat) : Nat := bits w 64 3
def fDrDest (w : Nat) : Nat := bits w 67 1
def fDrAddr (w : Nat) : Nat := bits w 68 25
def fFunc (w : Nat) : Nat := bits w 48 8
def fVa (w : Nat) : Nat := bits w 56 11
def fVb (w : Nat) : Nat := bits w 67 11
def fVc (w : Nat) : Nat := bits w 78 11
def fVd (w : Nat) : Nat := bits w 89 11
def fVFmt (w : Nat) : Nat := bits w 100 3
def fVAr (w : Nat) : Nat := bits w 103 3
def fVWidth (w : Nat) : Nat := bits w 106 2
def fVAnchor (w : Nat) : Nat := bits w 108 10
def fMvDev (w : Nat) : Nat := bits w 48 40
def fMvDir (w : Nat) : Nat := bits w 88 1
def fMvSpace (w : Nat) : Nat := bits w 89 2
def fMvLocal (w : Nat) : Nat := bits w 91 25
def fMvLen (w : Nat) : Nat := bits w 116 12
def fGaDesc (w : Nat) : Nat := bits w 48 4
def fGaISpace (w : Nat) : Nat := bits w 52 1
def fGaIAddr (w : Nat) : Nat := bits w 53 25
def fGaN (w : Nat) : Nat := bits w 78 16
def fGaSpace (w : Nat) : Nat := bits w 94 2
def fGaDest (w : Nat) : Nat := bits w 96 25
def fImDev (w : Nat) : Nat := bits w 48 40
def fImEng (w : Nat) : Nat := bits w 88 8
def fImLen (w : Nat) : Nat := bits w 96 9
def fImOff (w : Nat) : Nat := bits w 105 8
def fSrRank (w : Nat) : Nat := bits w 48 16
def fSrAddr (w : Nat) : Nat := bits w 64 40
def fSrLen (w : Nat) : Nat := if bits w 104 6 = 0 then 64 else bits w 104 6
def fSrSpace (w : Nat) : Nat := bits w 110 1
def fSrLocal (w : Nat) : Nat := bits w 111 17

/-- The operand bits an operation uses above bit 48, as (lowest bit, width) (R427). -/
def usedBits (w : Nat) : List (Nat × Nat) :=
  if fOpcode w = opSHEETEND then [(48, 21)]
  else if fOpcode w = opLOOP then [(48, 1), (49, if fLoopSrc w then 3 else 16), (65, 44)]
  else if fOpcode w = opSETCNT then (if fCntSrc w then [(48, 26), (84, 1)] else [(48, 36)])
  else if fOpcode w = opBAR then [(48, 4)]
  else if fOpcode w = opHINT then [(48, 19)]
  else if fOpcode w = opMMA then [(48, 68)]
  else if fOpcode w = opWLOAD then [(48, 49)]
  else if fOpcode w = opDRAIN then [(48, 45)]
  else if fOpcode w = opVOP then [(48, 70)]
  else if fOpcode w = opMOVE then [(48, 80)]
  else if fOpcode w = opGATHER then [(48, 73)]
  else if fOpcode w = opIMLOAD then [(48, 65)]
  else if fOpcode w = opSVCREAD then [(48, 80)]
  else []

/-- Bits [127:45] of the word outside the fields of its row. -/
def unusedBits (w : Nat) : Nat := bits ((usedBits w).foldl (fun v f => setBits v f.1 f.2 0) w) 45 83

/-- The engines that may issue an opcode (R426), by engine code 0–7. -/
def opEngines (op e : Nat) : Bool :=
  if op ≤ 6 then true
  else if op = opHINT then e == 7
  else if op = opMMA ∨ op = opWLOAD ∨ op = opSWAP ∨ op = opDRAIN then e < 4
  else if op = opVOP then e == 4
  else if op = opMOVE ∨ op = opGATHER ∨ op = opIMLOAD ∨ op = opSVCREAD then e == 5 || e == 6
  else false

/-- The FUNC codes of R427 with their format and width limits. -/
def vopLegal (w : Nat) : Bool :=
  let f := fFunc w
  fVWidth w ≤ 2 &&
  (if f = 0x0E then fVFmt w ≤ 3
   else if f ≤ 0x0F then true
   else if f = 0x10 then fVFmt w ≤ 4
   else if f = 0x11 then fVFmt w ≤ 6
   else if f = 0x24 then fVFmt w ≤ 4
   else (0x20 ≤ f && f ≤ 0x25) || f == 0x30 || f == 0x31 || f == 0x40)

/-- Every field lies in the range its row states (R95, R101, R123, R135, R137, R427). -/
def fieldsLegal (w : Nat) : Bool :=
  let op := fOpcode w
  if op = opSHEETEND then fDeadline w ≤ 1048576
  else if op = opLOOP then 1 ≤ fLoopM w && 1 ≤ fLoopT w && 1 ≤ fLoopBody w
  else if op = opMMA then fMode w ≤ 6 && fAFmt w ≤ 6 && 1 ≤ fStride w && 1 ≤ fN w && fN w ≤ 128 && fR0 w + fN w ≤ 128
  else if op = opWLOAD then fWlFmt w ≤ 6 && 1 ≤ fWlK w && fWlK w ≤ 128 && (fWlFmt w ≤ 4 || fWlK w % 16 == 0)
  else if op = opDRAIN then 1 ≤ fDrRows w && fDrRows w ≤ 128 && fDrRow w + fDrRows w ≤ 128
  else if op = opVOP then vopLegal w
  else if op = opMOVE then fMvSpace w ≤ 2 && 1 ≤ fMvLen w
  else if op = opGATHER then fGaSpace w ≤ 2
  else if op = opIMLOAD then 1 ≤ fImLen w && fImLen w ≤ 256 && fImEng w ≤ 7 && fImOff w + fImLen w ≤ 256
  else true

/-- An operation that an engine of a core may issue as encoded; anything else halts it with ILLEGAL_OP (R426, R427). -/
def opLegal (e w : Nat) : Bool :=
  opEngines (fOpcode w) e && fWaitK w ≤ 2 && fSigK w ≤ 2 && unusedBits w == 0 &&
  (fWSpace w == 1 || fWSlot w ≤ 63) && (fSSpace w == 1 || fSSlot w ≤ 63) && fieldsLegal w

/-! ### Die-level operations (R428) -/

def opIDLE : Nat := 0x80
def opSEND : Nat := 0x81
def opFWD : Nat := 0x82
def opMCAST : Nat := 0x83
def opOUTSET : Nat := 0x84
def opDELIVER : Nat := 0x88
def opHOLD : Nat := 0x89
def opREPEAT : Nat := 0x8F
def opTREAD : Nat := 0x40
def opTWRITE : Nat := 0x41

def fChan (w : Nat) : Nat := bits w 8 8
def fFirst (w : Nat) : Nat := bits w 16 19
def fCount (w : Nat) : Nat := bits w 35 19
def fKind (w : Nat) : Nat := bits w 54 4
def fSAddr (w : Nat) : Nat := bits w 58 35
def fStep (w : Nat) : Int := toSigned 10 (bits w 93 10)
def fTok (w : Nat) : Nat := bits w 103 7
def fTokTab (w : Nat) : Nat := bits w 110 1
def fTokVal (w : Nat) : Nat := bits w 111 16
def fInChan (w : Nat) : Nat := bits w 58 8
def fK (w : Nat) : Nat := bits w 66 10
def fMask (w : Nat) : Nat := bits w 16 64
def fBack (w : Nat) : Nat := bits w 16 12
def fRuns (w : Nat) : Nat := bits w 28 20
def fTFirst (w : Nat) : Nat := bits w 16 18
def fTCount (w : Nat) : Nat := bits w 34 18
def fTAddr (w : Nat) : Nat := bits w 52 36
def fTStep (w : Nat) : Int := toSigned 12 (bits w 88 12)

end Sys2Proof.Machine
end

