-- ==== Sys2Proof/Machine/Halt.lean ====
section
/-! DEFINITION. Engine halts with their reason codes and faults (R110–R112), the pipeline snapshot (R380, R381), and the token slots of
cores and cluster stores (R87, R89). -/

namespace Sys2Proof.Machine

/-! ### Reason codes (R112) -/

def rsEND : Nat := 0x0001
def rsHOSTHALT : Nat := 0x0002
def rsJOBHALT : Nat := 0x0003
def rsTEARDOWN : Nat := 0x0004
def rsDEADLINE : Nat := 0x0005
def rsILLEGAL : Nat := 0x0010
def rsOVERRUN : Nat := 0x0011
def rsLOOPDEPTH : Nat := 0x0012
def rsUNPOSTED : Nat := 0x0020
def rsOVERWRITE : Nat := 0x0021
def rsSLOTINVALID : Nat := 0x0022
def rsBARMASK : Nat := 0x0023
def rsADDR : Nat := 0x0030
def rsINDEX : Nat := 0x0031
def rsDESC : Nat := 0x0032
def rsIMEMUE : Nat := 0x0040
def rsDATAUE : Nat := 0x0041

/-- The sticky bit that a reason sets on the engine's record (R116), if any. -/
def reasonBit (r : Nat) : Option Nat :=
  if r = rsDEADLINE then some ErrBit.ENG.HUNG
  else if r = rsILLEGAL then some ErrBit.ENG.ILLEGAL_OP
  else if r = rsUNPOSTED then some ErrBit.ENG.TOKEN_UNPOSTED_READ
  else if r = rsOVERWRITE then some ErrBit.ENG.TOKEN_OVERWRITE
  else if r = rsINDEX then some ErrBit.ENG.INDEX_RANGE
  else if r = rsIMEMUE then some ErrBit.ENG.IMEM_UNCORRECTABLE
  else none

/-- The fault class that a reason raises in a job (R112); 0 for none. -/
def reasonClass (r : Nat) : Nat :=
  if r = rsIMEMUE ∨ r = rsDATAUE then clsUncorrectable
  else if r = rsHOSTHALT ∨ (5 ≤ r ∧ r ≤ rsDATAUE) then clsHung
  else 0

/-! ### Token slots (R87, R89, R113, R119): `sp` 0 is the core's table, 1 the cluster store's -/

def tokPage (n sp : Nat) : Nat := if sp = 0 then corPage (engCluster n) (engCoreOf n) else storePage (engCluster n)
def fPosted (pg sp i : Nat) : Field := if sp = 0 then Reg.COR.TOK_COUNT_POSTED pg i else Reg.STORE.TOK_COUNT_POSTED pg i
def fReleased (pg sp i : Nat) : Field := if sp = 0 then Reg.COR.TOK_COUNT_RELEASED pg i else Reg.STORE.TOK_COUNT_RELEASED pg i
def tokBase (s : Block) (pg sp i : Nat) : Nat := 1024 *
  (if sp = 0 then rd s (Reg.COR.TOK_REGION_BASE pg i) else rd s (Reg.STORE.TOK_REGION_BASE pg i))
def tokLen (s : Block) (pg sp i : Nat) : Nat := 1024 *
  (if sp = 0 then rd s (Reg.COR.TOK_REGION_LEN pg i) else rd s (Reg.STORE.TOK_REGION_LEN pg i))
def tokSpace (s : Block) (pg sp i : Nat) : Nat := if sp = 0 then rd s (Reg.COR.TOK_REGION_SPACE pg i) else 2
/-- A slot in use: VALID, with a length other than 0. -/
def tokValid (s : Block) (pg sp i : Nat) : Bool :=
  (if sp = 0 then flag s (Reg.COR.TOK_REGION_VALID pg i) else flag s (Reg.STORE.TOK_REGION_VALID pg i)) && tokLen s pg sp i != 0
def tokFull (s : Block) (pg sp i : Nat) : Bool := rd s (fPosted pg sp i) != rd s (fReleased pg sp i)
def tokCount (sp : Nat) : Nat := if sp = 0 then 64 else 128

/-! ### The pipeline snapshot (R381) -/

/-- Progress of an operation in flight: units done since it issued, at its pace. -/
def InFlight.progress (x : InFlight) (cycle : Nat) : Nat := if x.per = 0 then 0 else (cycle - x.start) / x.per

def InFlight.entry (x : InFlight) (cycle : Nat) : List Byte :=
  natLe 16 x.word ++ natLe 2 x.addr ++ natLe 1 x.bank ++ natLe 1 (if cycle < x.readyAt then 2 else 3) ++
  natLe 4 (min (x.progress cycle) 0xFFFFFFFF) ++ zeros 8

def LoopFrame.entry (l : LoopFrame) : List Byte :=
  natLe 2 l.first ++ natLe 2 l.last ++ natLe 2 l.bound ++ natLe 2 l.time ++ natLe 2 l.count ++ natLe 2 l.done ++ natLe 4 l.release

/-- The progress of the oldest operation of a kind in flight. -/
def progressOf (e : Engine) (cycle op : Nat) : Nat :=
  match e.inflight.find? (fun x => fOpcode x.word == op) with
  | some x => x.progress cycle
  | none => 0

/-- The operand word of the oldest operation of a kind in flight, 0 without one. -/
def wordOf (e : Engine) (op : Nat) : Nat :=
  match e.inflight.find? (fun x => fOpcode x.word == op) with
  | some x => x.word
  | none => 0

/-- The kind-specific part, from 0x500. -/
def snapKind (s : Block) (n : Nat) : List Byte :=
  let e := eng s n
  let b := engBlock n
  if n < 768 then
    let cyc := (clus s (n / 48)).cycle
    if n % 8 < 4 then
      natLe 1 (rd s (Reg.MX.ARRAY_STATUS_SHADOW b)) ++ natLe 1 (min 128 (progressOf e cyc opWLOAD)) ++ zeros 2 ++
      natLe 2 (progressOf e cyc opMMA) ++ natLe 1 (fHalf (wordOf e opMMA)) ++ zeros 1 ++
      natLe 2 (progressOf e cyc opDRAIN) ++ natLe 1 (fDrHalf (wordOf e opDRAIN)) ++ natLe 1 (rd s (Reg.MX.ARRAY_STATUS_HEAVY_NOW b))
    else if n % 8 = 5 ∨ n % 8 = 6 then
      natLe 1 (fGaDesc (wordOf e opGATHER)) ++ zeros 3 ++ natLe 4 (progressOf e cyc opGATHER) ++ natLe 4 (256 * progressOf e cyc opMOVE)
    else if n % 8 = 7 then
      let pg := corPage (n / 48) (n % 48 / 8)
      natLe 2 ((List.range 16).foldl (fun m i => if rd s (Reg.COR.BAR_STATE_ARRIVED pg i) = 0 then m else setBit m i true) 0) ++
      natLe 1 (rd s (Reg.SY.HINT_LAST_COUNT b)) ++ zeros 1
    else []
  else if engIsSlot n then
    natLe 4 e.lastTick ++ ((e.repeats.take 4).flatMap (fun r => natLe 4 r.2))
  else if engIsTier n then
    let u := unit s (n - 782)
    natLe 2 (e.lastTick % 1024) ++ natLe 2 u.kv.length ++ natLe 2 u.hostq.length
  else if n = engHBE then natLe 4 s.hdb.next
  else natLe 4 s.serv.itemNow

/-- The live pipeline of an engine: 2 KiB in the layout of R381. -/
def snapLive (s : Block) (n : Nat) (abandoned : Bool) : List Byte :=
  let e := eng s n
  let b := engBlock n
  let cyc := if n < 768 then (clus s (n / 48)).cycle else sched s
  let st := rd s (Reg.ENG.STATE_STATE b) + 8 * rd s (Reg.ENG.STATE_ACTIVE_BANK b) + 16 * waitKindOf s n +
    256 * rd s (Reg.ENG.STATE_WAIT_SLOT b)
  let wk := waitKindOf s n
  let ws := rd s (Reg.ENG.STATE_WAIT_SLOT b)
  let sp := fWSpace e.awaited
  let observed := if wk = 1 then rd s (fPosted (tokPage n sp) sp ws) else if wk = 2 then rd s (fReleased (tokPage n sp) sp ws) else 0
  let head := natLe 4 0x50414E53 ++ natLe 1 (engCode n) ++ natLe 1 (engClusterByte n) ++ natLe 1 (engCoreByte n) ++
    natLe 1 (4 * b2n abandoned) ++ natLe 8 (now s) ++ natLe 4 st ++ natLe 4 (rd s (Reg.ENG.NEXT_OP b)) ++
    natLe 4 (rd s (Reg.ENG.HALT_REASON b)) ++
    natLe 4 (rd s (Reg.ENG.HALT_ADDR_ADDR b) + 65536 * rd s (Reg.ENG.HALT_ADDR_BANK b)) ++
    natLe 8 (if n < 768 then e.issued else sched s) ++ zeros 24
  let part2 := slice (e.loops.flatMap LoopFrame.entry) 0 64 ++ (List.range 8).flatMap (fun i => natLe 4 (rd s (Reg.ENG.CNT b i))) ++
    natLe 1 wk ++ natLe 1 ws ++ zeros 2 ++ natLe 2 (if wk = 1 ∨ wk = 2 then fWVal e.awaited else 0) ++ natLe 2 observed ++ zeros 88
  let flight := slice ((e.inflight.take 32).flatMap (fun x => x.entry cyc)) 0 1024
  head ++ part2 ++ flight ++ slice (snapKind s n) 0 768

/-- What a read of the snapshot returns (R380): the live pipeline of a HALTED engine, else the last one captured, STALE; zero
with NEVER set where none was captured since the module reset. -/
def snapshotRead (s : Block) (n : Nat) : List Byte :=
  if engState s n = 4 then snapLive s n false
  else
    let old := (eng s n).snapshot
    if old = [] then zeros 7 ++ natLe 1 3 ++ zeros 2040
    else old.set 7 (BitVec.ofNat 8 (setBit ((old.getD 7 0).toNat) 0 true))

/-- The snapshot captured (R380). -/
def capture (s : Block) (n : Nat) (abandoned : Bool) : Block :=
  setEng s n { eng s n with snapshot := snapLive s n abandoned }

/-! ### The halt (R110, R111) -/

/-- An engine halts with a reason at an operation address. An engine already halted keeps its reason (R112). -/
def halt (s : Block) (n reason addr : Nat) : Block :=
  let b := engBlock n
  if engState s n = 4 then s
  else
    let s := wr s (Reg.ENG.STATE_STATE b) 4
    let s := wr s (Reg.ENG.HALT_REASON b) reason
    let s := wr (wr s (Reg.ENG.HALT_ADDR_ADDR b) addr) (Reg.ENG.HALT_ADDR_BANK b) (rd s (Reg.ENG.STATE_ACTIVE_BANK b))
    let s := wr s (Reg.ENG.HALT_TIME b) (now s)
    let s := capture s n false
    let s := match reasonBit reason with
      | some i => raise s (engRec n) i
      | none => s
    let s := when (n < 768 && (reason == rsHOSTHALT || (5 ≤ reason && reason ≤ rsDATAUE)))
      (fun t => raisePage t (corPage (engCluster n) (engCoreOf n)) ErrBit.COR.ENGINE_HALTED) s
    if engInJob s n ∧ reasonClass reason ≠ 0 then faultEng s (reasonClass reason) n reason addr else s

/-- A halt at the engine's next operation (R110): job halt, teardown, host request, watchdog. -/
def haltNext (s : Block) (n reason : Nat) : Block := halt s n reason (rd s (Reg.ENG.NEXT_OP (engBlock n)))

/-! ### Posts and releases (R89, R91, R108) -/

/-- POSTED + 1; a release held for this slot is then applied. -/
def postSlot (s : Block) (pg sp i : Nat) : Block :=
  let s := incMod s (fPosted pg sp i) 1
  let key := pg + 4 * i
  match Tab.get s.heldReleases 0 key with
  | 0 => s
  | m + 1 => incMod { s with heldReleases := Tab.put s.heldReleases 0 key m } (fReleased pg sp i) 1

/-- RELEASED + 1. -/
def releaseSlot (s : Block) (pg sp i : Nat) : Block := incMod s (fReleased pg sp i) 1

/-- The release of a race: held while the slot is not posted (R108). -/
def releaseRace (s : Block) (pg sp i : Nat) : Block :=
  if tokFull s pg sp i then releaseSlot s pg sp i
  else { s with heldReleases := Tab.put s.heldReleases 0 (pg + 4 * i) (Tab.get s.heldReleases 0 (pg + 4 * i) + 1) }

/-- What a cluster keeps of a store slot's last post, for races: the core it came from (0 for a delivery), and its tick (R108, R109). -/
def notePoster (s : Block) (c sp i core : Nat) : Block :=
  if sp = 1 then
    setClus s c { clus s c with
      posters := Tab.put (clus s c).posters 0 i core, postTimes := Tab.put (clus s c).postTimes 0 i (now s) }
  else s

/-- A post made in a region enters crossing class 0, and stands in the plan domain that crossing's latency later (R71, R92). -/
def crossPost (s : Block) (c pg sp i : Nat) : Block :=
  setClus s c { clus s c with crossing := (clus s c).crossing ++ [(rd s (Reg.TBS.XING_LAT_CAL 0), pg, sp, i)] }

/-- A member of a race whose slot is consumed before it posts has lost; that is counted as it posts, when its core is known (R109) (DEDUCED, log entry 20). -/
def noteLoser (s : Block) (n pg sp i : Nat) : Block :=
  when (sp == 1 && Tab.get s.heldReleases 0 (pg + 4 * i) != 0)
    (fun t => incSat t (Reg.COR.RACE_LOSSES (corPage (engCluster n) (engCoreOf n))) 1) s

/-- POSTED of a slot as a departure of this tick sees it: without the posts that still cross (R92). -/
def planPosted (s : Block) (c pg sp i : Nat) : Nat :=
  (rd s (fPosted pg sp i) + 65536 -
    ((clus s c).crossing.filter (fun x => x.2.1 == pg && x.2.2.1 == sp && x.2.2.2 == i)).length % 65536) % 65536

/-- The post or release an operation carries, made at its completion (DEDUCED, log entry 23). -/
def signal (s : Block) (n w : Nat) : Block :=
  let sp := fSSpace w
  let pg := tokPage n sp
  let i := fSSlot w
  if fSigK w = 1 then
    let s := postSlot (noteLoser s n pg sp i) pg sp i
    crossPost (notePoster s (engCluster n) sp i (engCoreOf n + 1)) (engCluster n) pg sp i
  else if fSigK w = 2 then releaseSlot s (tokPage n sp) sp (fSSlot w)
  else s

end Sys2Proof.Machine
end

