-- ==== Sys2Proof/Machine/Issue.lean ====
section
/-! DEFINITION. Issue and completion of core-engine operations (R83, R84, R89, R90, R100–R103, R110): fetching the next operation,
its waits, the access checks, loops, and what completes in issue order. -/

namespace Sys2Proof.Machine

/-! ### Spaces: 0 WSP, 1 ASP, 2 cluster store (R163) -/

def spaceSize (sp : Nat) : Nat := if sp = 0 then 0x400000 else if sp = 1 then 0x200000 else 0x1800000

/-- The device address of a byte of an engine's own space (R163). -/
def spaceAddr (n sp a : Nat) : Nat :=
  if sp = 0 then 0x80040000000 + (engCluster n * 6 + engCoreOf n) * 0x800000 + a
  else if sp = 1 then 0x80040000000 + (engCluster n * 6 + engCoreOf n) * 0x800000 + 0x400000 + a
  else 0x80000000000 + engCluster n * 0x2000000 + a

/-- An access of an operation: a space (3 for a device address), a first byte, a length, whether it writes; of a weight-relative
device address (R299, R427), the amount that the weight pointer added. -/
structure Access where
  sp : Nat
  lo : Nat
  len : Nat
  wr : Bool
  rel : Option Nat := none
deriving DecidableEq, Repr

/-- The device address range of an access. -/
def Access.dev (x : Access) (n : Nat) : Nat := if x.sp = 3 then x.lo else spaceAddr n x.sp x.lo

/-- The space a device address lies in, where it is SRAM of the engine's own core or cluster (R163). -/
def localOf (n a : Nat) : Option (Nat × Nat) :=
  if spaceAddr n 0 0 ≤ a ∧ a < spaceAddr n 0 0 + spaceSize 0 then some (0, a - spaceAddr n 0 0)
  else if spaceAddr n 1 0 ≤ a ∧ a < spaceAddr n 1 0 + spaceSize 1 then some (1, a - spaceAddr n 1 0)
  else if spaceAddr n 2 0 ≤ a ∧ a < spaceAddr n 2 0 + spaceSize 2 then some (2, a - spaceAddr n 2 0)
  else none

/-- [a, a + len) lies within one device range the ream declares (R112, R419). -/
def inRanges (s : Block) (a len : Nat) : Bool :=
  (ream s).ranges.any (fun r => r.use != 1 && r.base ≤ a && a + len ≤ r.base + r.len)

/-- A weight-relative access lies within the layout that a use-1 range describes, before the weight pointer is added (R419). -/
def inWeights (s : Block) (a len : Nat) : Bool :=
  (ream s).ranges.any (fun r => r.use == 1 && r.base ≤ a && a + len ≤ r.base + r.len)

/-- The reason that the token check gives for one slot and one access (R90). -/
def tokenCause (s : Block) (n w sp i : Nat) (x : Access) : List Nat :=
  let pg := tokPage n sp
  let named := fWSpace w == sp && fWSlot w == i
  if tokValid s pg sp i ∧ tokSpace s pg sp i = x.sp ∧ tokBase s pg sp i < x.lo + x.len ∧ x.lo < tokBase s pg sp i + tokLen s pg sp i then
    if x.wr then (if tokFull s pg sp i && !(named && fWaitK w == 2) then [rsOVERWRITE] else [])
    else (if !tokFull s pg sp i && !(named && fWaitK w == 1) then [rsUNPOSTED] else [])
  else []

/-- Every reason that an access of an operation gives: token checks, address range, uncorrectable operand (R90, R112). -/
def accessCauses (s : Block) (n w : Nat) (x : Access) : List Nat :=
  let local_ := if x.sp = 3 then localOf n x.lo else some (x.sp, x.lo)
  let tok := match local_ with
    | none => []
    | some (sp, lo) =>
      let t := if sp = 2 then 1 else 0
      (List.range (tokCount t)).flatMap (fun i => tokenCause s n w t i { x with sp := sp, lo := lo })
  let range := match local_ with
    | none => if (match x.rel with | none => inRanges s x.lo x.len | some p => inWeights s (x.lo - p) x.len) then [] else [rsADDR]
    | some (sp, lo) => if lo + x.len ≤ spaceSize sp then [] else [rsADDR]
  let ue := if !x.wr && poisoned s (x.dev n) x.len then [rsDATAUE] else []
  if x.len = 0 then [] else tok ++ range ++ ue

/-- The lowest code of a list (R112). -/
def lowest (l : List Nat) : Option Nat :=
  match l with
  | [] => none
  | a :: r => some (r.foldl min a)

/-! ### The next operation -/

/-- The 16 bytes at an operation address of a bank, as one number (R83) (DEDUCED, log entry 23). -/
def fetchWord (s : Block) (n bank a : Nat) : Nat := leNat (imemRead s ((2 * n + bank) * 65536 + a) 16)

/-- That operation holds an uncorrectable error (R100) (DESIGN CHOICE, log entry 24). -/
def fetchBad (s : Block) (n bank a : Nat) : Bool := imemBad s ((2 * n + bank) * 65536 + a) 16

def activeBank (s : Block) (n : Nat) : Nat := rd s (Reg.ENG.STATE_ACTIVE_BANK (engBlock n))
def nextOp (s : Block) (n : Nat) : Nat := rd s (Reg.ENG.NEXT_OP (engBlock n))
def cycleOf (s : Block) (n : Nat) : Nat := (clus s (engCluster n)).cycle
/-- That operation holds a correctable error (R100). -/
def fetchSoft (s : Block) (n bank a : Nat) : Bool := imemSoftAt s ((2 * n + bank) * 65536 + a) 16
/-- The cycle in which an engine issues its next operation in this tick: the first in which it has issued none (R84) (DESIGN CHOICE, log entry 22). -/
def issueAt (s : Block) (n : Nat) : Nat := max (eng s n).nextIssue (clus s (engCluster n)).firstCycle

/-- The engine waits, with what its wait shows (R85, R115). -/
def setWait (s : Block) (n kind slot : Nat) : Block :=
  let b := engBlock n
  wr (wr (wr s (Reg.ENG.STATE_STATE b) 3) (Reg.ENG.STATE_WAIT_KIND b) kind) (Reg.ENG.STATE_WAIT_SLOT b) slot

/-- The engine runs, waiting for nothing. -/
def setRunning (s : Block) (n : Nat) : Block :=
  let b := engBlock n
  wr (wr (wr s (Reg.ENG.STATE_STATE b) 2) (Reg.ENG.STATE_WAIT_KIND b) 0) (Reg.ENG.STATE_WAIT_SLOT b) 0

/-- The innermost loops that end at an operation: repeat, or close with their pad (R101, R102). The fuel is the nesting depth. -/
def closeLoops : Nat → List LoopFrame → Nat → Nat → List LoopFrame × Nat × Nat
  | 0, ls, last, pad => (ls, last + 16, pad)
  | f + 1, ls, last, pad =>
    match ls.getLast? with
    | none => (ls, last + 16, pad)
    | some l =>
      if l.last = last then
        if l.done + 1 < l.count then (ls.dropLast ++ [{ l with done := l.done + 1 }], l.first, pad)
        else closeLoops f ls.dropLast last (max pad l.release)
      else (ls, last + 16, pad)

/-- NEXT_OP after an operation that ends at `last`, the loops it closes, and the pad it may begin. -/
def advance (s : Block) (n last : Nat) : Block :=
  let b := engBlock n
  let e := eng s n
  let r := closeLoops 4 e.loops last 0
  let s := setEng s n { e with loops := r.1, padUntil := max e.padUntil r.2.2 }
  let s := wr (wr s (Reg.ENG.NEXT_OP b) r.2.1) (Reg.ENG.LOOP_STATE b) r.1.length
  if max e.padUntil r.2.2 > cycleOf s n then setWait s n 5 0 else s

/-- An issued operation enters the pipeline; it reads its operands in `units` steps (DESIGN CHOICE, log entry 22). -/
def pushUnits (s : Block) (n w a per readyAt units : Nat) (eff : Effect) : Block :=
  let e := eng s n
  setEng s n { e with
    inflight := e.inflight ++ [⟨w, a, activeBank s n, issueAt s n, per, readyAt, units, 0, eff⟩], issued := e.issued + 1,
    nextIssue := issueAt s n + 1 }
/-- An operation that reads all its operands in the cycle it issues in (DESIGN CHOICE, log entry 22). -/
def push (s : Block) (n w a per readyAt : Nat) (eff : Effect) : Block := pushUnits s n w a per readyAt 0 eff

/-- What one step of an operation in flight reads: the module and the effect after it. -/
abbrev UnitFn := Block → Nat → InFlight → Nat → Block × Effect

/-- Steps of an operation, one after the other. -/
def reachSteps (f : UnitFn) (n : Nat) : List Nat → Block → InFlight → Block × InFlight
  | [], s, x => (s, x)
  | i :: r, s, x => reachSteps f n r (f s n x i).1 { x with effect := (f s n x i).2, done := i + 1 }

/-- How many steps an operation has reached by now: one in its first cycle, and one more every `per` cycles (R84). -/
def InFlight.goal (x : InFlight) (cycle : Nat) : Nat := min x.units (1 + (cycle - x.start) / max 1 x.per)

/-- The k-th operation in flight reads what it reaches by now (R84): what an earlier operation wrote, if that has completed, else
the bytes as they stood (DESIGN CHOICE, log entry 22). -/
def reachOp (f : UnitFn) (n k : Nat) (s : Block) : Block :=
  match (eng s n).inflight[k]? with
  | none => s
  | some x =>
    let r := reachSteps f n ((List.range (x.goal (cycleOf s n) - x.done)).map (x.done + ·)) s x
    setEng r.1 n { eng r.1 n with inflight := (eng r.1 n).inflight.set k r.2 }

/-- An issued operation that reads over several cycles enters the pipeline, and takes its first step. -/
def pushReads (s : Block) (n w a per readyAt units : Nat) (eff : Effect) (f : UnitFn) : Block :=
  reachOp f n (eng s n).inflight.length (pushUnits s n w a per readyAt units eff)

/-- A wait or signal that names a slot not in use (R112). -/
def slotInvalid (s : Block) (n w : Nat) : Bool :=
  (fWaitK w != 0 && !tokValid s (tokPage n (fWSpace w)) (fWSpace w) (fWSlot w)) ||
  (fSigK w != 0 && !tokValid s (tokPage n (fSSpace w)) (fSSpace w) (fSSlot w))

/-- The wait an operation names is satisfied (R89). -/
def waitOk (s : Block) (n w : Nat) : Bool :=
  if fWaitK w = 1 then atLeast16 (rd s (fPosted (tokPage n (fWSpace w)) (fWSpace w) (fWSlot w))) (fWVal w)
  else if fWaitK w = 2 then atLeast16 (rd s (fReleased (tokPage n (fWSpace w)) (fWSpace w) (fWSlot w))) (fWVal w)
  else true

/-- The wait of a race's consumer (R108): either member's slot is posted. -/
def waitOkRace (s : Block) (n w : Nat) (partner : Option Nat) : Bool :=
  waitOk s n w || (match partner with
    | some p => fWaitK w == 1 && fWSpace w == 1 && atLeast16 (rd s (fPosted (tokPage n 1) 1 p)) (fWVal w)
    | none => false)

/-- The engine can issue: RUNNING, no reset asked for, its region not stopped, and in a cycle of its own (R72, R84, R330) (DEDUCED, log
entry 23) (DEDUCED, log entry 23). -/
def canIssue (s : Block) (n : Nat) : Bool :=
  engState s n == 2 && (eng s n).resetBy == 0 && !flag s (Reg.CLK.FREQ_NOW_STOPPED (clkPage (engCluster n))) &&
  decide (issueAt s n ≤ cycleOf s n)

/-- Issue of the next operation, when it is the one that a command names: `sel` recognises it, `busy` says that its unit or its
half holds it back, `causes` lists the halts found in it, and `go` is its issue (advance included) (DESIGN CHOICE, log entry 2). A correctable
error in the operation is noted, whatever follows (R100). -/
def tryIssue (s : Block) (n : Nat) (sel : Nat → Bool) (ok : Nat → Bool) (busy : Nat → Bool) (causes : Nat → List Nat)
    (go : Nat → Block) : Block :=
  let a := nextOp s n
  let w := fetchWord s n (activeBank s n) a
  let seen := when (fetchSoft s n (activeBank s n) a) (fun t => raise t (engRec n) ErrBit.ENG.IMEM_CORRECTED)
  if !canIssue s n then s
  else if rd s (Reg.ENG.ACTIVE_LEN (engBlock n)) ≤ a then halt s n rsOVERRUN a
  else if fetchBad s n (activeBank s n) a then halt s n rsIMEMUE a
  else if !opLegal (engKind n) w then halt s n rsILLEGAL a
  else if !sel w then s
  else if slotInvalid s n w then seen (halt s n ((lowest (rsSLOTINVALID :: causes w)).getD rsSLOTINVALID) a)
  else if !ok w then seen (setWait (setEng s n { eng s n with awaited := w }) n (fWaitK w) (fWSlot w))
  else if busy w then s
  else match lowest (causes w) with
    | some r => seen (halt s n r a)
    | none => seen (go w)

/-- The common case: the operation's own wait, no unit to be free (DESIGN CHOICE, log entry 22). -/
def issueOp (s : Block) (n op : Nat) (causes : Nat → List Nat) (go : Nat → Block) : Block :=
  tryIssue s n (fun w => fOpcode w == op) (waitOk s n) (fun _ => false) causes go

/-- An operation that completes the cycle after it issues, with its writes. -/
def goSimple (s : Block) (n w : Nat) (eff : Effect) : Block :=
  advance (push s n w (nextOp s n) 1 (issueAt s n + 1) eff) n (nextOp s n)

/-! ### Completion (R84) -/

/-- Writes that become visible, by device address (DESIGN CHOICE, log entry 22). -/
def applyWrites (s : Block) : List (Nat × List Byte) → Block
  | [] => s
  | (a, bs) :: r => applyWrites (devWrite s a bs) r

/-- The oldest operation in flight. -/
def oldest (s : Block) (n : Nat) : Option InFlight := (eng s n).inflight.head?

/-- The oldest operation leaves the pipeline. -/
def popOldest (s : Block) (n : Nat) : Block := setEng s n { eng s n with inflight := (eng s n).inflight.tail }

/-- The oldest operation completes if it is due and `ok` admits it: its effect, then its post or release (DESIGN CHOICE, log entry 2; DESIGN CHOICE, log entry 22). -/
def completeIf (s : Block) (n : Nat) (ok : InFlight → Bool) (apply : InFlight → Block → Block) : Block :=
  match oldest s n with
  | none => s
  | some x =>
    if x.readyAt ≤ cycleOf s n ∧ ok x then signal (apply x (popOldest s n)) n x.word else s

/-! ### Own operations of every core engine -/

def doNop (s : Block) (n : Nat) : Block := issueOp s n opNOP (fun _ => []) (fun w => goSimple s n w .none)

/-- END: a halt whose own address HALT_ADDR names (R112). -/
def doEnd (s : Block) (n : Nat) : Block := issueOp s n opEND (fun _ => []) (fun _ => halt s n rsEND (nextOp s n))

/-- The other engines selected in the core have completed SHEET_END (R96). -/
def peersDone (s : Block) (n : Nat) : Bool :=
  let pg := corPage (engCluster n) (engCoreOf n)
  (List.range 7).all (fun e => !bit (rd s (Reg.COR.ENGINE_MASK_MASK pg)) e || bit (rd s (Reg.COR.SHEET_DONE_ENGINES pg)) e)

/-- SHEET_END issues; the engine then waits (R94, R96). -/
def doSheetEnd (s : Block) (n : Nat) : Block :=
  issueOp s n opSHEETEND (fun _ => []) (fun w =>
    let alone := (eng s n).inflight.isEmpty
    setWait (goSimple s n w (.sheetEnd (fDeadline w))) n (if engKind n = 7 ∧ alone ∧ !peersDone s n then 7 else 0) 0)

/-- LOOP: the count latched and clamped, the body entered or skipped, the pad fixed (R101, R102). -/
def doLoop (s : Block) (n : Nat) : Block :=
  issueOp s n opLOOP (fun _ => if (eng s n).loops.length ≥ 4 then [rsLOOPDEPTH] else []) (fun w =>
    let a := nextOp s n
    let raw := if fLoopSrc w then rd s (Reg.ENG.CNT (engBlock n) (fLoopReg w)) else fLoopCount w
    let cnt := min raw (fLoopM w)
    let s := when (decide (raw > fLoopM w)) (fun t => raise t (engRec n) ErrBit.ENG.LOOP_CLAMP) s
    let release := issueAt s n + 1 + fLoopM w * fLoopT w
    let last := a + 16 * fLoopBody w
    let s := push s n w a 1 (issueAt s n + 1) .none
    if cnt = 0 then
      advance (setEng s n { eng s n with padUntil := max (eng s n).padUntil release }) n last
    else
      let e := eng s n
      let s := setEng s n { e with loops := e.loops ++ [⟨a + 16, last, fLoopM w, fLoopT w, cnt, 0, release⟩] }
      wr (wr s (Reg.ENG.NEXT_OP (engBlock n)) (a + 16)) (Reg.ENG.LOOP_STATE (engBlock n)) (e.loops.length + 1))

/-- The pad of a loop has passed (R102) (DESIGN CHOICE, log entry 22). -/
def doPadEnd (s : Block) (n : Nat) : Block :=
  let b := engBlock n
  if engState s n = 3 ∧ rd s (Reg.ENG.STATE_WAIT_KIND b) = 5 ∧ (eng s n).padUntil ≤ cycleOf s n then
    setRunning (setEng s n { eng s n with padUntil := 0 }) n
  else s

/-- SETCNT, from the immediate or a scratchpad word (R103). -/
def doSetcnt (s : Block) (n : Nat) : Block :=
  issueOp s n opSETCNT (fun w => if fCntSrc w then accessCauses s n w ⟨fCntSpace w, fCntAddr w, 4, false, none⟩ else []) (fun w =>
    let v := if fCntSrc w then devNum s (spaceAddr n (fCntSpace w) (fCntAddr w)) 4 else fCntImm w
    wr (goSimple s n w .none) (Reg.ENG.CNT (engBlock n) (fCntReg w)) v)

/-- BAR: the arrival is recorded, and the engine waits for the barrier (R93). -/
def doBar (s : Block) (n : Nat) : Block :=
  let pg := corPage (engCluster n) (engCoreOf n)
  issueOp s n opBAR (fun w => if bit (rd s (Reg.COR.BAR_MASK pg (fBarrier w))) (engKind n) then [] else [rsBARMASK]) (fun w =>
    let b := fBarrier w
    let s := goSimple s n w (.bar b)
    setWait (wr s (Reg.COR.BAR_STATE_ARRIVED pg b) (setBit (rd s (Reg.COR.BAR_STATE_ARRIVED pg b)) (engKind n) true)) n 3 b)

/-- A participant has only its BAR in flight, due. -/
def barOnly (s : Block) (n b : Nat) : Bool :=
  match (eng s n).inflight with
  | [x] => (match x.effect with | .bar b' => b' == b | _ => false) && x.readyAt ≤ cycleOf s n
  | _ => false

/-- The engine goes on after a barrier or a swap: it runs, or waits out a loop pad that its operation closed. -/
def resume (s : Block) (n : Nat) : Block :=
  if engState s n = 3 then (if (eng s n).padUntil > cycleOf s n then setWait s n 5 0 else setRunning s n) else s

/-- BARRIER_COMPLETE: every participant has arrived and its earlier operations have completed (R93). -/
def doBarrierComplete (s : Block) (c k b : Nat) : Block :=
  let pg := corPage c k
  let mask := rd s (Reg.COR.BAR_MASK pg b)
  let members := (List.range 8).filter (fun e => bit mask e)
  if mask ≠ 0 ∧ rd s (Reg.COR.BAR_STATE_ARRIVED pg b) = mask ∧ members.all (fun e => barOnly s (engCore c k e) b) then
    let s := overL members (fun e t =>
      let n := engCore c k e
      match oldest t n with
      | some x => resume (signal (popOldest t n) n x.word) n
      | none => t) s
    incMod (wr s (Reg.COR.BAR_STATE_ARRIVED pg b) 0) (Reg.COR.BAR_STATE_GEN pg b) 1
  else s

def doSync (s : Block) (n : Nat) : Block := issueOp s n opSYNC (fun _ => []) (fun w => goSimple s n w .none)

/-- WAIT_SATISFIED: a token wait that now holds (R85), seen at an arithmetic edge, so not while the region is stopped (R92); a waiting next
operation is judged by its own wait. -/
def doWaitSatisfied (s : Block) (n : Nat) : Block :=
  let k := rd s (Reg.ENG.STATE_WAIT_KIND (engBlock n))
  if engState s n = 3 ∧ (k = 1 ∨ k = 2) ∧ !flag s (Reg.CLK.FREQ_NOW_STOPPED (clkPage (engCluster n))) ∧
      waitOkRace s n (eng s n).awaited (eng s n).partner then
    setRunning (setEng s n { eng s n with partner := none }) n
  else s

/-- HINT on SY (R315, R325): a field out of range counts as 0 and sets HINT_RANGE (DEDUCED, log entry 23). -/
def doHint (s : Block) (n : Nat) : Block :=
  issueOp s n opHINT (fun _ => []) (fun w =>
    let b := engBlock n
    let good := decide (fHintCount w ≤ 4 ∧ 256 ≤ fHintLead w)
    let cnt := if good then fHintCount w else 0
    let s := when (!good) (fun t => raise t (engRec n) ErrBit.SY.HINT_RANGE) s
    let s := goSimple s n w .none
    let s := wr (wr s (Reg.SY.HINT_LAST_COUNT b) cnt) (Reg.SY.HINT_LAST_LEAD b) (fHintLead w)
    let c := engCluster n
    let cl := clus s c
    let s := setClus s c { cl with hints := (engCoreOf n, cl.cycle, cnt) :: cl.hints.filter (fun h => h.1 != engCoreOf n) }
    incMod s (Reg.SY.HINTS_SHEET b) 1)

/-! ### Watchdog and host halt (R95, R110–R112) -/

/-- A halt asked from outside: it takes effect only in an engine that runs or waits (R85). -/
def haltIfLive (s : Block) (n reason : Nat) : Block :=
  if engState s n = 2 ∨ engState s n = 3 then haltNext s n reason else s

/-- HALT_REQ accepted (R112, R115). -/
def doHaltReq (s : Block) (n : Nat) : Block := haltIfLive s n rsHOSTHALT

end Sys2Proof.Machine
end

