-- ==== Sys2Proof/Machine/Formats.lean ====
section
/-! DEFINITION. The number formats and the exact arithmetic on them: unpacking, rounding once to nearest even, the vector
functions, the anchored window (R141–R157). -/

namespace Sys2Proof.Machine

/-- The value of an encoding: (−1)^neg · m · 2^e, an infinity, or NaN. -/
inductive Num where
  | fin (neg : Bool) (m : Nat) (e : Int)
  | inf (neg : Bool)
  | nan
deriving DecidableEq, Repr

/-- A floating-point format (R141, R142): field widths, bias; whether the all-ones exponent holds infinities and NaN as in
IEEE 754 (0), holds only the all-ones NaN (1, E4M3), or is an ordinary exponent (2, MX elements). -/
structure Fmt where
  ebits : Nat
  fbits : Nat
  bias : Int
  kind : Nat
deriving DecidableEq, Repr

def fmtFP32 : Fmt := ⟨8, 23, 127, 0⟩
def fmtBF16 : Fmt := ⟨8, 7, 127, 0⟩
def fmtFP16 : Fmt := ⟨5, 10, 15, 0⟩
def fmtE4M3 : Fmt := ⟨4, 3, 7, 1⟩
def fmtE5M2 : Fmt := ⟨5, 2, 15, 0⟩
def fmtE3M2 : Fmt := ⟨3, 2, 3, 2⟩
def fmtE2M1 : Fmt := ⟨2, 1, 1, 2⟩

/-- Bits of an encoding. -/
def Fmt.width (f : Fmt) : Nat := 1 + f.ebits + f.fbits

/-- The format of a code of R141 (INT8 and reserved codes are handled apart). -/
def fmtOf (c : Nat) : Fmt :=
  if c = 0 then fmtBF16 else if c = 1 then fmtFP16 else if c = 2 then fmtE4M3 else if c = 3 then fmtE5M2
  else if c = 5 then fmtE3M2 else fmtE2M1

/-- The value an encoding stands for (R142). -/
def unpack (f : Fmt) (v : Nat) : Num :=
  let neg := bit v (f.ebits + f.fbits)
  let ex := bits v f.fbits f.ebits
  let fr := bits v 0 f.fbits
  let top := 2 ^ f.ebits - 1
  if f.kind = 0 ∧ ex = top then (if fr = 0 then .inf neg else .nan)
  else if f.kind = 1 ∧ ex = top ∧ fr = 2 ^ f.fbits - 1 then .nan
  else if ex = 0 then .fin neg fr (1 - f.bias - f.fbits)
  else .fin neg (fr + 2 ^ f.fbits) ((ex : Int) - f.bias - f.fbits)

/-- m / 2^sh to nearest, ties to even; `tail` says that something below m's last bit is non-zero. -/
def rne (m sh : Nat) (tail : Bool) : Nat :=
  if sh = 0 then m
  else
    let q := m / 2 ^ sh
    let r := m % 2 ^ sh
    let h := 2 ^ (sh - 1)
    if r > h ∨ (r = h ∧ (tail = true ∨ q % 2 = 1)) then q + 1 else q

/-- Number of bits of a number. -/
def bitLen (m : Nat) : Nat := if m = 0 then 0 else Nat.log2 m + 1

/-- The largest finite magnitude code of a format. -/
def Fmt.maxCode (f : Fmt) : Nat :=
  if f.kind = 0 then (2 ^ f.ebits - 1) * 2 ^ f.fbits - 1
  else if f.kind = 1 then 2 ^ (f.ebits + f.fbits) - 2
  else 2 ^ (f.ebits + f.fbits) - 1

/-- The magnitude code of the format value nearest m·2^e (plus a tail below m's last bit), before any overflow rule. -/
def magCode (f : Fmt) (m : Nat) (e : Int) (tail : Bool) : Nat :=
  if m = 0 then 0
  else
    let emin := 1 - f.bias - f.fbits
    let lsb := max (e + (bitLen m : Int) - 1 - f.fbits) emin
    let sh := lsb - e
    let mant := if sh ≤ 0 then m * 2 ^ (-sh).toNat else if sh > 4096 then 0 else rne m sh.toNat tail
    (lsb - emin).toNat * 2 ^ f.fbits + mant

/-- The code with its overflow rule: ±∞ where the format has it, else the largest finite value (R149, R157). -/
def packMag (f : Fmt) (m : Nat) (e : Int) (tail : Bool) : Nat × Bool :=
  let c := magCode f m e tail
  if c ≤ f.maxCode then (c, false)
  else if f.kind = 0 then (f.maxCode + 1, true)
  else (f.maxCode, true)

/-- The sign bit of a format. -/
def signBit (f : Fmt) (neg : Bool) : Nat := if neg then 2 ^ (f.ebits + f.fbits) else 0

/-! ### FP32 results with their flags -/

/-- A vector result: the FP32 code and the flags of R154. -/
structure VRes where
  code : Nat
  invalid : Bool := false
  divzero : Bool := false
  overflow : Bool := false
deriving DecidableEq, Repr

/-- The NaN that VX produces (R154). -/
def nan32 : Nat := 0x7FC00000
def inf32 (neg : Bool) : Nat := if neg then 0xFF800000 else 0x7F800000
def zero32 (neg : Bool) : Nat := if neg then 0x80000000 else 0

/-- A finite exact value (with tail) rounded to FP32; a result that rounds to an infinity sets VX_OVERFLOW. -/
def ret32 (neg : Bool) (m : Nat) (e : Int) (tail : Bool) : VRes :=
  let r := packMag fmtFP32 m e tail
  { code := signBit fmtFP32 neg + r.1, overflow := r.2 }

def num32 (v : Nat) : Num := unpack fmtFP32 v

def Num.isNan : Num → Bool
  | .nan => true
  | _ => false

/-- The exact signed integer (−1)^neg · m · 2^(e − k) for k ≤ e. -/
def scaled (neg : Bool) (m : Nat) (e k : Int) : Int :=
  let v : Int := (m * 2 ^ (e - k).toNat : Nat)
  if neg then -v else v

/-- The sum of two exact values. An exact zero sum is −0 only when both are negative zeros (IEEE 754, to nearest). -/
def addNum (a b : Num) : Num :=
  match a, b with
  | .nan, _ => .nan
  | _, .nan => .nan
  | .inf s, .inf t => if s = t then .inf s else .nan
  | .inf s, _ => .inf s
  | _, .inf t => .inf t
  | .fin s m e, .fin t n g =>
    let k := min e g
    let v := scaled s m e k + scaled t n g k
    if v = 0 then .fin (s && t && m == 0 && n == 0) 0 k
    else .fin (v < 0) v.natAbs k

def negNum : Num → Num
  | .fin s m e => .fin (!s) m e
  | .inf s => .inf (!s)
  | .nan => .nan

def absNum : Num → Num
  | .fin _ m e => .fin false m e
  | .inf _ => .inf false
  | .nan => .nan

def mulNum (a b : Num) : Num :=
  match a, b with
  | .nan, _ => .nan
  | _, .nan => .nan
  | .inf s, .inf t => .inf (s != t)
  | .inf s, .fin t n _ => if n = 0 then .nan else .inf (s != t)
  | .fin s m _, .inf t => if m = 0 then .nan else .inf (s != t)
  | .fin s m e, .fin t n g => .fin (s != t) (m * n) (e + g)

/-- An exact value rounded to FP32; `quiet` says that some operand was NaN, so a NaN result sets no flag (R154). -/
def retNum (n : Num) (quiet : Bool) : VRes :=
  match n with
  | .nan => { code := nan32, invalid := !quiet }
  | .inf s => { code := inf32 s }
  | .fin s m e => ret32 s m e false

def anyNan (l : List Num) : Bool := l.any Num.isNan

def vAdd (a b : Nat) : VRes := retNum (addNum (num32 a) (num32 b)) (anyNan [num32 a, num32 b])
def vSub (a b : Nat) : VRes := retNum (addNum (num32 a) (negNum (num32 b))) (anyNan [num32 a, num32 b])
def vMul (a b : Nat) : VRes := retNum (mulNum (num32 a) (num32 b)) (anyNan [num32 a, num32 b])
/-- a · b + c, rounded once. -/
def vFma (a b c : Nat) : VRes :=
  retNum (addNum (mulNum (num32 a) (num32 b)) (num32 c)) (anyNan [num32 a, num32 b, num32 c])

/-- Division (R153). -/
def vDiv (a b : Nat) : VRes :=
  match num32 a, num32 b with
  | .nan, _ => { code := nan32 }
  | _, .nan => { code := nan32 }
  | .inf _, .inf _ => { code := nan32, invalid := true }
  | .inf s, .fin t _ _ => { code := inf32 (s != t) }
  | .fin s _ _, .inf t => { code := zero32 (s != t) }
  | .fin s m e, .fin t n g =>
    if n = 0 then
      (if m = 0 then { code := nan32, invalid := true } else { code := inf32 (s != t), divzero := true })
    else ret32 (s != t) (m * 2 ^ 64 / n) (e - g - 64) (m * 2 ^ 64 % n != 0)

/-- Reciprocal (R153). -/
def vRecip (a : Nat) : VRes :=
  match num32 a with
  | .nan => { code := nan32 }
  | .inf s => { code := zero32 s }
  | .fin s m e =>
    if m = 0 then { code := inf32 s, divzero := true }
    else ret32 s (2 ^ 64 / m) (-e - 64) (2 ^ 64 % m != 0)

/-- m·2^e with an even exponent. -/
def evenExp (m : Nat) (e : Int) : Nat × Int := if e % 2 = 0 then (m, e) else (m * 2, e - 1)

/-- Square root. −0 gives −0, as IEEE 754 does. -/
def vSqrt (a : Nat) : VRes :=
  match num32 a with
  | .nan => { code := nan32 }
  | .inf s => if s then { code := nan32, invalid := true } else { code := inf32 false }
  | .fin s m e =>
    if m = 0 then { code := zero32 s }
    else if s then { code := nan32, invalid := true }
    else
      let p := evenExp m e
      let x := p.1 * 2 ^ 80
      let r := isqrt x
      ret32 false r (p.2 / 2 - 40) (r * r != x)

/-- Reciprocal square root (R153). −∞ is below zero, so it gives NaN. -/
def vRsqrt (a : Nat) : VRes :=
  match num32 a with
  | .nan => { code := nan32 }
  | .inf s => if s then { code := nan32, invalid := true } else { code := 0 }
  | .fin s m e =>
    if m = 0 then { code := inf32 s, divzero := true }
    else if s then { code := nan32, invalid := true }
    else
      let p := evenExp m e
      let r := isqrt (2 ^ 160 / p.1)
      ret32 false r (-(p.2 / 2) - 80) (r * r * p.1 != 2 ^ 160)

/-- 2^(2^−i) for i = 1, 2, …, in units of 2^−160, by repeated square roots. -/
def exp2Roots : Nat → Nat → List Nat
  | 0, _ => []
  | n + 1, c => let r := isqrt (c * 2 ^ 160); r :: exp2Roots n r

/-- 2^(k / 2^n) in units of 2^−160, from the bits of k < 2^n (DEDUCED, log entry 50). -/
def exp2Frac (n k : Nat) : Nat :=
  ((exp2Roots n (2 * 2 ^ 160)).zip (List.range n)).foldl
    (fun acc p => if bit k (n - 1 - p.2) then acc * p.1 / 2 ^ 160 else acc) (2 ^ 160)

/-- exp2 (R152, R153), correctly rounded: an inexact power of two is irrational, so it is never a tie, and 160 fraction bits
decide it (DEDUCED, log entry 50). -/
def vExp2 (a : Nat) : VRes :=
  match num32 a with
  | .nan => { code := nan32 }
  | .inf s => if s then { code := 0 } else { code := inf32 false }
  | .fin s m e =>
    if m = 0 then { code := 0x3F800000 }
    else if e + (bitLen m : Int) > 8 then
      (if s then { code := 0 } else { code := inf32 false, overflow := true })
    else if e + (bitLen m : Int) < -30 then { code := 0x3F800000 }
    else
      let x := scaled s m e (-60)
      let i := x / 2 ^ 60
      let k := (x % 2 ^ 60).toNat
      if k = 0 then (if i ≥ 128 then { code := inf32 false, overflow := true } else ret32 false 1 i false)
      else ret32 false (exp2Frac 60 k) (i - 160) true

/-- n bits of log2 of y · 2^−256 for y in [1, 2), by repeated squaring (DEDUCED, log entry 50). -/
def log2Frac : Nat → Nat → Nat → Nat
  | 0, _, acc => acc
  | n + 1, y, acc =>
    let q := y * y / 2 ^ 256
    if q ≥ 2 ^ 257 then log2Frac n (q / 2) (2 * acc + 1) else log2Frac n q (2 * acc)

/-- log2 (R152, R153), correctly rounded: the logarithm of what is no power of two is irrational (DEDUCED, log entry 50). -/
def vLog2 (a : Nat) : VRes :=
  match num32 a with
  | .nan => { code := nan32 }
  | .inf s => if s then { code := nan32, invalid := true } else { code := inf32 false }
  | .fin s m e =>
    if m = 0 then { code := inf32 true, divzero := true }
    else if s then { code := nan32, invalid := true }
    else
      let l := bitLen m - 1
      let i : Int := e + l
      if m = 2 ^ l then (if i = 0 then { code := 0 } else ret32 (i < 0) i.natAbs 0 false)
      else
        let v : Int := i * 2 ^ 96 + (log2Frac 96 (m * 2 ^ (256 - l)) 0 : Nat)
        if v ≥ 0 then ret32 false v.toNat (-96) true else ret32 true (v.natAbs - 1) (-96) true

/-- The order of two values that are not NaN; −0 lies below +0 for minimum and maximum (R153). -/
def numLe (a b : Num) : Bool :=
  match a, b with
  | .inf s, .inf t => s || !t
  | .inf s, _ => s
  | _, .inf t => !t
  | .fin s m e, .fin t n g =>
    let k := min e g
    if m = 0 ∧ n = 0 then s || !t else scaled s m e k ≤ scaled t n g k
  | _, _ => false

def vMin (a b : Nat) : VRes :=
  if (num32 a).isNan then (if (num32 b).isNan then { code := nan32 } else { code := b })
  else if (num32 b).isNan then { code := a }
  else if numLe (num32 a) (num32 b) then { code := a } else { code := b }

def vMax (a b : Nat) : VRes :=
  if (num32 a).isNan then (if (num32 b).isNan then { code := nan32 } else { code := b })
  else if (num32 b).isNan then { code := a }
  else if numLe (num32 a) (num32 b) then { code := b } else { code := a }

def vAbs (a : Nat) : VRes := if (num32 a).isNan then { code := nan32 } else { code := a % 2 ^ 31 }
def vNeg (a : Nat) : VRes := if (num32 a).isNan then { code := nan32 } else { code := xor a 0x80000000 }

/-- Equal as numbers: the zeros are equal. -/
def numEq (a b : Num) : Bool :=
  match a, b with
  | .inf s, .inf t => s == t
  | .fin s m e, .fin t n g => let k := min e g; scaled s m e k == scaled t n g k
  | _, _ => false

/-- Less or equal as numbers. -/
def numLeq (a b : Num) : Bool := !a.isNan && !b.isNan && (numEq a b || numLe a b)

/-- The predicate of a compare (R427): 0 equal, 1 less, 2 less or equal, 3 unordered. A predicate above 3 is an illegal
operation and is not evaluated. -/
def cmpHolds (p a b : Nat) : Bool :=
  let x := num32 a
  let y := num32 b
  if p = 0 then numEq x y
  else if p = 1 then numLeq x y && !numEq x y
  else if p = 2 then numLeq x y
  else if p = 3 then x.isNan || y.isNan
  else false

/-- Conversion to FP32 from a code 0–4 of R141: exact (R152). -/
def toFp32 (c v : Nat) : Nat :=
  if c = 4 then
    let i := toSigned 8 v
    signBit fmtFP32 (i < 0) + (packMag fmtFP32 i.natAbs 0 false).1
  else
    match unpack (fmtOf c) v with
    | .nan => nan32
    | .inf s => inf32 s
    | .fin s m e => signBit fmtFP32 s + (packMag fmtFP32 m e false).1

/-- Conversion from FP32 to a code 0–4 of R141 (R157); whether it rounded a finite value to an infinity. -/
def fromFp32 (c v : Nat) : Nat × Bool :=
  if c = 4 then
    match num32 v with
    | .nan => (0, false)
    | .inf s => (if s then 0x80 else 0x7F, false)
    | .fin s m e =>
      let q := if e ≥ 0 then (if e > 64 then 128 else m * 2 ^ e.toNat) else if -e > 4096 then 0 else rne m (-e).toNat false
      let i : Int := if s then -(min q 128 : Nat) else (min q 127 : Nat)
      (ofSigned 8 i, false)
  else
    let f := fmtOf c
    match num32 v with
    | .nan => (if c = 0 then 0x7FC0 else if c = 1 then 0x7E00 else if c = 2 then 0x7F else 0x7E, false)
    | .inf s => (signBit f s + (if f.kind = 0 then f.maxCode + 1 else f.maxCode), false)
    | .fin s m e => let r := packMag f m e false; (signBit f s + r.1, r.2 && f.kind == 0)

/-- Bits of one element of a code of R141. -/
def elemBits (c : Nat) : Nat := if c ≤ 1 then 16 else if c = 5 then 6 else if c = 6 then 4 else 8

/-- An MX block from 32 FP32 lanes: its scale byte and element codes (R157). -/
def mxBlock (c : Nat) (lanes : List Nat) : Nat × List Nat :=
  let f := fmtOf c
  let emax : Int := if c = 5 then 4 else 2
  let ns := lanes.map num32
  if anyNan ns then (0xFF, lanes.map (fun _ => 0))
  else
    let anyInf := ns.any (fun n => match n with | .inf _ => true | _ => false)
    let top := ns.foldl (fun (t : Option Int) n => match n with
      | .fin _ m e => if m = 0 then t else some (max (t.getD (-1000)) (e + (bitLen m : Int) - 1))
      | _ => t) none
    let sb : Int := if anyInf then 254 else match top with
      | none => 0
      | some l => min 254 (max 0 (l - emax + 127))
    (sb.toNat, ns.map (fun n => match n with
      | .fin s m e => signBit f s + (packMag f m (e - (sb - 127)) false).1
      | .inf s => signBit f s + f.maxCode
      | .nan => 0))

/-- Codes packed little-endian, `w` bits each, into bytes (R143). -/
def packCodes (w : Nat) (codes : List Nat) : List Byte :=
  natLe ((codes.length * w + 7) / 8) (codes.foldr (fun c acc => acc * 2 ^ w + c % 2 ^ w) 0)

/-! ### The anchored window (R144–R150) -/

def winMax : Int := 2 ^ 95 - 1
def winMin : Int := -(2 ^ 95)

/-- A value clamped to the window, and whether it was. -/
def clampWin (v : Int) : Int × Bool := if v > winMax then (winMax, true) else if v < winMin then (winMin, true) else (v, false)

/-- An integer shifted right by sh to nearest, ties to even, and whether it was inexact. -/
def shrRne (v : Int) (sh : Nat) : Int × Bool :=
  let m := v.natAbs
  let q := rne m sh false
  (if v < 0 then -(q : Int) else (q : Int), m % 2 ^ sh != 0)

/-- How a contribution enters the window: its integer, whether it was inexact, whether it sets OVF (R145–R147). `ext` marks the
modes whose infinities are ordinary (MINPLUS, MAXPLUS). -/
def enterWin (a : Int) (ext : Bool) (c : Num) : Int × Bool × Bool :=
  match c with
  | .nan => (winMax, false, true)
  | .inf s => (if s then winMin else winMax, false, !ext)
  | .fin s m e =>
    let sh := e - a
    if m = 0 then (0, false, false)
    else if sh ≥ 0 then
      let r := clampWin (scaled s m e a)
      (r.1, false, r.2)
    else if (-sh).toNat > bitLen m + 1 then (0, true, false)
    else
      let q := shrRne (if s then -(m : Int) else (m : Int)) (-sh).toNat
      let r := clampWin q.1
      (r.1, q.2, r.2)

/-- A cell contribution of modes 0–4, exactly (R128). -/
def contribution (mode : Nat) (a w : Num) : Num :=
  if mode = 0 then mulNum a w
  else if mode = 1 then absNum (addNum a (negNum w))
  else if mode = 2 then (let d := addNum a (negNum w); mulNum d d)
  else addNum a w

/-- An anchored value converted to a floating-point output: zero is +0, overflow as R149. Outputs 0 FP32, 1 BF16, 2 FP16,
3 E4M3, 4 E5M2 (R137). -/
def outFmt (o : Nat) : Fmt :=
  if o = 0 then fmtFP32 else if o = 1 then fmtBF16 else if o = 2 then fmtFP16 else if o = 3 then fmtE4M3 else fmtE5M2

def convertWin (o : Nat) (v a : Int) : Nat :=
  let f := outFmt o
  let c := (packMag f v.natAbs a false).1
  if c = 0 then 0 else signBit f (v < 0) + c

/-- Bytes of one value at a transport width code: 96, 64, 32 bits (R150, R151). -/
def widthBytes (w : Nat) : Nat := if w = 0 then 12 else if w = 1 then 8 else 4

/-- The value fits the transport width. -/
def fitsWidth (w : Nat) (v : Int) : Bool :=
  toSigned (8 * widthBytes w) (ofSigned (8 * widthBytes w) v) == v

/-- A raw row (R151): 128 values and the tag; whether some value was not exact at the width. -/
def rawRow (w mode : Nat) (anchor : Int) (ovf : Bool) (under : Nat) (vals : List Int) : List Byte × Bool :=
  let narrow := vals.any (fun v => !fitsWidth w v)
  let n := widthBytes w
  (vals.flatMap (fun v => natLe n (ofSigned (8 * n) v)) ++
    natLe 4 (ofSigned 16 anchor + 2 ^ 16 * w + 2 ^ 18 * mode + 2 ^ 21 * b2n ovf + 2 ^ 22 * b2n narrow) ++
    natLe 4 (min under 0xFFFFFFFF) ++ zeros 8, narrow)

/-- Bytes of a raw row at a width. -/
def rawRowBytes (w : Nat) : Nat := 128 * widthBytes w + 16

/-- A raw row read back: anchor, flagged, values sign-extended (R150, R155). -/
def readRawRow (w : Nat) (bs : List Byte) : Int × Bool × List Int :=
  let n := widthBytes w
  let tag := fieldLe bs (128 * n) 4
  (toSigned 16 (bits tag 0 16), bit tag 21 || bit tag 22,
    (List.range 128).map (fun i => toSigned (8 * n) (fieldLe bs (i * n) n)))

end Sys2Proof.Machine
end

