-- ==== Sys2Proof/Machine/Matrix.lean ====
section
/-! DEFINITION. The matrix arrays: tiles, WLOAD, SWAP, MMA, DRAIN (R120–R138, R145–R151). -/

namespace Sys2Proof.Machine

/-! ### Formats and tiles (R123, R129, R131, R298) -/

/-- The class of an array format: 0 16-bit, 1 8-bit float, 2 integer, 3 MX, 4 reserved. -/
def fmtClass (f : Nat) : Nat := if f ≤ 1 then 0 else if f ≤ 3 then 1 else if f = 4 then 2 else if f ≤ 6 then 3 else 4

/-- The modes a class supports (R129). -/
def modeOk (cls mode : Nat) : Bool :=
  if cls = 3 then mode == 0 else if cls = 2 then mode ≤ 6 else if cls ≤ 1 then mode ≤ 5 else false

/-- Bytes of one row of a tile, scales included (R123, R298). -/
def rowBytes (f : Nat) : Nat := if f ≤ 1 then 256 else if f ≤ 4 then 128 else if f = 5 then 200 else 136

/-- Bytes of a tile (R123). -/
def tileBytes (f : Nat) : Nat := 128 * rowBytes f

/-- The weight code of row i and column j of a tile outside the MX class. -/
def wCode (t : Tile) (i j : Nat) : Nat :=
  if t.fmt ≤ 1 then fieldLe t.bytes (i * 256 + 2 * j) 2 else fieldLe t.bytes (i * 128 + j) 1

/-- The code of element 2i + h of column j of an MX tile (R298). -/
def wMx (t : Tile) (i j h : Nat) : Nat :=
  if t.fmt = 6 then bits (fieldLe t.bytes (i * 136 + j) 1) (4 * h) 4
  else bits (fieldLe t.bytes (i * 200 + 12 * j / 8) 2) (12 * j % 8 + 6 * h) 6

/-- The scale byte of the block of row i, column j. -/
def wScale (t : Tile) (i j : Nat) : Nat :=
  fieldLe t.bytes ((i / 16 * 16 + j / 8) * rowBytes t.fmt + (rowBytes t.fmt - 8) + j % 8) 1

/-- Bytes of one packed MX block. -/
def blockBytes (f : Nat) : Nat := if f = 5 then 24 else 16

/-- The activation code of element i of a vector outside the MX class. -/
def aCode (f : Nat) (v : List Byte) (i : Nat) : Nat := if f ≤ 1 then fieldLe v (2 * i) 2 else fieldLe v i 1

/-- The code of element x of an MX vector (R143). -/
def aMx (f : Nat) (v : List Byte) (x : Nat) : Nat :=
  let o := x / 32 * blockBytes f
  if f = 6 then bits (fieldLe v (o + x % 32 / 2) 1) (4 * (x % 2)) 4
  else bits (fieldLe v (o + x % 32 * 6 / 8) 2) (x % 32 * 6 % 8) 6

/-- The scale byte of block b of an MX vector (R143). -/
def aScale (f : Nat) (v : List Byte) (b : Nat) : Nat := fieldLe v (8 * blockBytes f + b) 1

/-- The value of an element code outside the MX class. -/
def elemNum (f c : Nat) : Num :=
  if f = 4 then (let i := toSigned 8 c; .fin (i < 0) i.natAbs 0) else unpack (fmtOf f) c

/-- The value of an MX element under its block scale (R143, R146). -/
def mxNum (f c sb : Nat) : Num :=
  if sb = 0xFF then .nan
  else match unpack (fmtOf f) c with
    | .fin s m e => .fin s m (e + sb - 127)
    | n => n

/-! ### One column of one vector (R128, R145–R147) -/

/-- Contributions of one column as they enter the window: integer, inexact, overflow. -/
def columnEntries (t : Tile) (af mode : Nat) (anchor : Int) (v : List Byte) (j : Nat) : List (Int × Bool × Bool) :=
  (List.range t.k).flatMap (fun i =>
    if fmtClass t.fmt = 3 then
      [0, 1].map (fun h => enterWin anchor false
        (mulNum (mxNum af (aMx af v (2 * i + h)) (aScale af v (i / 16))) (mxNum t.fmt (wMx t i j h) (wScale t i j))))
    else if mode = 5 then [(if aCode af v i = wCode t i j then 1 else 0, false, false)]
    else if mode = 6 then [((8 - popcount 8 (xor (aCode af v i) (wCode t i j)) : Nat), false, false)]
    else [enterWin anchor (mode == 3 || mode == 4) (contribution mode (elemNum af (aCode af v i)) (elemNum t.fmt (wCode t i j)))])

/-- How a column, and an accumulator, combine (R128). -/
def combine (mode : Nat) (a b : Int) : Int := if mode = 3 then min a b else if mode = 4 then max a b else a + b

/-- The identity of a mode (R135). -/
def identity (mode : Nat) : Int := if mode = 3 then winMax else if mode = 4 then winMin else 0

/-- The 128 column results of one vector, its inexact contributions, whether any overflowed. -/
def vectorResult (t : Tile) (af mode : Nat) (anchor : Int) (v : List Byte) : List Int × Nat × Bool :=
  let cols := (List.range 128).map (fun j => columnEntries t af mode anchor v j)
  (cols.map (fun es => es.foldl (fun acc e => combine mode acc e.1) (identity mode)),
   cols.foldl (fun a es => a + (es.filter (fun e => e.2.1)).length) 0,
   cols.any (fun es => es.any (fun e => e.2.2)))

/-! ### WLOAD (R123, R124) -/

/-- The four MX pages of a core. -/
def mxPages (c k : Nat) : List Nat := (List.range 4).map (fun e => engPage8 c k e)

/-- The weight leader: the lowest-numbered MX engine selected (R123). -/
def isLeader (s : Block) (n : Nat) : Bool :=
  lowestBit 4 (rd s (Reg.COR.ENGINE_MASK_MASK (corPage (engCluster n) (engCoreOf n)))) == some (engKind n)

/-- The shadow's state, the same on the four pages. -/
def setShadow (s : Block) (c k v : Nat) : Block := overL (mxPages c k) (fun b t => wr t (Reg.MX.ARRAY_STATUS_SHADOW b) v) s
def shadowState (s : Block) (c k : Nat) : Nat := rd s (Reg.MX.ARRAY_STATUS_SHADOW (engPage8 c k 0))

/-- A broadcast cycle: one full row joins the tile in the shadow (R123). -/
def wloadUnit : UnitFn := fun s n x i =>
  let c := engCluster n
  let k := engCoreOf n
  let t := core s c k
  let row := devRead s (spaceAddr n 0 (fWlAddr x.word + i * rowBytes (fWlFmt x.word))) (rowBytes (fWlFmt x.word))
  (setCore s c k { t with shadow := { t.shadow with bytes := t.shadow.bytes ++ row } }, x.effect)

def doWload (s : Block) (n : Nat) : Block :=
  let c := engCluster n
  let k := engCoreOf n
  tryIssue s n (fun w => fOpcode w == opWLOAD) (waitOk s n) (fun _ => isLeader s n && shadowState s c k != 0)
    (fun w => if isLeader s n then accessCauses s n w ⟨0, fWlAddr w, tileBytes (fWlFmt w), false, none⟩ else [rsILLEGAL])
    (fun w =>
      let fin := issueAt s n + 128
      let s := setCore s c k { core s c k with shadow := ⟨fWlFmt w, fWlK w, fWlTag w, []⟩, loadEnd := fin }
      let s := advance (pushReads s n w (nextOp s n) 1 fin 128 .wload wloadUnit) n (nextOp s n)
      let s := setShadow s c k 1
      overL (mxPages c k) (fun b t => wr (wr t (Reg.MX.SHADOW_TAG_TAG b) (fWlTag w)) (Reg.MX.SHADOW_TAG_ROWS b) (fWlK w)) s)

/-- The 128th broadcast cycle has ended (R124). -/
def doWloadEnd (s : Block) (c k : Nat) : Block :=
  if shadowState s c k = 1 ∧ (core s c k).loadEnd ≤ (clus s c).cycle then setShadow s c k 2 else s

/-! ### SWAP (R125, R126) -/

def doSwap (s : Block) (n : Nat) : Block :=
  issueOp s n opSWAP (fun _ => []) (fun w =>
    setWait (wr (goSimple s n w .swap) (Reg.MX.ARRAY_STATUS_SWAP_PENDING (engBlock n)) 1) n 3 16)

/-- The swap group: the MX engines selected. -/
def swapGroup (s : Block) (c k : Nat) : List Nat :=
  ((List.range 4).filter (fun e => bit (rd s (Reg.COR.ENGINE_MASK_MASK (corPage c k))) e)).map (engCore c k)

/-- A member has arrived: it waits at SWAP, and its vectors have passed the cell stage. -/
def swapArrived (s : Block) (n : Nat) : Bool :=
  flag s (Reg.MX.ARRAY_STATUS_SWAP_PENDING (engBlock n)) && engState s n == 3 && (eng s n).arrayFree ≤ cycleOf s n

def isSwap (x : InFlight) : Bool := fOpcode x.word == opSWAP

/-- The member's SWAP completes in the swap cycle, ahead of the MMAs still in their accumulation (R125). -/
def finishSwap (n : Nat) (s : Block) : Block :=
  let e := eng s n
  let s := wr s (Reg.MX.ARRAY_STATUS_SWAP_PENDING (engBlock n)) 0
  match e.inflight.find? isSwap with
  | some x => resume (signal (setEng s n { e with inflight := e.inflight.filter (fun y => !isSwap y) }) n x.word) n
  | none => s

def doSwapEffect (s : Block) (c k : Nat) : Block :=
  let g := swapGroup s c k
  if g ≠ [] ∧ g.all (swapArrived s) ∧ shadowState s c k = 2 then
    let x := core s c k
    let s := setCore s c k { x with live := x.shadow }
    let s := setShadow s c k 0
    let s := overL (mxPages c k) (fun b t =>
      let t := incMod t (Reg.MX.WEIGHT_GEN_GEN b) 1
      wr (wr t (Reg.MX.WEIGHT_GEN_LIVE_TAG b) x.shadow.tag) (Reg.MX.ARRAY_STATUS_WT_FMT b) x.shadow.fmt) s
    overL g finishSwap s
  else s

/-! ### MMA (R128–R138) -/

/-- The bytes of a vector that enabled rows read, as accesses (R122, R143). -/
def vectorAccess (f k a : Nat) : List Access :=
  if fmtClass f = 3 then [⟨1, a, k / 16 * blockBytes f, false, none⟩, ⟨1, a + 8 * blockBytes f, k / 16, false, none⟩]
  else [⟨1, a, if f ≤ 1 then 2 * k else k, false, none⟩]

/-- Bytes of one activation vector. -/
def vectorBytes (f : Nat) : Nat := if f ≤ 1 then 256 else if f ≤ 4 then 128 else if f = 5 then 200 else 136

/-- The largest scale byte other than 0xFF, 127 where there is none (R148). -/
def maxScale (l : List Nat) : Nat :=
  let g := l.filter (fun x => x != 0xFF)
  if g.isEmpty then 127 else g.foldl max 0

/-- The accumulators of a half. -/
def halfOf (s : Block) (n h : Nat) : Half := Tab.get (core s (engCluster n) (engCoreOf n)).halves {} (engKind n * 2 + h)

/-- The anchor a CLEAR sets (R135, R148). -/
def clearAnchor (t : Tile) (w : Nat) (vecs : List (List Byte)) : Int :=
  if fMode w ≥ 5 then 0
  else if fSRel w then
    let nb := t.k / 16
    let sa := maxScale (vecs.flatMap (fun v => (List.range nb).map (aScale (fAFmt w) v)))
    let sw := maxScale ((List.range nb).flatMap (fun b => (List.range 128).map (fun j => wScale t (16 * b) j)))
    max (-512) (min 511 ((sa : Int) + sw - 254 + toSigned 10 (fMmaAnchor w)))
  else toSigned 10 (fMmaAnchor w)

/-- The halts found in an MMA (R129, R135, R136, R148, R90). -/
def mmaCauses (s : Block) (n w : Nat) : List Nat :=
  let b := engBlock n
  let t := (core s (engCluster n) (engCoreOf n)).live
  let h := fHalf w
  let cls := fmtClass t.fmt
  let bad := fmtClass (fAFmt w) != cls || !modeOk cls (fMode w) || (fSRel w && cls != 3) ||
    (!fClear w && (rd s (Reg.MX.ACC_HDR_STATE b h) == 0 || rd s (Reg.MX.ACC_HDR_MODE b h) != fMode w ||
      rd s (Reg.MX.ACC_HDR_FMT b h) != t.fmt))
  (if bad then [rsILLEGAL] else []) ++
  (List.range (fN w)).flatMap (fun v => (vectorAccess (fAFmt w) t.k (fMmaAddr w + v * 32 * fStride w)).flatMap (accessCauses s n w))

/-- The arrays of a cluster that run heavy now. -/
def heavyNow (s : Block) (c : Nat) : Nat :=
  ((List.range 24).filter (fun i => flag s (Reg.MX.ARRAY_STATUS_HEAVY_NOW (engPage8 c (i / 4) (i % 4))))).length

/-- The arrays hinted within the last 65,536 cycles: the last hint of each core (R315). -/
def hinted (s : Block) (c : Nat) : Nat :=
  let x := clus s c
  (x.hints.filter (fun h => x.cycle ≤ h.2.1 + 65536)).foldl (fun a h => a + h.2.2) 0

/-- A vector enters the array (R135): its column results, and the counts of accepted vectors (R139). -/
def mmaUnit : UnitFn := fun s n x i =>
  match x.effect with
  | .mma h r0 mode heavy stale rows inexact ovf =>
    let b := engBlock n
    let w := x.word
    let v := devRead s (spaceAddr n 1 (fMmaAddr w + i * 32 * fStride w)) (vectorBytes (fAFmt w))
    let r := vectorResult (core s (engCluster n) (engCoreOf n)).live (fAFmt w) mode (toSigned 10 (rd s (Reg.MX.ACC_HDR_ANCHOR b h))) v
    let s := when heavy (fun t => incMod t (Reg.MX.HEAVY_SHEET b) 1) (incMod s (Reg.MX.VECTORS_SHEET b) 1)
    let s := when (fHeavy w && !heavy) (fun t => incSat t (Reg.MX.LIGHT_FALLBACK b) 1) s
    (s, .mma h r0 mode heavy stale (rows ++ [r.1]) (inexact + r.2.1) (ovf || r.2.2))
  | e => (s, e)

/-- A CLEAR empties a half anew (R135, R136): its accumulators, OVF and underflow count; what an MMA still in its accumulation would add is
gone with them. -/
def clearHalf (s : Block) (n h mode fmt : Nat) (anchor : Int) : Block :=
  let b := engBlock n
  let c := engCluster n
  let k := engCoreOf n
  let e := eng s n
  let s := setEng s n { e with inflight := e.inflight.map (fun x => match x.effect with
    | .mma h' r0 m heavy stale rows inexact ovf => { x with effect := .mma h' r0 m heavy (stale || h' == h) rows inexact ovf }
    | _ => x) }
  let s := setCore s c k { core s c k with halves := Tab.put (core s c k).halves {} (engKind n * 2 + h) { fill := identity mode, acc := [] } }
  let s := wr (wr (wr s (Reg.MX.ACC_HDR_ANCHOR b h) (ofSigned 10 anchor)) (Reg.MX.ACC_HDR_MODE b h) mode) (Reg.MX.ACC_HDR_FMT b h) fmt
  wr (wr (wr s (Reg.MX.ACC_HDR_STATE b h) 1) (Reg.MX.ACC_HDR_OVF b h) 0) (Reg.MX.ACC_UNDERFLOW b h) 0

/-- MMA issues: its rate is fixed, a CLEAR takes effect, and its vectors follow one another into the array. -/
def doMma (s : Block) (n : Nat) : Block :=
  let b := engBlock n
  let c := engCluster n
  tryIssue s n (fun w => fOpcode w == opMMA) (waitOk s n)
    (fun w => (eng s n).arrayFree > issueAt s n || rd s (Reg.MX.ACC_HDR_STATE b (fHalf w)) == 2)
    (mmaCauses s n)
    (fun w =>
      let t := (core s c (engCoreOf n)).live
      let h := fHalf w
      let heavy := fHeavy w && flag s (Reg.MX.ARRAY_STATUS_TOKEN_HELD b)
      let per := (if fmtClass t.fmt = 0 then 2 else 1) * (if heavy then 1 else 2)
      let cyc := issueAt s n
      let vecs := (List.range (fN w)).map (fun v =>
        devRead s (spaceAddr n 1 (fMmaAddr w + v * 32 * fStride w)) (vectorBytes (fAFmt w)))
      let s := when (fClear w) (fun u => clearHalf u n h (fMode w) t.fmt (clearAnchor t w vecs)) s
      let s := wr (wr s (Reg.MX.ARRAY_STATUS_MODE b) (fMode w)) (Reg.MX.ARRAY_STATUS_ACT_FMT b) (fAFmt w)
      let s := wr s (Reg.MX.ARRAY_STATUS_HEAVY_NOW b) (b2n heavy)
      let s := when (heavy && decide (heavyNow s c > hinted s c)) (fun u => incSat u (Reg.CLK.UNHINTED (clkPage c)) 1) s
      let s := when (fHeavy w && !heavy) (fun u => raise u (engRec n) ErrBit.MX.HEAVY_NO_TOKEN) s
      let s := advance (pushReads s n w (nextOp s n) per (cyc + (fN w - 1) * per + 14) (fN w)
        (.mma h (fR0 w) (fMode w) heavy false [] 0 false) mmaUnit) n (nextOp s n)
      setEng s n { eng s n with arrayFree := cyc + fN w * per })

/-- Column results combined into a row of accumulators; whether an accumulator clamped (R147). -/
def accRow (mode row : Nat) (h : Half) (cols : List Int) : Half × Bool :=
  (cols.zip (List.range cols.length)).foldl (fun (st : Half × Bool) p =>
    let old := Tab.get st.1.acc st.1.fill (row * 128 + p.2)
    let r := clampWin (combine mode old p.1)
    ({ st.1 with acc := Tab.put st.1.acc st.1.fill (row * 128 + p.2) r.1 }, st.2 || r.2)) (h, false)

/-- The rows of a vector stream combined from row r0 on. -/
def accRows (mode r0 : Nat) (h : Half) (rows : List (List Int)) : Half × Bool :=
  (rows.zip (List.range rows.length)).foldl (fun (st : Half × Bool) p =>
    let r := accRow mode (r0 + p.2) st.1 p.1
    (r.1, st.2 || r.2)) (h, false)

/-! ### DRAIN (R136–R138, R149–R151) -/

/-- Bytes of one drained row. -/
def drainRowBytes (o : Nat) : Nat :=
  if o = 0 then 512 else if o ≤ 2 then 256 else if o ≤ 4 then 128 else rawRowBytes (o - 5)

/-- Cycles per drained row. -/
def drainRate (o : Nat) : Nat := if o = 5 then 3 else if o = 6 then 2 else 1

/-- One row of a half as it is drained now: its bytes, and whether a value was not exact at the width. -/
def drainRow (s : Block) (n w r : Nat) : List Byte × Bool :=
  let b := engBlock n
  let h := fDrHalf w
  let x := halfOf s n h
  let anchor := toSigned 10 (rd s (Reg.MX.ACC_HDR_ANCHOR b h))
  let vals := (List.range 128).map (fun j => Tab.get x.acc x.fill (r * 128 + j))
  let o := fDrOut w
  if o ≤ 4 then (vals.flatMap (fun v => natLe (drainRowBytes o / 128) (convertWin o v anchor)), false)
  else rawRow (o - 5) (rd s (Reg.MX.ACC_HDR_MODE b h)) anchor (flag s (Reg.MX.ACC_HDR_OVF b h)) (rd s (Reg.MX.ACC_UNDERFLOW b h)) vals

/-- A row that a DRAIN reaches is fixed as it stands (R137). -/
def drainUnit : UnitFn := fun s n x i =>
  match x.effect with
  | .drain h ws narrow =>
    let w := x.word
    let r := drainRow s n w (fDrRow w + i)
    (s, .drain h (ws ++ [(spaceAddr n (1 + fDrDest w) (fDrAddr w) + i * drainRowBytes (fDrOut w), r.1)]) (narrow || r.2))
  | e => (s, e)

/-- DRAIN. A half still DRAINING, by a DRAIN whose rows are written but whose completion waits for the operations before it, holds a second one
back: R136 says so of an MMA only, and R84 names no further interlock (DESIGN CHOICE, log entry 22). -/
def doDrain (s : Block) (n : Nat) : Block :=
  let b := engBlock n
  tryIssue s n (fun w => fOpcode w == opDRAIN) (waitOk s n)
    (fun w => (eng s n).drainFree > issueAt s n || rd s (Reg.MX.ACC_HDR_STATE b (fDrHalf w)) == 2)
    (fun w => (if rd s (Reg.MX.ACC_HDR_STATE b (fDrHalf w)) = 0 then [rsILLEGAL] else []) ++
      accessCauses s n w ⟨1 + fDrDest w, fDrAddr w, fDrRows w * drainRowBytes (fDrOut w), true, none⟩)
    (fun w =>
      let fin := issueAt s n + fDrRows w * drainRate (fDrOut w)
      let s := advance (pushReads s n w (nextOp s n) (drainRate (fDrOut w)) fin (fDrRows w) (.drain (fDrHalf w) [] false) drainUnit) n
        (nextOp s n)
      let s := setEng s n { eng s n with drainFree := fin }
      wr s (Reg.MX.ACC_HDR_STATE b (fDrHalf w)) 2)

/-- MMA completion: the accumulators, OVF and the underflow count of its half change, unless a later CLEAR has emptied it (R135). -/
def doMmaComplete (s : Block) (n : Nat) : Block :=
  let b := engBlock n
  completeIf s n (fun x => fOpcode x.word == opMMA) (fun x s =>
    match x.effect with
    | .mma h r0 mode _ stale rows inexact ovf =>
      if stale then when ovf (fun u => raise u (engRec n) ErrBit.MX.ACC_OVERFLOW) s
      else
        let r := accRows mode r0 (halfOf s n h) rows
        let c := engCluster n
        let k := engCoreOf n
        let s := setCore s c k { core s c k with halves := Tab.put (core s c k).halves {} (engKind n * 2 + h) r.1 }
        let s := incSat s (Reg.MX.ACC_UNDERFLOW b h) inexact
        when (ovf || r.2) (fun u => raise (wr u (Reg.MX.ACC_HDR_OVF b h) 1) (engRec n) ErrBit.MX.ACC_OVERFLOW) s
    | _ => s)

/-- DRAIN completion: the rows are visible and the half is OPEN again (R136, R137). -/
def doDrainComplete (s : Block) (n : Nat) : Block :=
  let b := engBlock n
  completeIf s n (fun x => fOpcode x.word == opDRAIN) (fun x s =>
    match x.effect with
    | .drain h ws narrow =>
      let s := wr (applyWrites s ws) (Reg.MX.ACC_HDR_STATE b h) 1
      when narrow (fun u => raise u (engRec n) ErrBit.MX.NARROW_OVERFLOW) s
    | _ => s)

end Sys2Proof.Machine
end

