-- ==== Sys2Proof/Machine/Health.lean ====
section
/-! DEFINITION. The health score and its charges (R341), and the telemetry counts of a port's open window (R254). -/

namespace Sys2Proof.Machine

/-! ### The score -/

/-- Ticks of an hour of the management clock. -/
def hour : Nat := 3600000000000

/-- 2^(−1/2^k), k = 1, 2, …, in units of 2^−60. -/
def halfRoots : Nat → Nat → List Nat
  | 0, _ => []
  | n + 1, r => isqrt (r * 2 ^ 60) :: halfRoots n (isqrt (r * 2 ^ 60))

/-- The factor for a fraction f/h of a half-life, from the roots in turn. -/
def halfFrac (h : Nat) : List Nat → Nat → Nat → Nat
  | [], _, acc => acc
  | r :: rs, f, acc => if h ≤ 2 * f then halfFrac h rs (2 * f - h) (acc * r / 2 ^ 60) else halfFrac h rs (2 * f) acc

/-- 2^(−age/h) in units of 2^−60 (DESIGN CHOICE, log entry 18). -/
def decay (age h : Nat) : Nat := halfFrac h (halfRoots 48 (2 ^ 59)) (age % h) (2 ^ 60) / 2 ^ (age / h)

/-- The half-life in ticks; a register value outside 1–168 counts as the nearer bound (DESIGN CHOICE, log entry 13). -/
def halfLife (s : Block) : Nat := hour * min 168 (max 1 (rd s Reg.MGT.HEALTH_CFG_HALF_LIFE))
/-- DESIGN CHOICE, log entry 13. -/
def repeatWindow (s : Block) : Nat := hour * min 24 (max 1 (rd s Reg.MGT.HEALTH_CFG_WINDOW))

/-- The penalty in units of 2^−60, and the score. -/
def penalty (s : Block) : Nat := s.mgmt.events.foldl (fun a e => a + e.weight * decay (s.mgmt.clock - e.time) (halfLife s)) 0
/-- DESIGN CHOICE, log entry 18. -/
def scoreNow (s : Block) : Nat := 1000 - min 1000 ((penalty s + 2 ^ 59) / 2 ^ 60)

/-! ### Charges: kinds 1 UNCORRECTABLE, 2 supply or 112 °C reset, 3 failed boot, 4 thermal trip, 5 ENGINE_HUNG, 6 page retired,
7 corrected errors, 8 STRETCH_RANK, 9 link down, 10 PLAN_MARGIN_LOST, 11 lane lost, 12 lane degraded -/

/-- DESIGN CHOICE, log entry 18. -/
def weightOf (kind : Nat) : Nat := [0, 300, 300, 200, 250, 150, 100, 40, 30, 60, 50, 30, 10].getD kind 0

/-- The kind was charged at a place less than `gap` ago. -/
def chargedWithin (s : Block) (kind place gap : Nat) : Bool :=
  s.mgmt.events.any (fun e => e.kind == kind && e.where_ == place && decide (s.mgmt.clock < e.time + gap))

/-- An event is charged, unless it was at its place less than `gap` ago; the first of its kind in the repeat window at most down to the
threshold plus one (DESIGN CHOICE, log entry 18). -/
def charge (s : Block) (kind place gap : Nat) : Block :=
  if chargedWithin s kind place gap then s
  else
    let again := s.mgmt.events.any (fun e => e.kind == kind && decide (s.mgmt.clock < e.time + repeatWindow s))
    let w := if again then weightOf kind else min (weightOf kind) (scoreNow s - (rd s Reg.MGT.HEALTH_THRESHOLD + 1))
    let s := { s with mgmt := { s.mgmt with events := s.mgmt.events ++ [⟨kind, w, s.mgmt.clock, place⟩] } }
    logEntry s 5 kind 0 (scoreNow s)

/-- A corrected error of a memory unit, among the times of its last 1,000: 1,000 within an hour are one event, once an hour (DESIGN CHOICE, log entry 18). -/
def chargeCe (s : Block) (u : Nat) : Block :=
  let l := (s.mgmt.clock :: (Tab.get s.mgmt.ceTimes [] u).filter (fun t => decide (s.mgmt.clock < t + hour))).take 1000
  let s := { s with mgmt := { s.mgmt with ceTimes := Tab.put s.mgmt.ceTimes [] u l } }
  if l.length = 1000 then charge s 7 u hour else s

/-- This module was named STRETCH_RANK of a sheet: 16 times within 1,024 sheets are one event. -/
def chargeStretch (s : Block) (m : Nat) : Block :=
  let l := m :: s.mgmt.stretchNamed.filter (fun x => decide (m < x + 1024) && decide (x ≤ m))
  let s := { s with mgmt := { s.mgmt with stretchNamed := l } }
  if 16 ≤ l.length then charge s 8 0 hour else s

/-! ### Telemetry counts of the open window: 0–3 sent by type, 4–7 received by type, 8 replays, 9 NAKs, 10 couch high, 11 width
changes, 12 + v and 20 + v the highest receive and transmit occupancy of VC v, 28 + v its stalled ticks -/

def telAdd (s : Block) (p k n : Nat) : Block :=
  setPort s p { prt s p with counts := Tab.put (prt s p).counts 0 k (Tab.get (prt s p).counts 0 k + n) }
def telHigh (s : Block) (p k n : Nat) : Block :=
  setPort s p { prt s p with counts := Tab.put (prt s p).counts 0 k (max n (Tab.get (prt s p).counts 0 k)) }

end Sys2Proof.Machine
end

