-- ==== Sys2Proof/Machine/Pages.lean ====
section
/-! DEFINITION. Device memory as a map: its ranges (R163), the crash area (R164), the page pools (R176), the quota table (R177), the page
map and page owners (R267). -/

namespace Sys2Proof.Machine

/-! ### The ranges of R163 -/

/-- The capacity of a DDR5 channel from DIMM_STATUS.CAP (R183). -/
def ddrCap (s : Block) (n : Nat) : Nat :=
  let c := rd s (Reg.DDR.DIMM_STATUS_CAP (ddrPage n))
  if c = 0 then 0 else 0x1000000000 * 2 ^ (c - 1)

/-- A range of R163: kind (0 HBM, 1 DDR5, 2 cluster store, 3 WSP, 4 ASP), instance, base, populated size. -/
structure DevRange where
  kind : Nat
  inst : Nat
  base : Nat
  size : Nat
deriving DecidableEq, Repr

/-- The range a device address lies in. -/
def devRange (s : Block) (a : Nat) : Option DevRange :=
  if a < 0xC000000000 then some ⟨0, a / 0x1000000000, a / 0x1000000000 * 0x1000000000, 0x1000000000⟩
  else if 0x10000000000 ≤ a ∧ a < 0x30000000000 then
    let n := (a - 0x10000000000) / 0x4000000000
    some ⟨1, n, 0x10000000000 + n * 0x4000000000, ddrCap s n⟩
  else if 0x80000000000 ≤ a ∧ a < 0x80020000000 then
    let c := (a - 0x80000000000) / 0x2000000
    some ⟨2, c, 0x80000000000 + c * 0x2000000, 0x1800000⟩
  else if 0x80040000000 ≤ a ∧ a < 0x80040000000 + 96 * 0x800000 then
    let k := (a - 0x80040000000) / 0x800000
    let b := 0x80040000000 + k * 0x800000
    if a < b + 0x400000 then some ⟨3, k, b, 0x400000⟩
    else if a < b + 0x600000 then some ⟨4, k, b + 0x400000, 0x200000⟩ else none
  else none

/-- [a, a + n) lies within one populated range. -/
def devIn (s : Block) (a n : Nat) : Bool :=
  match devRange s a with
  | some r => decide (a + n ≤ r.base + r.size)
  | none => false

/-- The memory unit of an address: 0–11 HBM, 12–19 DDR5. -/
def unitOf (s : Block) (a : Nat) : Option Nat :=
  match devRange s a with
  | some r => if r.kind = 0 then some r.inst else if r.kind = 1 then some (12 + r.inst) else none
  | none => none

/-- The page of a memory unit. -/
def unitPage (u : Nat) : Nat := if u < 12 then hbmPage u else ddrPage (u - 12)

/-- The device address of a unit's first byte. -/
def unitBase (u : Nat) : Nat := if u < 12 then u * 0x1000000000 else 0x10000000000 + (u - 12) * 0x4000000000

/-- The unit's populated size. -/
def unitSize (s : Block) (u : Nat) : Nat := if u < 12 then 0x1000000000 else ddrCap s (u - 12)

/-- Ranges [a, a + n) and [b, b + m) meet: an empty range meets none. -/
def meets (a n b m : Nat) : Bool := n != 0 && m != 0 && decide (a < b + m) && decide (b < a + n)

/-- [a, a + n) meets the crash area: the top 256 MiB of each populated channel (R164). -/
def inCrash (s : Block) (a n : Nat) : Bool :=
  (List.range 8).any (fun c => ddrCap s c != 0 && meets a n (unitBase (12 + c) + ddrCap s c - 0x10000000) 0x10000000)

/-- An uncorrectable block of 64 bytes reads as zeros where its error is reported (R173, R174) (DEDUCED, log entry 23). -/
def maskPoison (s : Block) (a : Nat) : List Byte → List Byte
  | [] => []
  | b :: r => (if poisoned s (a / 64 * 64) 64 then 0 else b) :: maskPoison s (a + 1) r

/-- Bytes of device memory, with zeros for uncorrectable blocks. -/
def devReadSafe (s : Block) (a n : Nat) : List Byte :=
  if poisoned s (a / 64 * 64) (n + 64) then maskPoison s a (devRead s a n) else devRead s a n

/-- UE_COUNT and UE_ADDR of a unit, and its sticky bit (R174, R181): UE_ADDR holds the first block since the bit was last cleared. -/
def noteUe (s : Block) (u bitN a : Nat) : Block :=
  let pg := unitPage u
  let ue := rd s (Reg.HDR.ERR_STICKY pg)
  let fresh := !(bit ue ErrBit.HBM.UE_PLAN || bit ue ErrBit.HBM.UE_MOVE || bit ue ErrBit.HBM.UE_SCRUB)
  let s := when fresh (fun t => if u < 12 then wr t (Reg.HBM.UE_ADDR pg) (a / 64 * 64) else wr t (Reg.DDR.UE_ADDR pg) (a / 64 * 64)) s
  let s := if u < 12 then incSat s (Reg.HBM.UE_COUNT pg) 1 else incSat s (Reg.DDR.UE_COUNT pg) 1
  raisePage s pg bitN

/-- The 64-byte blocks of [a, a + 64n) that are uncorrectable. -/
def badBlocks (s : Block) (a n : Nat) : List Nat :=
  ((List.range n).map (fun i => a / 64 * 64 + 64 * i)).filter (fun b => poisoned s b 64)
/-- Every uncorrectable block of an access counts (R174, R181). -/
def noteUes (s : Block) (u bitN : Nat) (l : List Nat) : Block := overL l (fun a t => noteUe t u bitN a) s

/-- An error corrected in line: counted on its unit's page, and charged to the health score (R173, R341). -/
def noteCorrected (s : Block) (u : Nat) : Block :=
  let pg := unitPage u
  let s := if u < 12 then incSat s (Reg.HBM.CE_COUNT pg) 1 else incSat s (Reg.DDR.CE_COUNT pg) 1
  chargeCe (raisePage s pg ErrBit.HBM.CE) u
/-- The blocks of an access that hold a correctable error: each is corrected in line, and counts. -/
def noteCes (s : Block) (u a len : Nat) : Block :=
  overL (((List.range (ceilDiv (a % 64 + len) 64)).map (fun i => a / 64 * 64 + 64 * i)).filter
    (fun b => softAt s b 64 && !poisoned s b 64)) (fun _ t => noteCorrected t u) s

/-! ### Pools (R176) -/

def hbmPool (s : Block) : Nat := rd s (Reg.HBM.POOL_PAGES (hbmPage 0))
def ddrPool (s : Block) : Nat := rd s (Reg.DDR.POOL_PAGES (ddrPage 0))

/-- The device address of a pool page: tier 0 HBM, 1 DDR5. -/
def pageAddr (s : Block) (tier p : Nat) : Nat :=
  if tier = 0 then unitBase (p % 12) + rd s (Reg.HBM.POOL_OFFSET (hbmPage 0)) + p / 12 * 0x10000
  else unitBase (12 + p % 8) + rd s (Reg.DDR.POOL_OFFSET (ddrPage 0)) + p / 8 * 0x10000

/-- The unit that holds a pool page. -/
def pageUnit (tier p : Nat) : Nat := if tier = 0 then p % 12 else 12 + p % 8

def poolPages (s : Block) (tier : Nat) : Nat := if tier = 0 then hbmPool s else ddrPool s

/-- The HBM pool page that a device address lies in. -/
def hbmPageOf (s : Block) (a : Nat) : Option Nat :=
  let off := rd s (Reg.HBM.POOL_OFFSET (hbmPage 0))
  let o := a % 0x1000000000
  if a < 0xC000000000 ∧ off ≤ o then
    let p := (o - off) / 0x10000 * 12 + a / 0x1000000000
    if p < hbmPool s then some p else none
  else none

/-! ### Tables in device memory (R263, R268): what the session engine reads and writes takes its turn in the KV queue of the stack -/

/-- Bytes of device memory under one waiting write. -/
def underMove (a : Nat) (bs : List Byte) (m : Move) : List Byte :=
  if m.kind == 4 && meets a bs.length m.addr m.data.length then
    (bs.zip (List.range bs.length)).map (fun p =>
      if m.addr ≤ a + p.2 ∧ a + p.2 < m.addr + m.data.length then m.data.getD (a + p.2 - m.addr) 0 else p.1)
  else bs

/-- Table bytes as the session engine knows them: those of memory under the writes it has queued (DEDUCED, log entry 37). -/
def tabRead (s : Block) (a n : Nat) : List Byte :=
  match unitOf s a with
  | some u => (unit s u).kv.foldl (underMove a) (devRead s a n)
  | none => devRead s a n
def tabNum (s : Block) (a n : Nat) : Nat := leNat (tabRead s a n)

/-- A table access joins the queue of its unit: a write with its bytes, or a read of n bytes. -/
def tabQueue (s : Block) (a n : Nat) (bs : List Byte) : Block :=
  match unitOf s a with
  | some u => setUnit s u { unit s u with kv := (unit s u).kv ++ [⟨4, a, n, 0, false, bs, [], n⟩] }
  | none => devWrite s a bs
def tabFetch (s : Block) (a n : Nat) : Block := tabQueue s a n []
def tabWrite (s : Block) (a : Nat) (bs : List Byte) : Block := tabQueue s a bs.length bs
def tabPut (s : Block) (a n v : Nat) : Block := tabWrite s a (natLe n v)

/-- The session table (R263). -/
def sessAddr (s : Block) (i : Nat) : Nat := rd s Reg.SES.TABLE_BASE + 64 * i

/-- Bytes read from outside, with the value of every session entry that the cache holds (R263). -/
def cachedView (s : Block) (a : Nat) (d : List Byte) : List Byte :=
  s.serv.cache.foldl (fun d x => underMove a d ⟨4, sessAddr s x.1, 64, 0, false, x.2.2, [], 64⟩) d

/-! ### The page map (R267): 8-byte records after the quota table, HBM pages first (DESIGN CHOICE, log entry 6) -/

def pgFREE : Nat := 0
def pgOWNED : Nat := 1
def pgFILLING : Nat := 2
def pgDRAINING : Nat := 3
def pgQUARANTINE : Nat := 4
def pgRETIRED : Nat := 5

def quotaBase (s : Block) : Nat := rd s (Reg.HBM.QUOTA_BASE (hbmPage 0))
/-- DESIGN CHOICE, log entry 6. -/
def pageRecAddr (s : Block) (tier p : Nat) : Nat := quotaBase s + 0x10000 + 8 * (if tier = 0 then p else hbmPool s + p)
/-- DESIGN CHOICE, log entry 6. -/
def pageRecord (s : Block) (tier p : Nat) : Nat := tabNum s (pageRecAddr s tier p) 8
def pageState (s : Block) (tier p : Nat) : Nat := bits (pageRecord s tier p) 0 3
def pageTenant (s : Block) (tier p : Nat) : Nat := bits (pageRecord s tier p) 3 12
def pageSession (s : Block) (tier p : Nat) : Nat := bits (pageRecord s tier p) 15 20
/-- The owner SRAM mirrors the tenant of an HBM page in state OWNED, FILLING or DRAINING (R267). -/
def setOwner (s : Block) (p st tenant : Nat) : Block :=
  { s with serv := { s.serv with owner := Tab.put s.serv.owner 0 p (if 1 ≤ st ∧ st ≤ 3 then tenant + 1 else 0) } }
/-- A page's record changes, and with it the owner SRAM. -/
def setPage (s : Block) (tier p st tenant session : Nat) : Block :=
  let s := tabPut s (pageRecAddr s tier p) 8 (st % 8 + 8 * (tenant % 4096) + 32768 * (session % 1048576))
  if tier = 0 then setOwner s p (st % 8) (tenant % 4096) else s
/-- The state alone changes. -/
def setPageState (s : Block) (tier p st : Nat) : Block := setPage s tier p st (pageTenant s tier p) (pageSession s tier p)

/-- The lowest-numbered FREE page of a pool (R266). -/
def freePage (s : Block) (tier : Nat) : Option Nat := (List.range (poolPages s tier)).find? (fun p => pageState s tier p == pgFREE)
def freeCount (s : Block) (tier : Nat) : Nat := ((List.range (poolPages s tier)).filter (fun p => pageState s tier p == pgFREE)).length

/-- The owner SRAM says that a tenant owns the page of an address (R106, R267). -/
def ownedBy (s : Block) (tenant a : Nat) : Bool :=
  match hbmPageOf s a with
  | some p => Tab.get s.serv.owner 0 p == tenant + 1
  | none => false

/-- Every 64 KiB page that [a, a + n) touches is owned by a tenant. -/
def allOwned (s : Block) (tenant a n : Nat) : Bool :=
  (List.range ((a + n - 1) / 0x10000 + 1 - a / 0x10000)).all (fun i => ownedBy s tenant ((a / 0x10000 + i) * 0x10000))

/-! ### The quota table (R177) -/

def quotaAddr (s : Block) (t : Nat) : Nat := quotaBase s + 16 * t
def quotaOf (s : Block) (t : Nat) : Nat := tabNum s (quotaAddr s t) 4
def usedOf (s : Block) (t : Nat) : Nat := tabNum s (quotaAddr s t + 4) 4
def pausedOf (s : Block) (t : Nat) : Nat := tabNum s (quotaAddr s t + 8) 4
def setUsed (s : Block) (t v : Nat) : Block := tabPut s (quotaAddr s t + 4) 4 v
def setPaused (s : Block) (t v : Nat) : Block := tabPut s (quotaAddr s t + 8) 4 v
def quotaFlag (s : Block) (t i : Nat) : Bool := bit (tabNum s (quotaAddr s t + 12) 1) i
def setQuotaFlag (s : Block) (t i : Nat) (b : Bool) : Block :=
  tabPut s (quotaAddr s t + 12) 1 (setBit (tabNum s (quotaAddr s t + 12) 1) i b)
/-- Allocations for the tenant are refused (R178): 0xFFFF_FFFF stands for no limit (DEDUCED, log entry 37). -/
def quotaFull (s : Block) (t : Nat) : Bool := quotaOf s t != 0xFFFFFFFF && decide (quotaOf s t ≤ usedOf s t)

end Sys2Proof.Machine
end

