-- ==== Sys2Proof/Machine/Ni.lean ====
section
/-! DEFINITION. The network interfaces: service packets, the rank table, routes, requests of this module and their completion
(R234, R235, R239–R248). -/

namespace Sys2Proof.Machine

/-! ### Status codes (R242) and opcodes (R241) -/

def stOK : Nat := 0
def stLINKLOST : Nat := 1
def stBUSY : Nat := 2
def stNOROUTE : Nat := 3
def stDENIED : Nat := 4
def stRANGE : Nat := 5
def stTIMEOUT : Nat := 6
def stUNCORRECTABLE : Nat := 7
def svREAD : Nat := 1
def svWRITE : Nat := 2
def svMAILBOX : Nat := 3
def svTELREAD : Nat := 4
def svMCTP : Nat := 0x10

/-- Which opcodes are idempotent (R241). -/
def idempotent (op : Nat) : Bool := op == svREAD || op == svTELREAD

/-! ### The packet header (R240) -/

def hDst (h : List Byte) : Nat := fieldLe h 0 2
def hSrc (h : List Byte) : Nat := fieldLe h 2 2
def hMid (h : List Byte) : Nat := fieldLe h 4 2
def hCtrl (h : List Byte) : Nat := fieldLe h 6 1
def hLeg (h : List Byte) : Bool := bit (hCtrl h) 0
def hEpoch (h : List Byte) : Nat := bits (hCtrl h) 1 1
def hResponse (h : List Byte) : Bool := bit (hCtrl h) 2
def hIdem (h : List Byte) : Bool := bit (hCtrl h) 3
def hCoord (h : List Byte) : Bool := bit (hCtrl h) 4
def hOpcode (h : List Byte) : Nat := fieldLe h 7 1
def hToken (h : List Byte) : Nat := fieldLe h 8 4
def hFlow (h : List Byte) : Nat := fieldLe h 12 2
def hFlits (h : List Byte) : Nat := fieldLe h 14 1
def hStatus (h : List Byte) : Nat := fieldLe h 15 1
def hAddr (h : List Byte) : Nat := fieldLe h 16 6
def hLength (h : List Byte) : Nat := fieldLe h 24 2
def hDstCoord (h : List Byte) : Nat := fieldLe h 28 4 % 2 ^ 18
def hSrcCoord (h : List Byte) : Nat := fieldLe h 32 4 % 2 ^ 18

/-- Flits of a packet with n data bytes. -/
def flitsFor (n : Nat) : Nat := ceilDiv (48 + n) 256

/-- A header. -/
def mkHeader (dst src mid ctrl op token flow status addr len dstC srcC : Nat) : List Byte :=
  natLe 2 dst ++ natLe 2 src ++ natLe 2 mid ++ natLe 1 ctrl ++ natLe 1 op ++ natLe 4 token ++ natLe 2 flow ++ natLe 1 (flitsFor len) ++
  natLe 1 status ++ natLe 8 addr ++ natLe 2 len ++ natLe 2 0 ++ natLe 4 dstC ++ natLe 4 srcC ++ zeros 12

/-- The fields that R240 fixes at zero. -/
def headerOk (h : List Byte) : Bool :=
  hCtrl h < 32 && fieldLe h 22 2 == 0 && hLength h ≤ 2256 && fieldLe h 26 2 == 0 && fieldLe h 30 2 / 4 == 0 && fieldLe h 34 2 / 4 == 0 &&
  allZero (slice h 36 12) && 1 ≤ hFlits h && hFlits h ≤ 9 && (hResponse h || hStatus h == 0)

/-- A packet as 256-byte flit payloads. -/
def packetFlits : Nat → List Byte → List (List Byte)
  | 0, _ => []
  | n + 1, bs => slice bs 0 256 :: packetFlits n (bs.drop 256)

/-! ### The rank table and membership (R243, R244) -/

def rankWord (s : Block) (ver r : Nat) : Nat := Memory.num s.store.rank (ver * 0x40000 + 4 * r) 4
def rankValid (s : Block) (ver r : Nat) : Bool := bit (rankWord s ver r) 18
def rankCoord (s : Block) (ver r : Nat) : Nat := rankWord s ver r % 2 ^ 18
def members (s : Block) (ver : Nat) : List Nat := if ver = 0 then s.ni.members0 else s.ni.members1
def activeTable (s : Block) : Nat := rd s Reg.NI.NI_TABLE_ACTIVE

/-- The named version is loaded and usable: the active one, or the other while it is checked or in its tail (R244). -/
def tableUsable (s : Block) (ver : Nat) : Bool :=
  if ver = activeTable s then !(members s ver).isEmpty
  else flag s Reg.NI.NI_TABLE_TAIL || flag s Reg.NI.NI_TABLE_READY

/-! ### Coordinates and ports (R17, R185) -/

def coordOf (x y z : Nat) : Nat := x + 64 * y + 4096 * z
def axisOf (c a : Nat) : Nat := c / 64 ^ a % 64
def selfCoord (s : Block) : Nat := coordOf (rd s Reg.GLB.COORD_LO_X) (rd s Reg.GLB.COORD_LO_Y) (rd s Reg.GLB.COORD_LO_Z)
def ringOf (s : Block) (a : Nat) : Nat :=
  if a = 0 then rd s Reg.GLB.COORD_HI_RING_X else if a = 1 then rd s Reg.GLB.COORD_HI_RING_Y else rd s Reg.GLB.COORD_HI_RING_Z

/-- The first axis on which two coordinates differ. -/
def firstAxis (a b : Nat) : Option Nat := (List.range 3).find? (fun i => axisOf a i != axisOf b i)

/-- The direction along an axis: the shorter way round, + on a tie (R246). -/
def goesPlus (r o t : Nat) : Bool := decide (2 * ((t + r - o) % r) ≤ r)

/-- The coordinate one step along an axis. -/
def stepCoord (s : Block) (c a : Nat) (plus : Bool) : Nat :=
  let r := ringOf s a
  let o := axisOf c a
  let n := if r = 0 then o else if plus then (o + 1) % r else (o + r - 1) % r
  c - o * 64 ^ a + n * 64 ^ a

/-- How many members follow one another along an axis from a coordinate, itself not counted. -/
def lineRun : Nat → Block → Nat → Nat → Bool → Nat
  | 0, _, _, _, _ => 0
  | f + 1, s, c, a, plus =>
    let n := stepCoord s c a plus
    if n != selfCoord s && (members s (activeTable s)).contains n then 1 + lineRun f s n a plus else 0

/-- The coordinates crossed from one module to another, in dimension order, the last included. -/
def legCoords (s : Block) : Nat → Nat → Nat → List Nat
  | 0, _, _ => []
  | f + 1, c, t =>
    match firstAxis c t with
    | none => []
    | some a => let n := stepCoord s c a (goesPlus (ringOf s a) (axisOf c a) (axisOf t a)); n :: legCoords s f n t

/-- A port can carry the packet: ACTIVE, and in the job unless it is addressed by coordinates (R246, R247). -/
def portUsable (s : Block) (p : Nat) (byCoord : Bool) : Bool :=
  flag s (Reg.LNK.LINK_STATUS_UP (lnkPage p)) && (byCoord || flag s (Reg.PRT.PORT_STATUS_IN_JOB (prtPage p)))

/-- The port toward a target: the direction's lower port where FLOW is even, else the other where the first cannot be used. -/
def portToward (s : Block) (target flow : Nat) (byCoord : Bool) : Option Nat :=
  match firstAxis (selfCoord s) target with
  | none => none
  | some a =>
    let d := 4 * a + (if goesPlus (ringOf s a) (axisOf (selfCoord s) a) (axisOf target a) then 0 else 2)
    let p := d + flow % 2
    let q := d + (1 - flow % 2)
    if portUsable s p byCoord then some p else if portUsable s q byCoord then some q else none

/-! ### The intermediate rank (R201) -/

def midRank (seed src dst flow size : Nat) : Nat :=
  let m := 2 ^ 64
  let z := xor (xor (xor seed (src * 2 ^ 40 % m)) (dst * 2 ^ 16 % m)) flow
  let z := xor z (z / 2 ^ 30) * 0xBF58476D1CE4E5B9 % m
  let z := xor z (z / 2 ^ 27) * 0x94D049BB133111EB % m
  xor z (z / 2 ^ 31) % size

/-- Whether every module of the two legs lies in the membership map, for a route through mid. -/
def routeOk (s : Block) (ver mid dst : Nat) : Bool :=
  let a := legCoords s 192 (selfCoord s) (rankCoord s ver mid)
  let b := legCoords s 192 (rankCoord s ver mid) (rankCoord s ver dst)
  rankValid s ver mid && rankValid s ver dst && (a ++ b).all (fun c => (members s ver).contains c)

/-- The route an origin chooses (R245): flow and intermediate rank; none for NO_ROUTE. -/
def chooseRoute (s : Block) (src dst flow : Nat) : Option (Nat × Nat) :=
  let ver := activeTable s
  let size := rd s Reg.NI.NI_RT_LEN
  let cands := (List.range 4).map (fun k =>
    let f := (flow + k) % 65536
    let m := if size = 0 then src else midRank (rd s (Reg.SLT.SEED (sltPage 0))) src dst f size
    (f, if m = src ∨ m = dst then src else m))
  match cands.find? (fun p => routeOk s ver (if p.2 = src then dst else p.2) dst) with
  | some p => some p
  | none => if routeOk s ver dst dst then some (flow, src) else none

/-! ### Queues of a port -/

/-- A packet's flits join a port's VC. -/
def enqueueVc (s : Block) (p vc : Nat) (input : Option (Fin 12)) (pkt : List Byte) : Block :=
  let fl := (packetFlits (hFlits pkt) pkt)
  let q := (fl.zip (List.range fl.length)).map (fun x => (⟨input, x.2 == 0, x.1⟩ : SvcFlit))
  let l := Tab.get (prt s p).txVc [] vc ++ q
  telHigh (setPort s p { prt s p with txVc := Tab.put (prt s p).txVc [] vc l }) p (20 + vc) (min 256 l.length)

/-- An MCTP packet's tag owner bit: a request, or the answer to one (R251; the family's header, PRESUMED, log entry 19). -/
def tagOwner (d : List Byte) : Bool := bit (fieldLe d 3 1) 3
/-- The MCTP transport header between two coordinates (PRESUMED, log entry 19). -/
def mctpHeader (dst src : Nat) (first last : Bool) (seq : Nat) (owner : Bool) : List Byte :=
  natLe 1 1 ++ natLe 1 (Config.endpointId dst) ++ natLe 1 (Config.endpointId src) ++
  natLe 1 (128 * b2n first + 64 * b2n last + 16 * (seq % 4) + 8 * b2n owner)

/-- The VC of a request and of a response (R241); among MCTP packets the tag owner tells requests from responses (R251). -/
def vcOf (h : List Byte) : Nat :=
  if hOpcode h = svMCTP then (if hResponse h || !tagOwner (h.drop 48) then 7 else 3) else (if hResponse h then 4 else 0) + hFlow h % 3

/-! ### The I/O-die bridge (R239) -/

/-- The I/O die of a port, as mesh node (R16). -/
def portDie (p : Nat) : Nat := if p < 6 then 16 else 17
/-- The bridge's buffers: direction 0 from W, 1 from E; end 0 where it is entered, 1 where it is left. -/
def bridgeKey (dir fin vc : Nat) : Nat := dir * 16 + fin * 8 + vc
def bridgeBuf (s : Block) (dir fin vc : Nat) : List BridgeFlit := Tab.get s.ni.bridge [] (bridgeKey dir fin vc)
def setBridge (s : Block) (dir fin vc : Nat) (l : List BridgeFlit) : Block :=
  { s with ni := { s.ni with bridge := Tab.put s.ni.bridge [] (bridgeKey dir fin vc) l } }

/-- A packet from one port to another lies on another die than it leaves by. -/
def crosses (input : Option (Fin 12)) (q : Nat) : Bool :=
  match input with
  | some p => portDie p != portDie q
  | none => false

/-- What stands in the way of a packet to a port: its transmit queue, or the near end of the bridge, 256 flits each (DEDUCED, log entry 32). -/
def roomTo (s : Block) (input : Option (Fin 12)) (q vc n : Nat) : Bool :=
  if crosses input q then decide ((bridgeBuf s (1 - q / 6) 0 vc).length + n ≤ 256) else decide ((Tab.get (prt s q).txVc [] vc).length + n ≤ 256)

/-- A packet that came in by a port goes to another: at once, or by the bridge; `back` is the port recorded with a request (R234). -/
def forwardTo (s : Block) (input : Option (Fin 12)) (q vc : Nat) (back : Option (Fin 12)) (pkt : List Byte) : Block :=
  if crosses input q then
    let fl := packetFlits (hFlits pkt) pkt
    let l := (fl.zip (List.range fl.length)).map (fun x => (⟨q, x.2 + 1 == fl.length, ⟨back, x.2 == 0, x.1⟩⟩ : BridgeFlit))
    setBridge s (1 - q / 6) 0 vc (bridgeBuf s (1 - q / 6) 0 vc ++ l)
  else enqueueVc s q vc back pkt

/-- XOFF of the bridge follows the far buffer, as R233 has it of a port, with no flight of its own (DESIGN CHOICE, log entry 32). -/
def bridgeXoffOf (s : Block) (dir vc : Nat) : Bool :=
  let free := 256 - (bridgeBuf s dir 1 vc).length
  if free ≤ 24 then true else if 56 ≤ free then false else bit (Tab.get s.ni.bridgeXoff 0 dir) vc
def showBridge (s : Block) (dir : Nat) : Block :=
  let m := (List.range 8).foldl (fun m v => m + b2n (bridgeXoffOf s dir v) * 2 ^ v) 0
  { s with ni := { s.ni with bridgeXoff := Tab.put s.ni.bridgeXoff 0 dir m } }

/-- The packet at the head of a far buffer, once it is whole, joins its port's queue if there is room. -/
def bridgeOut (dir vc : Nat) (s : Block) : Block :=
  let l := bridgeBuf s dir 1 vc
  let n := (l.takeWhile (fun f => !f.last)).length + 1
  match l.head? with
  | some f =>
    if n ≤ l.length ∧ (Tab.get (prt s f.port).txVc [] vc).length + n ≤ 256 then
      let q := Tab.get (prt s f.port).txVc [] vc ++ (l.take n).map (fun b => b.flit)
      telHigh (setPort (setBridge s dir 1 vc (l.drop n)) f.port { prt s f.port with txVc := Tab.put (prt s f.port).txVc [] vc q })
        f.port (20 + vc) q.length
    else s
  | none => s

/-- A flit crosses the bridge in one direction: management before service, responses before requests (R232) (DEDUCED, log entry 32). -/
def bridgeMove (dir : Nat) (s : Block) : Block :=
  let s := match [7, 3, 4, 5, 6, 0, 1, 2].find? (fun v => !(bridgeBuf s dir 0 v).isEmpty && !bit (Tab.get s.ni.bridgeXoff 0 dir) v) with
    | some v => setBridge (setBridge s dir 1 v (bridgeBuf s dir 1 v ++ (bridgeBuf s dir 0 v).take 1)) dir 0 v ((bridgeBuf s dir 0 v).drop 1)
    | none => s
  showBridge (overN 8 (bridgeOut dir) s) dir

/-- 64 GB/s each way: a flit of 256 bytes every four ticks. -/
def tickBridge (s : Block) : Block := if now s % 4 = 0 then overN 2 bridgeMove s else s

/-- A header with its CTRL byte replaced. -/
def withCtrl (pkt : List Byte) (c : Nat) : List Byte := pkt.set 6 (BitVec.ofNat 8 c)

/-! ### Completion of this module's own requests -/

/-- The requester receives a status and the data: it finds them at its next completion. A request of management firmware ends here. -/
def completeRequest (s : Block) (token status : Nat) (data : List Byte) : Block :=
  let s := { s with ni := { s.ni with requests := s.ni.requests.filter (fun r => r.token != token || r.requester != 0) } }
  { s with ni := { s.ni with requests := s.ni.requests.map (fun r =>
      if r.token = token ∧ r.done = none then { r with done := some status, data := data } else r) } }

/-- A request of this module that has its answer. -/
def answered (s : Block) (token : Nat) : Option Pending := s.ni.requests.find? (fun r => r.token == token && r.done != none)

/-- The requester has taken its answer. -/
def dropRequest (s : Block) (token : Nat) : Block :=
  { s with ni := { s.ni with requests := s.ni.requests.filter (fun r => r.token != token) } }

/-! ### Responses (R241, R234) -/

/-- The response to a request, from this module. -/
def responseOf (s : Block) (req : List Byte) (status addr : Nat) (data : List Byte) : List Byte :=
  mkHeader (hSrc req) (rd s Reg.NI.NI_RANK_RANK) (hMid req) (setBit (hCtrl req) 2 true) (hOpcode req) (hToken req) (hFlow req) status addr
    data.length (hSrcCoord req) (selfCoord s) ++ data

/-- A response leaves for the port its request came in by; the module's own request completes. -/
def respond (s : Block) (src : Option (Fin 12)) (req : List Byte) (status : Nat) (data : List Byte) : Block :=
  let s := when (status == stNOROUTE) (fun t => incSat t Reg.NI.NO_ROUTES 1) s
  match src with
  | none => completeRequest s (hToken req) status data
  | some p =>
    let pkt := responseOf s req status (hAddr req) data
    if flag s (Reg.LNK.LINK_STATUS_UP (lnkPage p)) then enqueueVc s p (vcOf pkt) none pkt else s

/-! ### Routing a request (R246) -/

/-- What a hop does with a request. -/
inductive Hop where
  | deliver
  | forward (p : Nat) (pkt : List Byte)
  | noRoute
deriving DecidableEq, Repr

def route (s : Block) (pkt : List Byte) : Hop :=
  if hCoord pkt then
    if hDstCoord pkt = selfCoord s then .deliver
    else match portToward s (hDstCoord pkt) (hFlow pkt) true with
      | some p => .forward p pkt
      | none => .noRoute
  else
    let v := hEpoch pkt
    if !tableUsable s v then .noRoute
    else
      let atMid := !hLeg pkt && rankCoord s v (hMid pkt) == selfCoord s
      let pkt := if atMid then withCtrl pkt (setBit (hCtrl pkt) 0 true) else pkt
      let t := rankCoord s v (if hLeg pkt then hDst pkt else hMid pkt)
      if t = selfCoord s then .deliver
      else match portToward s t (hFlow pkt) false with
        | some p => .forward p pkt
        | none => .noRoute

/-! ### Originating (R235, R240, R245) -/

/-- A request leaves this module. The counter of its token advances for every request, so that each is distinct (DESIGN CHOICE, log entry 14); its
first flow number is that counter. -/
def originate (s : Block) (op dst addr len : Nat) (data : List Byte) (requester : Nat) (byCoord : Option Nat) : Block × Nat :=
  let rank := rd s Reg.NI.NI_RANK_RANK
  let cnt := s.ni.counter
  let token := rank + 65536 * cnt
  let s := { s with ni := { s.ni with
    counter := (cnt + 1) % 65536
    requests := if op = svMCTP ∧ !tagOwner data then s.ni.requests else s.ni.requests ++ [⟨token, now s, requester, none, []⟩] } }
  let s := incSat s Reg.NI.REQ_SENT 1
  let idem := 8 * b2n (idempotent op)
  let send := fun (flow mid ctrl dstC : Nat) =>
    let h := mkHeader dst rank mid ctrl op token flow 0 addr len dstC (selfCoord s)
    let pkt := h.set 14 (BitVec.ofNat 8 (flitsFor data.length)) ++ data
    match route s pkt with
    | .deliver => { s with ni := { s.ni with inbox := s.ni.inbox ++ [(none, pkt)] } }
    | .forward p q => enqueueVc s p (vcOf q) none q
    | .noRoute => completeRequest (incSat s Reg.NI.NO_ROUTES 1) token stNOROUTE []
  match byCoord with
  | some c => (send cnt rank (idem + 16) c, token)
  | none =>
    match chooseRoute s rank dst cnt with
    | some (f, mid) => (send f mid (idem + 2 * activeTable s) 0, token)
    | none => (completeRequest (incSat s Reg.NI.NO_ROUTES 1) token stNOROUTE [], token)

/-! ### The flip of the rank tables (R244) -/

/-- The versions exchange; the old one stays usable for 1 ms. -/
def applyRtFlip (s : Block) : Block :=
  let a := activeTable s
  let s := wr (wr (wr (wr s Reg.NI.NI_TABLE_ACTIVE (1 - a)) Reg.NI.NI_TABLE_READY 0) Reg.NI.NI_TABLE_TAIL 1) Reg.NI.NI_CMD_FLIP 0
  { s with ni := { s.ni with tailEnd := now s + 1000000, flipPending := false } }

end Sys2Proof.Machine
end

