-- ==== Sys2Proof/Machine/Vector.lean ====
section
/-! DEFINITION. The vector engine: elementwise operations, conversions, anchored registers, reductions, the generator
(R152–R159, R278, R427). -/

namespace Sys2Proof.Machine

/-! ### Lanes -/

/-- `cnt` little-endian codes of w bytes. -/
def codesLe (w : Nat) : Nat → List Byte → List Nat
  | 0, _ => []
  | n + 1, bs => leNat (bs.take w) :: codesLe w n (bs.drop w)

/-- The bytes of codes, w each. -/
def bytesLe (w : Nat) (l : List Nat) : List Byte := l.flatMap (natLe w)

/-- An operand in ASP, in 1 KiB units. -/
def vxAccess (u len : Nat) (w : Bool) : Access := ⟨1, 1024 * u, len, w, none⟩

/-! ### Anchored registers (R155, R158) -/

def arLanes (s : Block) (n r : Nat) : List (Nat × Int) := Tab.get (core s (engCluster n) (engCoreOf n)).ars [] r
def setArLanes (s : Block) (n r : Nat) (l : List (Nat × Int)) : Block :=
  let c := engCluster n
  let k := engCoreOf n
  setCore s c k { core s c k with ars := Tab.put (core s c k).ars [] r l }
def arAnchor (s : Block) (n r : Nat) : Int := toSigned 10 (rd s (Reg.VX.VACC_HDR_ANCHOR (engBlock n) r))

/-- Values added lane by lane from lane i on; whether a lane was clamped. -/
def addLanes : Nat → List (Nat × Int) → List Int → List (Nat × Int) × Bool
  | _, t, [] => (t, false)
  | i, t, v :: r =>
    let c := clampWin (Tab.get t 0 i + v)
    let q := addLanes (i + 1) (Tab.put t 0 i c.1) r
    (q.1, c.2 || q.2)

/-- A raw row's values at the register's anchor (R155): values, whether one was clamped, how many were inexact. -/
def alignRow (rowAnchor anchor : Int) (vs : List Int) : List Int × Bool × Nat :=
  if anchor ≤ rowAnchor then
    let l := vs.map (fun v => clampWin (v * ((2 ^ (rowAnchor - anchor).toNat : Nat) : Int)))
    (l.map (fun p => p.1), l.any (fun p => p.2), 0)
  else
    let l := vs.map (fun v => shrRne v (anchor - rowAnchor).toNat)
    (l.map (fun p => p.1), false, (l.filter (fun p => p.2)).length)

/-- Two raw rows added: lanes 0–127 and 128–255. The flag says that a lane was clamped or that a row's tag has OVF or NARROW_OVF: R155 sets the
register's OVF then. It raises VX_ACC_OVERFLOW too, for a tag with OVF alone as for one with NARROW_OVF, where R159 names clamps and non-finite
values and the Coincidences of section 06 a NARROW_OVF tag (DESIGN CHOICE, log entry 8). -/
def addRows (anchor : Int) : Nat → List (Nat × Int) → List (Int × Bool × List Int) → List (Nat × Int) × Bool × Nat
  | _, t, [] => (t, false, 0)
  | i, t, (ra, fl, vs) :: r =>
    let a := alignRow ra anchor vs
    let q := addLanes i t a.1
    let z := addRows anchor (i + 128) q.1 r
    (z.1, fl || a.2.1 || q.2 || z.2.1, a.2.2 + z.2.2)

/-- OVF set where a lane clamped or a row was flagged, and inexact entries counted. -/
def arNote (s : Block) (n r : Nat) (ovf : Bool) (inexact : Nat) : Block :=
  let b := engBlock n
  when ovf (fun t => wr t (Reg.VX.VACC_HDR_OVF b r) 1) (incSat s (Reg.VX.VACC_UNDERFLOW b r) inexact)

/-- The effect of an anchored operation on its register; whether it overflowed. -/
def applyAr (s : Block) (n r : Nat) (e : ArEffect) : Block × Bool :=
  let b := engBlock n
  match e with
  | .clr a =>
    (setArLanes (wr (wr (wr s (Reg.VX.VACC_HDR_ANCHOR b r) a) (Reg.VX.VACC_HDR_OVF b r) 0) (Reg.VX.VACC_UNDERFLOW b r) 0) n r [], false)
  | .add lanes =>
    let l := lanes.map (fun v => enterWin (arAnchor s n r) false (num32 v))
    let q := addLanes 0 (arLanes s n r) (l.map (·.1))
    let ovf := l.any (·.2.2) || q.2
    (arNote (setArLanes s n r q.1) n r ovf (l.filter (·.2.1)).length, ovf)
  | .rows rs =>
    let q := addRows (arAnchor s n r) 0 (arLanes s n r) rs
    (arNote (setArLanes s n r q.1) n r q.2.1 q.2.2, q.2.1)
  | .lane =>
    let c := clampWin ((arLanes s n r).foldl (fun a p => a + p.2) 0)
    (arNote (setArLanes s n r (Tab.put [] 0 0 c.1)) n r c.2 0, c.2)

/-! ### Elementwise operations (R152–R154) -/

/-- The flags of a list of lane results, as sticky bits. -/
def vxFlags (l : List VRes) : Nat :=
  b2n (l.any (·.invalid)) * 2 ^ ErrBit.VX.VX_INVALID + b2n (l.any (·.divzero)) * 2 ^ ErrBit.VX.VX_DIVZERO +
  b2n (l.any (·.overflow)) * 2 ^ ErrBit.VX.VX_OVERFLOW

/-- The 256 FP32 lanes at a 1 KiB unit of ASP. -/
def lanes32 (s : Block) (n u : Nat) : List Nat := codesLe 4 256 (devRead s (spaceAddr n 1 (1024 * u)) 1024)

/-- Issue of a VOP with function f: its accesses, and its effect computed from what it reads as it issues; an earlier operation of the
engine that has not completed is not seen (R84). -/
def issueVop (s : Block) (n f : Nat) (acc : Nat → List Access) (eff : Block → Nat → Effect) : Block :=
  tryIssue s n (fun w => fOpcode w == opVOP && fFunc w == f) (waitOk s n) (fun _ => false)
    (fun w => (acc w).flatMap (accessCauses s n w)) (fun w => goSimple s n w (eff s w))

/-- The accesses of an operation with FP32 sources and destination. -/
def acc1 (w : Nat) : List Access := [vxAccess (fVa w) 1024 false, vxAccess (fVd w) 1024 true]
def acc2 (w : Nat) : List Access := [vxAccess (fVa w) 1024 false, vxAccess (fVb w) 1024 false, vxAccess (fVd w) 1024 true]
def acc3 (w : Nat) : List Access := vxAccess (fVc w) 1024 false :: acc2 w

/-- The write of FP32 results. -/
def vxOut (n w : Nat) (l : List VRes) : Effect :=
  .writes [(spaceAddr n 1 (1024 * fVd w), bytesLe 4 (l.map (·.code)))] (vxFlags l)

def vop1 (f : Nat) (g : Nat → VRes) (s : Block) (n : Nat) : Block :=
  issueVop s n f acc1 (fun t w => vxOut n w ((lanes32 t n (fVa w)).map g))

def vop2 (f : Nat) (g : Nat → Nat → VRes) (s : Block) (n : Nat) : Block :=
  issueVop s n f acc2 (fun t w => vxOut n w (((lanes32 t n (fVa w)).zip (lanes32 t n (fVb w))).map (fun p => g p.1 p.2)))

def vop3 (f : Nat) (g : Nat → Nat → Nat → VRes) (s : Block) (n : Nat) : Block :=
  issueVop s n f acc3 (fun t w => vxOut n w
    (((lanes32 t n (fVa w)).zip ((lanes32 t n (fVb w)).zip (lanes32 t n (fVc w)))).map (fun p => g p.1 p.2.1 p.2.2)))

/-- Compare under the predicate in [102:100] (R427) (DESIGN CHOICE, log entry 8). -/
def doVcmp (s : Block) (n : Nat) : Block :=
  issueVop s n 0x0E acc2 (fun t w => vxOut n w (((lanes32 t n (fVa w)).zip (lanes32 t n (fVb w))).map (fun p =>
    { code := (if cmpHolds (fVFmt w) p.1 p.2 then Config.compareTrue else Config.compareFalse) % 2 ^ 32 })))

/-- Bytes of an element of a code 0–4 of R141. -/
def narrowBytes (c : Nat) : Nat := if c ≤ 1 then 2 else 1

/-- Conversion to FP32 of 256 narrow codes (R152). -/
def doVcvtTo (s : Block) (n : Nat) : Block :=
  issueVop s n 0x10 (fun w => [vxAccess (fVa w) (256 * narrowBytes (fVFmt w)) false, vxAccess (fVd w) 1024 true]) (fun t w =>
    let k := narrowBytes (fVFmt w)
    let l := codesLe k 256 (devRead t (spaceAddr n 1 (1024 * fVa w)) (256 * k))
    vxOut n w (l.map (fun v => { code := toFp32 (fVFmt w) v })))

/-- Bytes of 256 lanes in a format of R141: MX vectors hold eight packed blocks, then eight scale bytes (R143). -/
def cvtBytes (c : Nat) : Nat := if c ≤ 1 then 512 else if c = 5 then 200 else if c = 6 then 136 else 256

/-- 32 lanes at a time. -/
def blocks32 : Nat → List Nat → List (List Nat)
  | 0, _ => []
  | n + 1, l => l.take 32 :: blocks32 n (l.drop 32)

/-- The bytes of lanes converted to a format; whether a finite lane rounded to an infinity (R154, R157). -/
def cvtLanes (c : Nat) (l : List Nat) : List Byte × Bool :=
  if c ≥ 5 then
    let bl := (blocks32 8 l).map (mxBlock c)
    (bl.flatMap (fun b => packCodes (elemBits c) b.2) ++ bl.map (fun b => BitVec.ofNat 8 b.1), false)
  else
    let r := l.map (fromFp32 c)
    (bytesLe (narrowBytes c) (r.map (·.1)), r.any (·.2))

def doVcvtFrom (s : Block) (n : Nat) : Block :=
  issueVop s n 0x11 (fun w => [vxAccess (fVa w) 1024 false, vxAccess (fVd w) (cvtBytes (fVFmt w)) true]) (fun t w =>
    let r := cvtLanes (fVFmt w) (lanes32 t n (fVa w))
    .writes [(spaceAddr n 1 (1024 * fVd w), r.1)] (b2n r.2 * 2 ^ ErrBit.VX.VX_OVERFLOW))

/-! ### Anchored operations (R155) -/

def doAclr (s : Block) (n : Nat) : Block :=
  issueVop s n 0x20 (fun _ => []) (fun _ w => .ar (fVAr w) (.clr (fVAnchor w)))

def doAacc (s : Block) (n : Nat) : Block :=
  issueVop s n 0x21 (fun w => [vxAccess (fVa w) 1024 false]) (fun t w =>
    .ar (fVAr w) (.add (lanes32 t n (fVa w))))

/-- Raw rows lie one after the other: two of 128 values (R151). Their width is the operation's field [107:106]; R427 gives that field for
ASTORE, and R151 writes the width into the tag too, which ALOAD here does not read (DESIGN CHOICE, log entry 8). -/
def doAload (s : Block) (n : Nat) : Block :=
  issueVop s n 0x22 (fun w => [vxAccess (fVa w) (2 * rawRowBytes (fVWidth w)) false]) (fun t w =>
    let k := rawRowBytes (fVWidth w)
    let bs := devRead t (spaceAddr n 1 (1024 * fVa w)) (2 * k)
    .ar (fVAr w) (.rows [readRawRow (fVWidth w) (bs.take k), readRawRow (fVWidth w) (bs.drop k)]))

def doAlane (s : Block) (n : Nat) : Block := issueVop s n 0x23 (fun _ => []) (fun _ w => .ar (fVAr w) .lane)

/-- Bytes of one converted lane of ACVT, by DRAIN's output codes. -/
def acvtBytes (o : Nat) : Nat := if o = 0 then 4 else if o ≤ 2 then 2 else 1

/-- The 256 lanes of a register. -/
def arVals (s : Block) (n r : Nat) : List Int := (List.range 256).map (Tab.get (arLanes s n r) 0)

/-- A code of a DRAIN output format is an infinity: E4M3 has none. -/
def infOut (o v : Nat) : Bool :=
  if o = 0 then v % 2 ^ 31 == 0x7F800000 else if o = 1 then v % 2 ^ 15 == 0x7F80 else if o = 2 then v % 2 ^ 15 == 0x7C00
  else o == 4 && v % 128 == 0x7C

/-- ACVT: a lane, finite always, that rounds to an infinity sets VX_OVERFLOW (R154). -/
def doAcvt (s : Block) (n : Nat) : Block :=
  issueVop s n 0x24 (fun w => [vxAccess (fVd w) (256 * acvtBytes (fVFmt w)) true]) (fun t w =>
    let l := (arVals t n (fVAr w)).map (fun v => convertWin (fVFmt w) v (arAnchor t n (fVAr w)))
    .writes [(spaceAddr n 1 (1024 * fVd w), bytesLe (acvtBytes (fVFmt w)) l)] (b2n (l.any (infOut (fVFmt w))) * 2 ^ ErrBit.VX.VX_OVERFLOW))

def doAstore (s : Block) (n : Nat) : Block :=
  issueVop s n 0x25 (fun w => [vxAccess (fVd w) (2 * rawRowBytes (fVWidth w)) true]) (fun t w =>
    let b := engBlock n
    let r := fVAr w
    let row := fun vs => rawRow (fVWidth w) 0 (arAnchor t n r) (flag t (Reg.VX.VACC_HDR_OVF b r)) (rd t (Reg.VX.VACC_UNDERFLOW b r)) vs
    let vs := arVals t n r
    let r0 := row (vs.take 128)
    let r1 := row (vs.drop 128)
    .writes [(spaceAddr n 1 (1024 * fVd w), r0.1 ++ r1.1)] (b2n (r0.2 || r1.2) * 2 ^ ErrBit.VX.VX_NARROW_OVERFLOW))

/-! ### FP32 reductions (R156) -/

/-- Adjacent pairs added: one level of the tree, with its flags. -/
def treeLevel : List VRes → List VRes
  | a :: b :: r => let x := vAdd a.code b.code
    { x with invalid := x.invalid || a.invalid || b.invalid, overflow := x.overflow || a.overflow || b.overflow } :: treeLevel r
  | l => l

/-- Eight levels over 256 lanes. -/
def treeSum : Nat → List VRes → List VRes
  | 0, l => l
  | k + 1, l => treeSum k (treeLevel l)

def doFred (s : Block) (n : Nat) : Block :=
  issueVop s n 0x30 acc1 (fun t w =>
    vxOut n w (treeSum 8 ((lanes32 t n (fVa w)).map (fun v => { code := v })) ++ List.replicate 255 { code := 0 }))

def doFmacc (s : Block) (n : Nat) : Block :=
  issueVop s n 0x31 (fun w => vxAccess (fVd w) 1024 false :: acc1 w) (fun t w =>
    vxOut n w (((lanes32 t n (fVd w)).zip (lanes32 t n (fVa w))).map (fun p => vAdd p.1 p.2)))

/-! ### The generator (R278) -/

/-- The 64-bit value of a session, position and draw under a seed. -/
def genZ (seed session pos d : Nat) : Nat :=
  let m := 2 ^ 64
  let z := xor (xor (xor seed (session * 2 ^ 40 % m)) (pos * 16 % m)) d
  let z := xor z (z / 2 ^ 30) * 0xBF58476D1CE4E5B9 % m
  let z := xor z (z / 2 ^ 27) * 0x94D049BB133111EB % m
  xor z (z / 2 ^ 31)

/-- u: the top 24 bits times 2^−24, exact in FP32. -/
def genU (seed session pos d : Nat) : Nat := (ret32 false (genZ seed session pos d / 2 ^ 40) (-24) false).code

def doRand (s : Block) (n : Nat) : Block :=
  issueVop s n 0x40 acc2 (fun t w => vxOut n w (((lanes32 t n (fVa w)).zip (lanes32 t n (fVb w))).map (fun p =>
    { code := genU (rd t Reg.SES.GEN_SEED) p.1 p.2 (fVFmt w % 2) })))

/-! ### Meanings -/

def execVadd (e : CoreEng) := run (fun s => vop2 0x00 vAdd s (ceNum e))
def execVsub (e : CoreEng) := run (fun s => vop2 0x01 vSub s (ceNum e))
def execVmul (e : CoreEng) := run (fun s => vop2 0x02 vMul s (ceNum e))
def execVfma (e : CoreEng) := run (fun s => vop3 0x03 vFma s (ceNum e))
def execVdiv (e : CoreEng) := run (fun s => vop2 0x04 vDiv s (ceNum e))
def execVsqrt (e : CoreEng) := run (fun s => vop1 0x05 vSqrt s (ceNum e))
def execVrecip (e : CoreEng) := run (fun s => vop1 0x06 vRecip s (ceNum e))
def execVrsqrt (e : CoreEng) := run (fun s => vop1 0x07 vRsqrt s (ceNum e))
def execVexp2 (e : CoreEng) := run (fun s => vop1 0x08 vExp2 s (ceNum e))
def execVlog2 (e : CoreEng) := run (fun s => vop1 0x09 vLog2 s (ceNum e))
def execVmin (e : CoreEng) := run (fun s => vop2 0x0A vMin s (ceNum e))
def execVmax (e : CoreEng) := run (fun s => vop2 0x0B vMax s (ceNum e))
def execVabs (e : CoreEng) := run (fun s => vop1 0x0C vAbs s (ceNum e))
def execVneg (e : CoreEng) := run (fun s => vop1 0x0D vNeg s (ceNum e))
def execVcmp (e : CoreEng) := run (fun s => doVcmp s (ceNum e))
/-- Selection: the spec states no condition on source C, so which source a lane takes is Config.selectsA of it (DESIGN CHOICE, log entry 8); a
NaN comes out as the NaN of R154. -/
def vSel (a b c : Nat) : VRes :=
  let v := if Config.selectsA c then a else b
  { code := if (num32 v).isNan then nan32 else v }
/-- DESIGN CHOICE, log entry 8. -/
def execVsel (e : CoreEng) := run (fun s => vop3 0x0F vSel s (ceNum e))
def execVcvtTo (e : CoreEng) := run (fun s => doVcvtTo s (ceNum e))
def execVcvtFrom (e : CoreEng) := run (fun s => doVcvtFrom s (ceNum e))
def execAclr (e : CoreEng) := run (fun s => doAclr s (ceNum e))
def execAacc (e : CoreEng) := run (fun s => doAacc s (ceNum e))
def execAload (e : CoreEng) := run (fun s => doAload s (ceNum e))
def execAlane (e : CoreEng) := run (fun s => doAlane s (ceNum e))
def execAcvt (e : CoreEng) := run (fun s => doAcvt s (ceNum e))
def execAstore (e : CoreEng) := run (fun s => doAstore s (ceNum e))
def execFred (e : CoreEng) := run (fun s => doFred s (ceNum e))
def execFmacc (e : CoreEng) := run (fun s => doFmacc s (ceNum e))
def execRand (e : CoreEng) := run (fun s => doRand s (ceNum e))

end Sys2Proof.Machine
end

