-- ==== Sys2Proof/Machine/MoveGather.lean ====
section
/-! DEFINITION. The move engines (R97, R104–R109, R249, R427), the completion of operations in issue order (R84, R94, R96), and the
instruction-bank alias (R97). -/

namespace Sys2Proof.Machine

/-! ### The instruction-bank alias (R97, R202) -/

/-- The inactive bank of an engine. -/
def inactiveBank (s : Block) (n : Nat) : Nat := 1 - activeBank s n

/-- Bytes written through the alias: READY clears; a bank in its tail takes nothing and IMEM_ACTIVE_WRITE is set. -/
def aliasWrite (s : Block) (n off : Nat) (data : List Byte) : Block :=
  if (eng s n).tailBank = some (inactiveBank s n) then raise s (engRec n) ErrBit.ENG.IMEM_ACTIVE_WRITE
  else
    let e := eng s n
    let a := (2 * n + inactiveBank s n) * 65536 + off
    let s := setEng s n { e with
      aliasAt := now s, aliasLog := (off, imemRead s a data.length, data) :: (if e.aliasAt = now s then e.aliasLog else []) }
    wr (imemWr s a data) (Reg.ENG.BANK_CTRL_READY (engBlock n)) 0

/-- The alias writes of a bank exchange's own tick land in the bank that is inactive after it (R100); made once the banks are exchanged. -/
def moveAlias (s : Block) (n : Nat) : Block :=
  let e := eng s n
  if e.aliasAt ≠ now s then s
  else
    let s := overL e.aliasLog (fun w t => imemWr t ((2 * n + activeBank s n) * 65536 + w.1) w.2.1) s
    let s := overL e.aliasLog.reverse (fun w t => imemWr t ((2 * n + inactiveBank s n) * 65536 + w.1) w.2.2) s
    setEng s n { eng s n with aliasLog := [] }

/-! ### Addresses -/

/-- The space code of a MOVE or GATHER local operand is that of Access; a device address, weight-relative where WREL is set. -/
def wptrAdd (s : Block) (w : Nat) : Nat := if fWRel w then rd s Reg.HDB.WPTR * 65536 else 0
def devAccess (s : Block) (w a len : Nat) (wrt : Bool) : Access :=
  ⟨3, a + wptrAdd s w, len, wrt, if fWRel w then some (wptrAdd s w) else none⟩

/-! ### Races (R108, R109) -/

/-- A member of the race is posted by the value that the wait names. -/
def racePosted (s : Block) (n w slot : Nat) : Bool := atLeast16 (rd s (fPosted (tokPage n 1) 1 slot)) (fWVal w)

/-- The slot whose data a move engine takes (R108): the one posted; where both are, the one posted in the earlier tick, and A in one tick (DEDUCED, log entry 20). -/
def raceWinner (s : Block) (n w p : Nat) : Nat :=
  let t := fun i => Tab.get (clus s (engCluster n)).postTimes 0 i
  if racePosted s n w (fWSlot w) && !(racePosted s n w p && decide (t p < t (fWSlot w))) then fWSlot w else p

/-- A source in A's region, moved to the same place in B's region when B won (DEDUCED, log entry 20). -/
def raceSource (s : Block) (n w p a : Nat) : Nat :=
  let pg := storePage (engCluster n)
  let ra := spaceAddr n 2 (tokBase s pg 1 (fWSlot w))
  if raceWinner s n w p = p ∧ ra ≤ a ∧ a < ra + tokLen s pg 1 (fWSlot w) then spaceAddr n 2 (tokBase s pg 1 p) + (a - ra) else a

/-- A race of store slots on its members' cores (R109): each slot's core is the one that last posted it; a member not yet posted has lost, and is
counted as it posts (`noteLoser`) (DEDUCED, log entry 20). -/
def raceCounts (s : Block) (c a b winner : Nat) : Block :=
  let count := fun (slot : Nat) (t : Block) =>
    match Tab.get (clus t c).posters 0 slot with
    | 0 => t
    | k + 1 =>
      if !tokFull s (storePage c) 1 slot then t
      else if slot = winner then incSat t (Reg.COR.RACE_WINS (corPage c k)) 1 else incSat t (Reg.COR.RACE_LOSSES (corPage c k)) 1
  count b (count a s)

/-! ### MOVE -/

/-- Source and destination device addresses of a MOVE. -/
def moveDev (s : Block) (w : Nat) : Nat := fMvDev w * 256 + wptrAdd s w
def moveLocal (n w : Nat) : Nat := spaceAddr n (fMvSpace w) (fMvLocal w)
def moveSrc (s : Block) (n w : Nat) : Nat := if fMvDir w = 0 then moveDev s w else moveLocal n w
def moveDst (s : Block) (n w : Nat) : Nat := if fMvDir w = 0 then moveLocal n w else moveDev s w

/-- What an operand read from HBM or DDR5 records on its unit's page: every uncorrectable block, every corrected one (R173, R174, R181). -/
def noteOperand (s : Block) (a len : Nat) : Block :=
  match unitOf s a with
  | some u => noteUes (noteCes s u a len) u ErrBit.HBM.UE_PLAN (badBlocks s (a / 64 * 64) (ceilDiv (a % 64 + len) 64))
  | none => s

/-- A correctable error in an operand of HBM or DDR5 (DESIGN CHOICE, log entry 24). -/
def noteCe (s : Block) (a len : Nat) : Block :=
  match unitOf s a with
  | some u => noteCes s u a len
  | none => s

/-- An operand's uncorrectable error has just halted the engine. -/
def haltedOnData (s t : Block) (n : Nat) : Bool :=
  engState s n == 2 && engState t n == 4 && rd t (Reg.ENG.HALT_REASON (engBlock n)) == rsDATAUE
def noteHalt (s t : Block) (n a len : Nat) : Block := if haltedOnData s t n then noteOperand t a len else t

/-- The next 256 bytes of a move's source (R84). -/
def copyUnit : UnitFn := fun s _ x i =>
  match x.effect with
  | .copy src dst data => (s, .copy src dst (data ++ devRead s (src + 256 * i) 256))
  | .race src dst data p => (s, .race src dst (data ++ devRead s (src + 256 * i) 256) p)
  | .imload m off src data => (s, .imload m off src (data ++ devRead s (src + 256 * i) 256))
  | e => (s, e)

/-- MOVE (R426, R427), and as a race's consumer the partner's slot beside its own wait (R108). The move path takes 256 bytes a cycle. -/
def doMove (s : Block) (n : Nat) (partner : Option Nat) : Block :=
  let isRace := fun w => partner.isSome && fWaitK w == 1 && fWSpace w == 1
  let t := tryIssue s n (fun w => fOpcode w == opMOVE) (fun w => waitOkRace s n w partner) (fun _ => false)
    (fun w => accessCauses s n w (devAccess s w (fMvDev w * 256) (256 * fMvLen w) (fMvDir w == 1)) ++
      accessCauses s n w ⟨fMvSpace w, fMvLocal w, 256 * fMvLen w, fMvDir w == 0, none⟩)
    (fun w =>
      let p := partner.getD 0
      let src := if isRace w then raceSource s n w p (moveSrc s n w) else moveSrc s n w
      let eff := if isRace w then Effect.race src (moveDst s n w) [] p else Effect.copy src (moveDst s n w) []
      let s := when (isRace w) (fun t => raceCounts t (engCluster n) (fWSlot w) p (raceWinner t n w p)) s
      advance (pushReads (noteCe s src (256 * fMvLen w)) n w (nextOp s n) 1 (issueAt s n + fMvLen w) (fMvLen w) eff copyUnit) n (nextOp s n))
  let w := fetchWord s n (activeBank s n) (nextOp s n)
  let t := noteHalt s t n (moveSrc s n w) (256 * fMvLen w)
  if engState s n = 2 ∧ engState t n = 3 then setEng t n { eng t n with partner := partner } else t

/-! ### GATHER (R104–R107) -/

def gatherDesc (s : Block) (n w : Nat) : GDesc :=
  let b := engBlock n
  let d := fGaDesc w
  let u := rd s (Reg.MV.ELEM b d)
  ⟨rd s (Reg.MV.BASE b d) + wptrAdd s w, 32 * u, rd s (Reg.MV.STRIDE b d), rd s (Reg.MV.LIMIT b d), rd s (Reg.MV.TENANT b d),
    flag s (Reg.MV.DFLAGS_PAGE_CHECK b d), flag s (Reg.MV.DFLAGS_VALID b d) && 1 ≤ u && u ≤ 2048⟩

/-- Why an entry's element is not fetched (R105, R106): 0 it is, or is masked; 1 INDEX_RANGE bit only, 2 halt INDEX_RANGE, 3 halt ADDR_RANGE,
4 cross-tenant. The flag says that it is fetched. -/
def gatherCode (s : Block) (w : Nat) (d : GDesc) (e : Nat) : Nat × Bool :=
  let a := d.base + bits e 0 28 * d.stride
  let inside := if fWRel w then inWeights s (a - wptrAdd s w) d.size else inRanges s a d.size
  if bits e 29 3 ≠ 0 then (1, false)
  else if bit e 28 then (0, false)
  else if d.limit ≤ bits e 0 28 then (2, false)
  else if !inside then (3, false)
  else if d.check && !allOwned s d.tenant a d.size then (4, false)
  else (0, true)

/-- One entry: its bytes, zeros where it is not fetched, and its code. -/
def gatherEntry (s : Block) (w : Nat) (d : GDesc) (e : Nat) : List Byte × Nat :=
  let c := gatherCode s w d e
  (if c.2 then devRead s (d.base + bits e 0 28 * d.stride) d.size else zeros d.size, c.1)

/-- The halt that a list of entry results ends in: the lower code (R106, R112). -/
def gatherHalt (l : List Nat) : Nat := if l.contains 3 then rsADDR else if l.contains 2 then rsINDEX else 0

/-- The index entries of a GATHER as they stand. -/
def gatherIdx (s : Block) (n w : Nat) : List Nat :=
  codesLe 4 (fGaN w) (devRead s (spaceAddr n (1 + fGaISpace w) (fGaIAddr w)) (4 * fGaN w))

/-- The elements that a GATHER would fetch as it issues: an uncorrectable one is a cause found in the operation (R110, R112), for which it
writes nothing (DESIGN CHOICE, log entry 22). -/
def gatherFetched (s : Block) (n w : Nat) (d : GDesc) : List Nat :=
  ((gatherIdx s n w).filter (fun e => (gatherCode s w d e).2)).map (fun e => d.base + bits e 0 28 * d.stride)

/-- An entry of a GATHER as it is reached: its index, then its element (R84, R107). -/
def gatherUnit : UnitFn := fun s _ x i =>
  match x.effect with
  | .gather d idx dst data codes =>
    let r := gatherEntry s x.word d (devNum s (idx + 4 * i) 4)
    (s, .gather d idx dst (data ++ r.1) (codes ++ [r.2]))
  | e => (s, e)

/-- GATHER (R104–R107). -/
def doGather (s : Block) (n : Nat) : Block :=
  let t := tryIssue s n (fun w => fOpcode w == opGATHER) (waitOk s n) (fun _ => false)
    (fun w =>
      let d := gatherDesc s n w
      if !d.ok then [rsDESC]
      else accessCauses s n w ⟨1 + fGaISpace w, fGaIAddr w, 4 * fGaN w, false, none⟩ ++
        accessCauses s n w ⟨fGaSpace w, fGaDest w, d.size * fGaN w, true, none⟩ ++
        (if (gatherFetched s n w d).any (fun a => poisoned s a d.size) then [rsDATAUE] else []))
    (fun w =>
      let d := gatherDesc s n w
      let per := ceilDiv d.size 256
      let eff := Effect.gather d (spaceAddr n (1 + fGaISpace w) (fGaIAddr w)) (spaceAddr n (fGaSpace w) (fGaDest w)) [] []
      let s' := overL (gatherFetched s n w d) (fun a t => noteCe t a d.size) s
      advance (pushReads s' n w (nextOp s n) per (issueAt s n + max 1 (per * fGaN w)) (fGaN w) eff gatherUnit) n (nextOp s n))
  let w := fetchWord s n (activeBank s n) (nextOp s n)
  if haltedOnData s t n then
    let d := gatherDesc s n w
    overL ((gatherFetched s n w d).filter (fun a => poisoned s a d.size)) (fun a u => noteOperand u a d.size) t
  else t

/-- GATHER_COMPLETE: writes visible, flags; a halt takes effect here, with no post and every later operation abandoned (R110). -/
def doGatherComplete (s : Block) (n : Nat) : Block :=
  match oldest s n with
  | some x =>
    match x.effect with
    | .gather _ _ dst data codes =>
      if x.readyAt ≤ cycleOf s n then
        let s := applyWrites (popOldest s n) [(dst, data)]
        let s := when (codes.contains 4) (fun t => raise t (engRec n) ErrBit.ENG.XTENANT_GATHER) s
        let s := when (codes.contains 1 || codes.contains 2) (fun t => raise t (engRec n) ErrBit.ENG.INDEX_RANGE) s
        if gatherHalt codes = 0 then signal s n x.word
        else halt (setEng s n { eng s n with inflight := [] }) n (gatherHalt codes) x.addr
      else s
    | _ => s
  | none => s

/-! ### IMLOAD (R97, R427) and SVCREAD (R249) -/

def doImload (s : Block) (n : Nat) : Block :=
  let v := fetchWord s n (activeBank s n) (nextOp s n)
  noteHalt s (issueOp s n opIMLOAD (fun w =>
    let a := devAccess s w (fImDev w * 256) (256 * fImLen w) false
    (if a.lo < 0x80000000000 then [] else [rsADDR]) ++ accessCauses s n w a) (fun w =>
    let src := fImDev w * 256 + wptrAdd s w
    let eff := Effect.imload (engCore (engCluster n) (engCoreOf n) (fImEng w)) (256 * fImOff w) src []
    advance (pushReads (noteCe s src (256 * fImLen w)) n w (nextOp s n) 1 (issueAt s n + fImLen w) (fImLen w) eff copyUnit) n
      (nextOp s n))) n (fImDev v * 256 + wptrAdd s v) (256 * fImLen v)

/-- The local operand of an SVCREAD: ASP or the cluster store, in 256-byte units. -/
def svcAccess (w : Nat) : Access := ⟨1 + fSrSpace w, 256 * fSrLocal w, 32 * fSrLen w, true, none⟩

def doSvcread (s : Block) (n : Nat) : Block :=
  issueOp s n opSVCREAD (fun w => accessCauses s n w (svcAccess w)) (fun w =>
    let len := 32 * fSrLen w
    let r := originate s svREAD (fSrRank w) (256 * fSrAddr w) len [] (100 + n) none
    let s := r.1
    goSimple s n w (.svcread r.2 (spaceAddr n (1 + fSrSpace w) (256 * fSrLocal w)) len))

/-- What an SVCREAD writes: the data, or zeros with a non-zero status word (its place is left open, DESIGN CHOICE, log entry 6). -/
def svcBytes (len status : Nat) (data : List Byte) : List Byte :=
  if status = stOK then slice data 0 len
  else
    let o := Config.statusWordAt len % (len / 4) * 4
    zeros o ++ natLe 4 status ++ zeros (len - o - 4)

/-! ### Completion in issue order -/

/-- Sticky bits of a mask raised on an engine's record, lowest first. -/
def raiseMask (s : Block) (n mask : Nat) : Block := overN 16 (fun i t => if bit mask i then raise t (engRec n) i else t) s

/-- SHEET_END completes (R94, R96): the done bits, the tick, the next deadline; the engine waits at the gate. -/
def finishSheetEnd (s : Block) (n deadline : Nat) : Block :=
  let pg := corPage (engCluster n) (engCoreOf n)
  let s := setEng s n { eng s n with doneSheet := true, doneAt := sched s, nextDeadline := deadline }
  let s := wr s (Reg.COR.SHEET_DONE_ENGINES pg) (setBit (rd s (Reg.COR.SHEET_DONE_ENGINES pg)) (engKind n) true)
  let s := when (engKind n == 7) (fun t => wr t (Reg.COR.SHEET_DONE_CORE pg) 1) s
  when (engState s n == 3) (fun t => setWait t n 4 0) s

/-- A race's consumer releases both members' slots (R108); its own release of one of them is that release. -/
def finishRace (s : Block) (n w p : Nat) : Block :=
  let pg := tokPage n 1
  let s := releaseRace (releaseRace s pg 1 (fWSlot w)) pg 1 p
  if fSigK w = 2 ∧ fSSpace w = 1 ∧ (fSSlot w = fWSlot w ∨ fSSlot w = p) then s else signal s n w

/-- OP_COMPLETE: the oldest operation, where no command of its own completes it. -/
def doOpComplete (s : Block) (n : Nat) : Block :=
  match oldest s n with
  | none => s
  | some x =>
    let go := fun (f : Block → Block) => if x.readyAt ≤ cycleOf s n then signal (f (popOldest s n)) n x.word else s
    match x.effect with
    | .none => go id
    | .wload => go id
    | .writes ws flags => go (fun t => raiseMask (applyWrites t ws) n flags)
    | .copy _ dst data => go (fun t => applyWrites t [(dst, data)])
    | .race _ dst data p =>
      if x.readyAt ≤ cycleOf s n then finishRace (applyWrites (popOldest s n) [(dst, data)]) n x.word p else s
    | .ar r e => go (fun t =>
        let q := applyAr t n r e
        when q.2 (fun u => raise u (engRec n) ErrBit.VX.VX_ACC_OVERFLOW) q.1)
    | .imload m off _ data => go (fun t => aliasWrite t m off data)
    | .svcread token a len =>
      match answered s token with
      | some p => go (fun t => devWrite (dropRequest t token) a (svcBytes len (p.done.getD 0) p.data))
      | none => s
    | .sheetEnd d =>
      if engKind n = 7 ∧ !peersDone s n then (if engState s n = 3 then setWait s n 7 0 else s)
      else go (fun t => finishSheetEnd t n d)
    | _ => s

/-! ### The passage of cycles (R84, R139) -/

/-- The step of an operation that reads over several cycles. -/
def unitFn (x : InFlight) : UnitFn :=
  match x.effect with
  | .wload => wloadUnit
  | .mma .. => mmaUnit
  | .drain .. => drainUnit
  | .gather .. => gatherUnit
  | _ => copyUnit

/-- The k-th operation in flight takes the steps it reaches by now. -/
def reachOne (n k : Nat) (s : Block) : Block :=
  match (eng s n).inflight[k]? with
  | none => s
  | some x => reachOp (unitFn x) n k s

/-- An engine's operations in flight, oldest first, take the steps of the cycles that have begun; an array that its last MMA has left runs heavy
no more. -/
def reachEngine (n : Nat) (s : Block) : Block :=
  let s := overN (eng s n).inflight.length (reachOne n) s
  when (decide (n % 8 < 4) && flag s (Reg.MX.ARRAY_STATUS_HEAVY_NOW (engBlock n)) && decide ((eng s n).arrayFree ≤ cycleOf s n))
    (fun t => wr t (Reg.MX.ARRAY_STATUS_HEAVY_NOW (engBlock n)) 0) s

/-- Every engine of a cluster that has operations in flight, or an array still heavy. -/
def reachCluster (c : Nat) (s : Block) : Block :=
  overL ((s.engines.map (fun x => x.1)).filter (fun n => decide (n < 768) && engCluster n == c)) reachEngine s

/-! ### Deadlines (R95, R111, R328) -/

/-- The sheet's length in ticks (R31). -/
def sheetLen (s : Block) : Nat :=
  let cyc := (ream s).cycle
  let k := sheet s % max 1 cyc.length
  match cyc[k]? with
  | some e => e.blocks * 1024
  | none => 0

/-- The watchdog's check point of an engine. -/
def checkPoint (s : Block) (n : Nat) : Nat :=
  let b := engBlock n
  s.plan.sheetStart + min (rd s (Reg.ENG.DEADLINE b) + rd s (Reg.ENG.GRACE b)) (sheetLen s)

/-- An engine halted with END misses a later deadline: the fault is raised and HUNG set, HALT_REASON keeps END (R95). -/
def lateAfterEnd (s : Block) (n : Nat) : Block :=
  let s := raise s (engRec n) ErrBit.ENG.HUNG
  faultEng s clsHung n rsDEADLINE (rd s (Reg.ENG.HALT_ADDR_ADDR (engBlock n)))

def doDeadlineCheck (s : Block) (n : Nat) : Block :=
  let e := eng s n
  let cp := checkPoint s n
  if inJob s ∧ engInJob s n ∧ jobState s = 3 ∧ cp ≤ sched s ∧ !(e.doneSheet && decide (e.doneAt < cp)) then
    if engState s n = 4 then
      (if rd s (Reg.ENG.HALT_REASON (engBlock n)) = rsEND then lateAfterEnd s n else s)
    else haltNext s n rsDEADLINE
  else s

/-! ### Meanings -/

def execNop (e : CoreEng) := run (fun s => doNop s (ceNum e))
def execOpEnd (e : CoreEng) := run (fun s => doEnd s (ceNum e))
def execSheetEnd (e : CoreEng) := run (fun s => doSheetEnd s (ceNum e))
def execLoop (e : CoreEng) := run (fun s => doLoop s (ceNum e))
def execLoopPadEnd (e : CoreEng) := run (fun s => doPadEnd s (ceNum e))
def execSetcnt (e : CoreEng) := run (fun s => doSetcnt s (ceNum e))
def execBar (e : CoreEng) := run (fun s => doBar s (ceNum e))
def execBarrierComplete (cl : Fin 16) (k : Fin 6) (b : Fin 16) := run (fun s => doBarrierComplete s cl k b)
def execSync (e : CoreEng) := run (fun s => doSync s (ceNum e))
def execWaitSatisfied (e : CoreEng) := run (fun s => doWaitSatisfied s (ceNum e))
def execHint (e : CoreEng) := run (fun s => doHint s (ceNum e))
def execMma (e : CoreEng) := run (fun s => doMma s (ceNum e))
def execMmaComplete (e : CoreEng) := run (fun s => doMmaComplete s (ceNum e))
def execWload (e : CoreEng) := run (fun s => doWload s (ceNum e))
def execWloadBroadcastEnd (cl : Fin 16) (k : Fin 6) := run (fun s => doWloadEnd s cl k)
def execSwap (e : CoreEng) := run (fun s => doSwap s (ceNum e))
def execSwapEffect (cl : Fin 16) (k : Fin 6) := run (fun s => doSwapEffect s cl k)
def execDrain (e : CoreEng) := run (fun s => doDrain s (ceNum e))
def execDrainComplete (e : CoreEng) := run (fun s => doDrainComplete s (ceNum e))
def execMove (e : CoreEng) (partner : Option (Fin 128)) := run (fun s => doMove s (ceNum e) (partner.map (fun p => p.val)))
def execGather (e : CoreEng) := run (fun s => doGather s (ceNum e))
def execGatherComplete (e : CoreEng) := run (fun s => doGatherComplete s (ceNum e))
def execImload (e : CoreEng) := run (fun s => doImload s (ceNum e))
def execSvcread (e : CoreEng) := run (fun s => doSvcread s (ceNum e))
def execOpComplete (e : CoreEng) := run (fun s => doOpComplete s (ceNum e))
def execDeadlineCheck (e : CoreEng) := run (fun s => doDeadlineCheck s (ceNum e))

end Sys2Proof.Machine
end

