-- ==== Sys2Proof/Machine/Flight.lean ====
section
/-! DEFINITION. The calibrated flight latency of a port, its retry cover and its margin (R194–R197). -/

namespace Sys2Proof.Machine

/-- A quotient of integers; where it is no whole number its rounding is left open (DESIGN CHOICE, log entry 15). -/
def roundDiv (a : Int) (n : Nat) : Int :=
  if a % (n : Int) = 0 then a / (n : Int) else a / (n : Int) + (if Config.roundsUp a n then 1 else 0)

/-- The port's width: the smaller of the two directions' (R227). -/
def portWidth (s : Block) (p : Nat) : Nat := rd s (Reg.PRT.PORT_STATUS_WIDTH (prtPage p))

/-- The frame length W_w of R193, in pt; none at five lanes or fewer (DEDUCED, log entry 31). -/
def frameLen (w : Nat) : Nat := if w = 8 then 14 else if w = 7 then 8 else if w = 6 then 28 else 0

/-- The wire positions of a frame (R193); none at five lanes or fewer, where flits go back to back (R223). -/
def framePositions (w : Nat) : Nat := if w = 8 then 10 else if w = 7 then 5 else if w = 6 then 15 else 0

/-- The slot of the frame that a position sends, slot k going in position ceil(2k / τ), where τ is the frame's length over its positions; a
position that no slot has is a replay position (R193). -/
def positionSlot (w pos : Nat) : Option Nat :=
  (List.range (frameLen w / 2)).find? (fun k => ceilDiv (2 * k * framePositions w) (frameLen w) == pos)

/-- Where a position begins after the frame's first tick, in whole pt: p × τ (R193). -/
def positionTick (w pos : Nat) : Nat := frameLen w * pos / framePositions w
/-- What p × τ has beyond whole pt, in 1/64 pt; where that is no whole number its rounding is open (DESIGN CHOICE, log entry 15). -/
def positionFrac (w pos : Nat) : Nat :=
  (roundDiv ((64 * frameLen w * pos : Nat) : Int) (framePositions w) - (64 * positionTick w pos : Nat)).toNat

/-- The retry cycle C_r(w) for a flight f (R195). -/
def retryCycle (f w : Nat) : Nat := 2 * f + 8 + 2 * frameLen w

/-- RETRY_COVER (R196); 0 outside a job (R210). -/
def retryCover (s : Block) (p : Nat) : Nat :=
  let pg := prtPage p
  let fb := rd s (Reg.PRT.FLIGHT_BUDGET pg)
  let w := portWidth s p
  if w < 6 ∨ fb = 0 ∨ !flag s (Reg.PRT.PORT_STATUS_IN_JOB pg) then 0
  else min 7 ((rd s (Reg.PRT.RELEASE_ALLOW pg) + fb - rd s (Reg.PRT.FLIGHT_CAL pg)) / retryCycle fb w)

/-- A receive lane's code in LANE_STATE (R238): 0 off, 1 working, 2 degraded, 3 ready. -/
def laneCode (s : Block) (p l : Nat) : Nat := bits (rd s (Reg.LNK.LANE_STATE (lnkPage p))) (2 * l) 2
def setLane (s : Block) (p l c : Nat) : Block :=
  wr s (Reg.LNK.LANE_STATE (lnkPage p)) (setBits (rd s (Reg.LNK.LANE_STATE (lnkPage p))) (2 * l) 2 c)

/-- PLAN_MARGIN_LOST holds (R197). -/
def marginLost (s : Block) (p : Nat) : Bool :=
  (portWidth s p == 6 && (List.range 8).any (fun l => laneCode s p l == 2)) ||
  (flag s (Reg.PRT.PORT_STATUS_IN_JOB (prtPage p)) && rd s (Reg.PRT.PORT_STATUS_RETRY_COVER (prtPage p)) == 0)

/-! ### Service buffers (R233) -/

def skid (s : Block) (p : Nat) : Nat := ceilDiv (2 * rd s (Reg.PRT.FLIGHT_CAL (prtPage p)) + 48) 2
def vcDepth (s : Block) (p v : Nat) : Nat := (Tab.get (prt s p).rxVc [] v).length

/-- XOFF of a VC: on at SKID free entries or fewer, off from SKID + 32 on. -/
def xoffOf (s : Block) (p v : Nat) : Bool :=
  let free := 256 - vcDepth s p v
  if free ≤ skid s p then true
  else if skid s p + 32 ≤ free then false
  else bit (rd s (Reg.LNK.XOFF_STATE_LOCAL (lnkPage p))) v

/-- SKID and the VCs turned off follow the buffers and the flight. -/
def showXoff (s : Block) (p : Nat) : Block :=
  let pg := lnkPage p
  let m := (List.range 8).foldl (fun m v => m + b2n (xoffOf s p v) * 2 ^ v) 0
  wr (wr s (Reg.LNK.XOFF_STATE_SKID pg) (min 511 (skid s p))) (Reg.LNK.XOFF_STATE_LOCAL pg) m

/-- The notice of a link event to the peer, a sealed management message (R342); nothing leaves where no neighbour is known. -/
def linkNotice (s : Block) (p kind : Nat) : Block :=
  let pg := prtPage p
  if flag s (Reg.PRT.NEIGHBOUR_VALID pg) then
    let c := coordOf (rd s (Reg.PRT.NEIGHBOUR_X pg)) (rd s (Reg.PRT.NEIGHBOUR_Y pg)) (rd s (Reg.PRT.NEIGHBOUR_Z pg))
    let d := mctpHeader c (selfCoord s) true true 0 true ++ (Config.signed (natLe 1 p ++ natLe 1 kind ++ natLe 8 (now s))).take 1024
    (originate s svMCTP 0 0 d.length d 0 (some c)).1
  else s

/-- A link event this end detects: half the charge here, and the notice. -/
def linkEvent (s : Block) (p kind : Nat) : Block := linkNotice (charge s kind p 0) p kind

/-- RETRY_COVER and the margin follow the width, the flight and the lanes. -/
def updateMargin (s : Block) (p : Nat) : Block :=
  let pg := prtPage p
  let s := wr s (Reg.PRT.PORT_STATUS_RETRY_COVER pg) (retryCover s p)
  let b := marginLost s p
  let begins := b && !isLive s pg ErrBit.PRT.PLAN_MARGIN_LOST
  let s := live (wr s (Reg.PRT.PORT_STATUS_MARGIN_LOST pg) (b2n b)) pg ErrBit.PRT.PLAN_MARGIN_LOST b
  when begins (fun t => linkEvent t p 10) s

/-- F = ceil(DELAY) + X6 + 26, once DELAY is VALID (R194). -/
def updateFlight (s : Block) (p : Nat) : Block :=
  let pg := prtPage p
  if flag s (Reg.TBS.LINK_DELAY_VALID p) then
    let f := ceilDiv (rd s (Reg.TBS.LINK_DELAY_DELAY p)) 64 + rd s (Reg.TBS.XING_LAT_CAL 6) + 26
    updateMargin (showXoff (wr (wr s (Reg.PRT.FLIGHT_CAL pg) f) (Reg.PRT.FLIGHT_VALID pg) 1) p) p
  else s

end Sys2Proof.Machine
end

