-- ==== Sys2Proof/Machine/RegBus.lean ====
section
/-! DEFINITION. The register bus: which fields lie at an address, what a read returns, how a write takes effect field by field
(R8, R369–R378, R382–R388). -/

namespace Sys2Proof.Machine

/-! ### Pages (R386–R388) -/

/-- An engine block of a page (R115, R445). -/
def rowsBlock (pg blk : Nat) : List Row := rowsENG (pg + 0xC0 + 0x100 * blk) ++ rowsBLK (pg + 0xC0 + 0x100 * blk)

/-- The kind-specific rows of engine page e (R117, R139, R158, R325). -/
def rowsKind (e b : Nat) : List Row :=
  if e < 4 then rowsMX b else if e = 4 then rowsVX b else if e ≤ 6 then rowsMV b else rowsSY b

/-- Rows of an HBM or DDR page: tier-wide fields lie on instance 0 only (R181, R183). -/
def instanceRows (n b : Nat) (l : List Row) : List Row :=
  if n = 0 then l else l.filter (fun r => r.field.addr < b + 0x70 || b + 0x88 ≤ r.field.addr)

/-- The rows of the page at a base address; none where no page lies (R386). -/
def ownRows (b : Nat) : List Row :=
  let n := b % 0x10000 / 0x1000
  if b = 0 then rowsGLB else if b = 0x1000 then rowsHARV else if b = 0x2000 then rowsTBS else if b = 0x3000 then rowsPWR
  else if b = 0x4000 then rowsPCI else if b = 0x5000 then rowsMGT
  else if b = 0x6000 then rowsHDB ++ rowsBlock b 0
  else if b = 0x7000 then rowsSES ++ rowsBlock b 0
  else if b = 0x8000 then rowsNI
  else if b < 0x10000 then []
  else if b < 0x70000 then
    if n ≥ 12 ∨ (0x60000 ≤ b ∧ n ≥ 8) then []
    else if b < 0x20000 then rowsPRT b else if b < 0x30000 then rowsTEL b
    else if b < 0x40000 then rowsSLT b ++ rowsBlock b 0
    else if b < 0x50000 then rowsLNK b
    else if b < 0x60000 then instanceRows n b (rowsHBM b) ++ rowsBlock b 0
    else instanceRows n b (rowsDDR b) ++ rowsBlock b 0
  else if b < 0x200000 ∨ 0x2200000 ≤ b then []
  else
    let o := (b - 0x200000) % 0x200000
    if o = 0 then rowsCLU b ++ rowsBlock b 0 ++ rowsBlock b 1
    else if o = 0x1000 then rowsCLK b
    else if o = 0x2000 then rowsSTORE b
    else if o < 0x10000 ∨ 0x70000 ≤ o then []
    else if o % 0x10000 = 0 then rowsCOR b
    else if o % 0x10000 ≤ 0x8000 then rowsENG b ++ rowsKind (o % 0x10000 / 0x1000 - 1) b
    else []

def pageExists (b : Nat) : Bool := !(ownRows b).isEmpty

/-- Every row of a page, its header's first. -/
def pageRows (b : Nat) : List Row := let l := ownRows b; if l.isEmpty then [] else rowsHDR b ++ l

/-- The page that an address lies in. -/
def pageOf (a : Nat) : Nat := a / 0x1000 * 0x1000

/-- The fields that have bits in the word at an address, with the number of that word within the field. -/
def fieldsAt (a : Nat) : List (Field × Nat) := (pageRows (pageOf a)).filterMap (fun r => r.find a)

/-- The bit position in the word, and the width, of word i of a field. -/
def wordLsb (f : Field) : Nat := if f.width ≤ 32 then f.lsb else 0
def wordWidth (f : Field) (i : Nat) : Nat := if f.width ≤ 32 then f.width else min 32 (f.width - 32 * i)

/-! ### Reads (R370–R374, R377) -/

/-- A requester's guard. -/
def guardOf (s : Block) : Requester → Guard
  | .host => s.hostGuard
  | .mgt => s.mgtGuard

def setGuard (s : Block) (rq : Requester) (g : Guard) : Block :=
  match rq with
  | .host => { s with hostGuard := g }
  | .mgt => { s with mgtGuard := g }

/-- The guard is open: the span is half-open (R377). -/
def guardOpen (s : Block) (rq : Requester) : Bool := (guardOf s rq).opened && decide (now s < (guardOf s rq).untilT)

/-- PAGE_CAPS (R373). -/
def pageCaps (b : Nat) : Nat :=
  let l := ownRows b
  let blocks := if b = 0x6000 ∨ b = 0x7000 ∨ (0x30000 ≤ b ∧ b < 0x40000) ∨ (0x50000 ≤ b ∧ b < 0x70000) then 1
    else if 0x200000 ≤ b ∧ (b - 0x200000) % 0x200000 = 0 then 2 else 0
  b2n (l.any (fun r => r.field.config)) + 2 * b2n (l.any (fun r => r.field.guarded)) + 4 * blocks +
    (if blocks = 0 then 0 else 0x100 * 4)

/-- The states of a core's engines (R113). -/
def engineStates (s : Block) (c k : Nat) : Nat :=
  (List.range 8).foldl (fun v e => v + engState s (engCore c k e) * 8 ^ e) 0

/-- A field that reads 0 outside a job (R78, R288, R322): the job fields of the timebase page, and what the ream writes on the power and the session pages. -/
def jobField (b o : Nat) (f : Field) : Bool :=
  (b == 0x2000 && decide (0x48 ≤ o) && decide (o < 0x70)) ||
  (b == 0x3000 && (o == 0x50 || o == 0x74 || o == 0x7C)) ||
  (b == 0x7000 && (f == Reg.SES.GEOMETRY_SPEC_K || (decide (0x54 ≤ o) && decide (o < 0x8C)) || (decide (0x90 ≤ o) && decide (o < 0xA0))))

/-- What a field shows: its stored value, or what it is derived from. -/
def shown (s : Block) (f : Field) : Nat :=
  let b := pageOf f.addr
  let o := f.addr % 0x1000
  if o = 0 then bits (pageId b) f.lsb f.width
  else if o = 4 then bits (pageCaps b) f.lsb f.width
  else if o = 0x1C ∧ f.lsb = 0 then b2n (guardOpen s .host)
  else if o = 0x1C ∧ f.lsb = 1 then b2n (guardOpen s .mgt)
  else if b = 0 ∧ o = 0x4C then (if f.lsb = 0 then b2n (guardOpen s .host) else b2n (guardOpen s .mgt))
  else if jobField b o f && !inJob s then 0
  else if f = Reg.GLB.MODULE_STATE_IN_JOB then b2n (inJob s)
  else if f = Reg.TBS.HOLDOVER_TIME then
    (let st := rd s Reg.TBS.STATE_LOCK_STATE; if st = 4 ∨ st = 5 then min ((now s - s.time.since) / 1000) 0xFFFFFFFF else 0)
  else if f = Reg.GLB.IDENT_BEHAVIOUR then rd s Reg.MGT.BEHAVIOUR_IN_FORCE
  else if 0x200000 ≤ b ∧ pageType b = 0x12 ∧ f = Reg.CLK.FREQ_NOW_DROOP_ACTIVE b then
    b2n ((clus s ((b - 0x200000) / 0x200000)).droops.contains (now s))
  else if 0x210000 ≤ b ∧ b < 0x2200000 ∧ f = Reg.COR.ENGINE_STATE b ∧ pageType b = 0x20 then
    engineStates s ((b - 0x200000) / 0x200000) ((b - 0x200000) % 0x200000 / 0x10000 - 1)
  else if 0x210000 ≤ b ∧ b < 0x2200000 ∧ f = Reg.ENG.STATE_WAIT_KIND b ∧ 0x21 ≤ pageType b then
    waitKindOf s (engCore ((b - 0x200000) / 0x200000) ((b - 0x200000) % 0x200000 / 0x10000 - 1) (pageType b % 16 - 1))
  else if 0x30000 ≤ b ∧ b < 0x40000 ∧ f = Reg.SLT.SLOT_NOW_SLOT b then
    (if inJob s then (sched s - s.plan.sheetStart) / 2 % 2 ^ 19 else 0)
  else if 0x10000 ≤ b ∧ b < 0x1C000 ∧ f = Reg.PRT.COUCH b then
    couchUsed s (b / 0x1000 % 16)
  else rd s f

/-- Whether a page responds (R351, R372). -/
def pageResponds (s : Block) (b : Nat) : Bool :=
  pageExists b && (b == 0 || b == 0x4000 || b == 0x5000 ||
    (!flag s Reg.PCI.PCI_STATUS_MODULE_RESET && !flag s Reg.GLB.MODULE_STATE_MINIMAL))

/-- The 32-bit word at an address. -/
def readWord (s : Block) (a : Nat) : Nat :=
  if a % 4 = 0 ∧ pageResponds s (pageOf a) then
    (fieldsAt a).foldl (fun v p => v + bits (shown s p.1) (32 * p.2) (wordWidth p.1 p.2) * 2 ^ wordLsb p.1) 0
  else 0

/-- A block of words as bytes. -/
def readWords (s : Block) (a : Nat) : Nat → List Byte
  | 0 => []
  | n + 1 => natLe 4 (readWord s a) ++ readWords s (a + 4) n

/-! ### The guard (R377, R378) -/

/-- A write to a register with a G field: an open guard admits it and closes; a closed one refuses it when it would change a G
field. `body` is told whether the G fields take their values. -/
def guarded (s : Block) (rq : Requester) (pg : Nat) (changesG : Bool) (body : Bool → Block → Block) : Block :=
  if guardOpen s rq then body true (setGuard s rq {})
  else
    let s := when changesG (fun t =>
      raisePage (incSat (incSat t (Reg.HDR.LOCK_STATE_REFUSED pg) 1) Reg.GLB.GUARD_REFUSALS 1) 0 ErrBit.GLB.GUARD_REFUSED) s
    body false s

/-- A guarded command bit of one requester. -/
def guardedCmd (s : Block) (rq : Requester) (pg : Nat) (body : Block → Block) : Block :=
  if pageResponds s pg then guarded s rq pg true (fun ok t => if ok then body t else t) else s

/-! ### Writes, field by field -/

/-- The register is written through a mask (R376). -/
def masked (l : List (Field × Nat)) : Bool := l.any (fun p => p.1.kind == .rm || p.1.kind == .cmd || p.1.kind == .sc)

/-- The value that a write would leave in a field. -/
def written (s : Block) (mask : Bool) (v : Nat) (p : Field × Nat) : Nat :=
  let f := p.1
  let old := rd s f
  if mask then
    (List.range f.width).foldl (fun x i => if bit v (16 + f.lsb + i) then setBit x i (bit v (f.lsb + i)) else x) old
  else setBits old (32 * p.2) (wordWidth f p.2) (bits v (wordLsb f) (wordWidth f p.2))

/-- The write would change the field as the guard counts it (R378). -/
def changes (s : Block) (mask : Bool) (v : Nat) (p : Field × Nat) : Bool :=
  if mask then (List.range p.1.width).any (fun i => bit v (16 + p.1.lsb + i)) else written s mask v p != rd s p.1

/-- The owning block ignores a write of a value: the conditions that the field tables state. -/
def ignored (s : Block) (f : Field) (v : Nat) : Bool :=
  let b := pageOf f.addr
  let o := f.addr % 0x1000
  let ty := pageType b
  if ty = 0x20 ∧ o = 0x40 then flag s (Reg.COR.ENGINE_MASK_IN_JOB b)
  else if ty = 0x11 ∧ o = 0x40 then flag s (Reg.CLU.CORE_MASK_IN_JOB b)
  else if ty = 0x0A ∧ 0x70 ≤ o ∧ o < 0x88 then inJob s
  else if ty = 0x0B ∧ 0x70 ≤ o ∧ o < 0x7C then inJob s
  else if ty = 0x09 ∧ o = 0x50 then v < 1 || 64 < v
  else if ty = 0x06 ∧ o = 0x40 then v < 20 || 30 < v
  else if f = Reg.NI.NI_REQ_TIMEOUT then v < 10 || 1000 < v
  else if f = Reg.PWR.CAP then v < 1000 || 3200 < v
  else if f = Reg.PWR.SAMPLE_CTRL then v < 16 || 26 < v
  else if f = Reg.PWR.SAG_FREQ then v < 40 || 130 < v
  else if f = Reg.MGT.HEALTH_THRESHOLD then v < 100 || 650 < v
  else if f = Reg.MGT.BEHAVIOUR_REQUESTED then v != 0xA1 && (v != 0xB0 || rd s Reg.MGT.BEHAVIOUR_PHYSICAL != 0xB0)
  else if f = Reg.GLB.CFG_CTRL_MODE then inJob s
  else if f = Reg.TBS.TREE_CFG_ROLE then inJob s || (v == 1 && !s.time.refAtReset)
  else if b = 0x4000 ∧ 0x200 ≤ o ∧ o < 0x300 ∧ o % 32 = 0x10 ∧ f.lsb = 0 then flag s (Reg.PCI.Q_CTRL_ENABLE ((o - 0x200) / 32))
  else if (ty = 0x08 ∨ ty = 0x0A ∨ ty = 0x0B ∨ ty = 0x0C ∨ ty = 0x0D) ∧ o = 0x118 then inJob s
  else if ty = 0x11 ∧ (o = 0x118 ∨ o = 0x218) then inJob s
  else if 0x21 ≤ ty ∧ o = 0x58 then flag s (Reg.COR.ENGINE_MASK_IN_JOB (b - (ty - 0x20) * 0x1000))
  else false

/-- Values that a field stores otherwise than written (R313). -/
def stored (f : Field) (v : Nat) : Nat := if f = Reg.PWR.TOKEN_LIMIT then min v 384 else v

/-- The stored fields of a word take a write; command bits and sticky bits are the business of their own rows. -/
def writeFields (s : Block) (mask : Bool) (v : Nat) (openG : Bool) : List (Field × Nat) → Block
  | [] => s
  | p :: r =>
    let f := p.1
    let s := if (f.kind == .rw || f.kind == .rm) && (openG || !f.guarded) then
        (let n := written s mask v p; if ignored s f n then s else wr s f (stored f n))
      else s
    writeFields s mask v openG r

/-- The stored parity of a page agrees with its fields again after an accepted write (R385) (DESIGN CHOICE, log entry 24). -/
def reparity (s : Block) (pg : Nat) : Block := { s with cfgParity := Tab.put s.cfgParity 0 pg 0 }

/-- The bits of a word that management has written in this tick. -/
def mgtBits (s : Block) (a : Nat) : Nat := if s.mgtAt = now s + 1 then Tab.get s.mgtWrites 0 a else 0

/-- Of a host's and a management write of one tick to one register, management's takes effect second (R369): a host's write takes effect whole
where management has written nothing of the word in its tick. -/
def takesAll (s : Block) (rq : Requester) (a : Nat) : Bool := rq == .mgt || mgtBits s a == 0

/-- What is stored of a written word: bits that management has written in this tick stay as they are. -/
def afterMgt (s : Block) (rq : Requester) (a : Nat) (mask : Bool) (v : Nat) : Nat :=
  if takesAll s rq a then v
  else
    let m := mgtBits s a
    let old := (fieldsAt a).foldl (fun x p => x + bits (rd s p.1) (32 * p.2) (wordWidth p.1 p.2) * 2 ^ wordLsb p.1) 0
    if mask then v - (v &&& (m * 65536)) else v - (v &&& m) + (old &&& m)

/-- A management write is noted with the bits it wrote. -/
def noteMgt (s : Block) (rq : Requester) (a : Nat) (mask ok : Bool) (v : Nat) : Block :=
  match rq with
  | .host => s
  | .mgt =>
    let m := (fieldsAt a).foldl (fun x p =>
      if (p.1.kind == .rw || p.1.kind == .rm) && (ok || !p.1.guarded) then x ||| ((2 ^ wordWidth p.1 p.2 - 1) * 2 ^ wordLsb p.1) else x) 0
    let m := if mask then m &&& bits v 16 16 else m
    { s with mgtAt := now s + 1, mgtWrites := Tab.put (if s.mgtAt = now s + 1 then s.mgtWrites else []) 0 a (mgtBits s a ||| m) }

/-- A raw write of a word (R369, R376, R378); `extra` is what the owning block does besides, told whether the G fields were admitted. -/
def writeWord (s : Block) (rq : Requester) (a v : Nat) (extra : Bool → Block → Block) : Block :=
  let pg := pageOf a
  let l := fieldsAt a
  let m := masked l
  if !pageResponds s pg || l.isEmpty then s
  else if l.any (fun p => p.1.guarded) then
    guarded s rq pg (l.any (fun p => p.1.guarded && changes s m v p))
      (fun ok t => extra ok (reparity (writeFields (noteMgt t rq a m ok v) m (afterMgt t rq a m v) ok l) pg))
  else extra true (reparity (writeFields (noteMgt s rq a m true v) m (afterMgt s rq a m v) true l) pg)

/-! ### Configuration integrity (R382–R385) -/

/-- The page bases of BAR0 in rising order. -/
def allPages : List Nat :=
  (List.range 9).map (· * 0x1000) ++
  (List.range 5).flatMap (fun g => (List.range 12).map (fun n => 0x10000 * (g + 1) + n * 0x1000)) ++
  (List.range 8).map (fun n => 0x60000 + n * 0x1000) ++
  (List.range 16).flatMap (fun c =>
    [cluPage c, clkPage c, storePage c] ++ (List.range 6).flatMap (fun k => (List.range 9).map (fun p => corPage c k + p * 0x1000)))

/-- MGT_ALERT_N is low while a sticky bit that raises the error interrupt stands (R361, R430). -/
def alertLow (s : Block) : Bool :=
  allPages.any (fun b => (rd s (Reg.HDR.ERR_STICKY b) &&& rd s (Reg.HDR.ERR_ENABLE b)) != 0) ||
  (List.range 834).any (fun n => (engBlk n).isSome && (rd s (engRec n).sticky &&& rd s (engRec n).enable) != 0)

/-- The word's bits that lie in configuration fields. -/
def cfgMask (l : List (Field × Nat)) : Nat :=
  l.foldl (fun m p => if p.1.config then m + (2 ^ wordWidth p.1 p.2 - 1) * 2 ^ wordLsb p.1 else m) 0

/-- Word addresses of a page that hold configuration fields, offset ascending. -/
def cfgWords (b : Nat) : List Nat :=
  (List.range 1024).filterMap (fun i => if cfgMask (fieldsAt (b + 4 * i)) = 0 then none else some (b + 4 * i))

/-- The configuration bits of a word. -/
def cfgValue (s : Block) (a : Nat) : Nat :=
  (fieldsAt a).foldl (fun v p => if p.1.config then v + bits (rd s p.1) (32 * p.2) (wordWidth p.1 p.2) * 2 ^ wordLsb p.1 else v) 0

/-- A page's configuration CRC (R383). -/
def pageCrc (s : Block) (b : Nat) : Nat := crc32c ((cfgWords b).flatMap (fun a => natLe 4 (cfgValue s a)))

/-- The pages that take part. -/
def cfgPages : List Nat := allPages.filter (fun b => (ownRows b).any (fun r => r.field.config))

/-- The XOR of all configuration bits of a page (R385). -/
def pageParity (s : Block) (b : Nat) : Nat := ((cfgWords b).foldl (fun a w => a + popcount 32 (cfgValue s w)) 0) % 2

/-- A page's CFG_CRC in parity mode: stored parity, recomputed parity, MISMATCH (R385) (DESIGN CHOICE, log entry 24). -/
def parityWord (s : Block) (b : Nat) : Nat :=
  let d := Tab.get s.cfgParity 0 b % 2
  (pageParity s b + d) % 2 + 2 * pageParity s b + 4 * d

/-- The snapshot that a pass takes at its first tick: the CRC of every page, and above its 32 bits the page's parity word (DEDUCED, log entries
24 and 48) (DEDUCED, log entry 48). -/
def takeSnapshot (s : Block) : Block := { s with cfgSnapshot := cfgPages.map (fun b => (b, pageCrc s b + 2 ^ 32 * parityWord s b)) }

end Sys2Proof.Machine
end

