-- ==== Sys2Proof/Machine/Slots.lean ====
section
/-! DEFINITION. Slot programs as text: which operation names a slot (R187, R188, R428), the checks of R198, the CHECK command
(R98), and writes to token and barrier tables (R88, R113, R119). -/

namespace Sys2Proof.Machine

/-! ### The expansion of REPEAT (R188) -/

/-- An operation of a slot program: its word, its number in the bank, the OUTSET before it, and the repeats around it, outermost
first, as (first slot of the span, extent, further runs). -/
structure SlotOp where
  word : Nat
  idx : Nat
  outset : Nat
  reps : List (Nat × Nat × Nat)
deriving DecidableEq, Repr

def isTierOp (w : Nat) : Bool := fOpcode w == opTREAD || fOpcode w == opTWRITE
def isTx (w : Nat) : Bool := fOpcode w == opIDLE || fOpcode w == opSEND || fOpcode w == opFWD || fOpcode w == opMCAST
def isRx (w : Nat) : Bool := fOpcode w == opDELIVER || fOpcode w == opHOLD
def slFirst (w : Nat) : Nat := if isTierOp w then fTFirst w else fFirst w
def slCount (w : Nat) : Nat := if isTierOp w then fTCount w else fCount w

/-- The last slot an operation names, its repeats counted. -/
def SlotOp.last (o : SlotOp) : Nat := slFirst o.word + slCount o.word - 1 + (o.reps.map (fun r => r.2.1 * r.2.2)).foldl (· + ·) 0

/-- A REPEAT puts its runs around the operations of its span. -/
def applyRepeat (acc : List SlotOp) (i back runs : Nat) : List SlotOp :=
  let span := acc.filter (fun o => i ≤ o.idx + back && slCount o.word != 0)
  let lo := (span.map (fun o => slFirst o.word)).foldl min (2 ^ 20)
  let hi := (span.map SlotOp.last).foldl max 0
  acc.map (fun o => if i ≤ o.idx + back then { o with reps := (lo, hi + 1 - lo, runs) :: o.reps } else o)

def expandFrom (acc : List SlotOp) (i outset : Nat) : List Nat → List SlotOp
  | [] => acc
  | w :: r =>
    if fOpcode w = opREPEAT then expandFrom (applyRepeat acc i (fBack w) (fRuns w)) (i + 1) outset r
    else if fOpcode w = opOUTSET then expandFrom acc (i + 1) w r
    else expandFrom (acc ++ [⟨w, i, outset, []⟩]) (i + 1) outset r

/-- The operation words of the first len bytes of a bank. -/
def progWords (s : Block) (n bank len : Nat) : List Nat := (List.range (len / 16)).map (fun i => fetchWord s n bank (16 * i))

/-- The operations of a bank. -/
def program (s : Block) (n bank len : Nat) : List SlotOp := expandFrom [] 0 0 (progWords s n bank len)

/-- Slot x lies in a run of an operation. -/
def inRuns (first count : Nat) : List (Nat × Nat × Nat) → Nat → Bool
  | [], x => decide (first ≤ x) && decide (x < first + count)
  | (lo, ext, runs) :: r, x => decide (lo ≤ x) && inRuns first count r (x - min runs ((x - lo) / ext) * ext)

def SlotOp.names (o : SlotOp) (x : Nat) : Bool := inRuns (slFirst o.word) (slCount o.word) o.reps x

/-- The address an operation uses in slot x: its step for every slot since its first (R188). -/
def stepAddr (base : Nat) (step : Int) (first x : Nat) : Nat := (((base : Int) + step * ((x : Int) - first)) * 256).toNat

/-- The outputs of an operation: its channel, or the set of the OUTSET before an MCAST. -/
def outsOf (base mask : Nat) : List Nat := ((List.range 64).filter (bit mask)).map (fun j => base + j)
def SlotOp.outs (o : SlotOp) : List Nat :=
  if fOpcode o.word = opMCAST then outsOf (fChan o.outset) (fMask o.outset) else [fChan o.word]

/-- The port that an output channel of port engine p names: channel 0 is the port itself, channel j the j-th port after it
(DESIGN CHOICE, log entry 16). -/
def outPort (p ch : Nat) : Nat := (p + ch) % 12

/-! ### Reserved slots (R36, R208) -/

/-- The deckle window's length (R32, R36). -/
def deckleLen (s : Block) : Nat := (ream s).deckle * 1024
def isDeckleSlot (s : Block) (x : Nat) : Bool := x % 8 == 0 && decide (2 * x < deckleLen s)
def isSideSlot (s : Block) (x : Nat) : Bool := decide (64 ≤ 2 * x % 1024) && decide (2 * x % 1024 < 128) && !isDeckleSlot s x

/-! ### Releases (R195, R207) -/

/-- The delay from departure to release of an input: Δ of a port; on the mesh, the router traversal, the link, UCIe or HBM crossing of the
hop, and its 2 pt guard. -/
def releaseDelay (s : Block) (n input : Nat) : Nat :=
  if engIsPe n then rd s (Reg.PRT.RELEASE_OFFSET (prtPage (n - 768)))
  else if n % 2 = 0 then
    (if input < 32 then 8 else if input < 36 then 16 else 8 + rd s (Reg.TBS.XING_LAT_CAL 2))
  else if input < 32 then 8 else 8 + rd s (Reg.TBS.XING_LAT_CAL 1)

/-! ### The rules of R198 -/

/-- The sources of a FWD or MCAST: input and k. -/
def takesHeld (w : Nat) : Bool := fOpcode w == opFWD || (fOpcode w == opMCAST && fKind w == 15)

/-- The largest slot a program names, plus one. -/
def slotBound (l : List SlotOp) : Nat := (l.map (fun o => o.last + 1)).foldl max 0

/-- Code 1: a slot of one output or one arrival named twice, or a reserved slot named. -/
def slotCollision (s : Block) (me : Bool) (l : List SlotOp) : Bool :=
  (List.range (slotBound l)).any (fun x =>
    let here := l.filter (fun o => o.names x)
    let tx := (here.filter (fun o => isTx o.word)).flatMap SlotOp.outs
    let rx := (here.filter (fun o => isRx o.word)).map (fun o => fChan o.word)
    decide (tx.eraseDups.length < tx.length) || decide (rx.eraseDups.length < rx.length) ||
    (!here.isEmpty && (isDeckleSlot s x || (me && isSideSlot s x))))

/-- Code 2: 2k between the release delay plus 2 and 2,046 pt. -/
def releaseOrder (s : Block) (n : Nat) (l : List SlotOp) : Bool :=
  l.any (fun o => takesHeld o.word && (decide (2 * fK o.word < releaseDelay s n (fInChan o.word) + 2) || decide (2046 < 2 * fK o.word)))

/-- Code 3: every entry taken is kept by a HOLD of this program, or, in the slots before a boundary, of the program that ran then: each of
`befores` may have. -/
def unmatched (s : Block) (l : List SlotOp) (befores : List (List SlotOp)) : Bool :=
  let lens := ((ream s).cycle.map (fun e => e.blocks * 512)).eraseDups
  l.any (fun o => takesHeld o.word && (List.range (slotBound [o])).any (fun x => o.names x &&
    (let held := fun (p : List SlotOp) (y : Nat) => p.any (fun h => fOpcode h.word == opHOLD && fChan h.word == fInChan o.word && h.names y)
     if fK o.word ≤ x then !held l (x - fK o.word) else befores.any (fun b => lens.any (fun m => !held b (x + m - fK o.word))))))

/-- The ports a PE's program names: its own for receive operations, its outputs for transmit operations. -/
def portsNamed (p : Nat) (l : List SlotOp) : List Nat :=
  l.flatMap (fun o => if isTx o.word then o.outs.map (outPort p) else if isRx o.word then [p] else [])

/-- Code 4: outputs of one MCAST on two axes; on the mesh, outputs on a row and on a column do not meet in one engine. -/
def multicastAxis (n : Nat) (l : List SlotOp) : Bool :=
  engIsPe n && l.any (fun o => fOpcode o.word == opMCAST &&
    decide (1 < ((o.outs.map (fun c => outPort (n - 768) c / 4)).eraseDups).length))

/-- Code 5: a source or destination that a forward-only module may not name (R204). -/
def forwardOnly (s : Block) (l : List SlotOp) : Bool :=
  (ream s).fwdOnly && l.any (fun o =>
    (fOpcode o.word == opSEND || fOpcode o.word == opDELIVER || (fOpcode o.word == opMCAST && fKind o.word != 15)) &&
    (decide (fKind o.word < 6) || decide (8 < fKind o.word)))

def inMask (s : Block) (p : Nat) : Bool := bit (ream s).portMask p
def neighbourCoord (s : Block) (p : Nat) : Nat :=
  coordOf (rd s (Reg.PRT.NEIGHBOUR_X (prtPage p))) (rd s (Reg.PRT.NEIGHBOUR_Y (prtPage p))) (rd s (Reg.PRT.NEIGHBOUR_Z (prtPage p)))

/-- Codes 6 and 7 for a port of the job, from the flight budget F_b and the retransmission count N that the ream gives it: A = N × C_r(8). -/
def flightBudget (s : Block) (p : Nat) : Bool :=
  inMask s p && (!flag s (Reg.PRT.FLIGHT_VALID (prtPage p)) ||
    decide (((ream s).budgets.getD p (0, 0)).1 < rd s (Reg.PRT.FLIGHT_CAL (prtPage p))))
def replayWindow (s : Block) (p : Nat) : Bool :=
  let b := (ream s).budgets.getD p (0, 0)
  inMask s p && decide (1526 < b.2 * (2 * b.1 + 36) + 2 * b.1)

/-- The version of the rank table that is being checked (R243): the inactive one once its check has made it READY, else the active one. -/
def tableChecked (s : Block) : Nat := if flag s Reg.NI.NI_TABLE_READY then 1 - activeTable s else activeTable s
/-- Code 8: a port outside the mask, or a neighbour that version `ver` of the rank table does not list. -/
def portNotInJob (s : Block) (ver p : Nat) (l : List SlotOp) : Bool :=
  (portsNamed p l).any (fun q => !inMask s q || !(members s ver).contains (neighbourCoord s q))

def slotEngines : List Nat := (List.range 12).map (768 + ·) ++ (List.range 32).map (802 + ·)

/-- Code 9 at a CHECK: the version differs from another READY inactive bank's (R198). -/
def epochInconsistent (s : Block) (n : Nat) : Bool :=
  slotEngines.any (fun m => m != n && flag s (Reg.ENG.BANK_CTRL_READY (engBlock m)) &&
    rd s (Reg.ENG.IMEM_VER (engBlock m)) != rd s (Reg.ENG.IMEM_VER (engBlock n)))

/-- The lowest failing code of a program (R198): `befores` are the programs that may have run in the slots before a boundary, `ver` is the
version of the rank table that it is checked against. -/
def slotRules (s : Block) (n ver : Nat) (l : List SlotOp) (befores : List (List SlotOp)) (epochBad : Bool) : Nat :=
  let pe := engIsPe n
  let p := n - 768
  if slotCollision s (!pe) l then 1
  else if releaseOrder s n l then 2
  else if unmatched s l befores then 3
  else if multicastAxis n l then 4
  else if forwardOnly s l then 5
  else if pe && flightBudget s p then 6
  else if pe && replayWindow s p then 7
  else if pe && portNotInJob s ver p l then 8
  else if epochBad then 9
  else 0

/-! ### CHECK (R98) -/

/-- A port engine's result: code, bank, and CHECK_FAIL where a rule is broken (R98, R198). -/
def noteCheck (s : Block) (n bank code : Nat) : Block :=
  if engIsPe n then
    let pg := sltPage (n - 768)
    let s := wr (wr s (Reg.SLT.CHECK_RESULT_CODE pg) code) (Reg.SLT.CHECK_RESULT_BANK pg) bank
    when (code != 0) (fun t => raisePage t pg ErrBit.SLT.CHECK_FAIL) s
  else s

/-- A program runs after itself sheet by sheet, and after the version now active in the first sheet after a flip. The version of the rank table
being checked is the inactive one, once it is READY; else the active one (DESIGN CHOICE, log entry 16). A check that fails leaves a READY that an
earlier check set: the rule says only when it is set (DESIGN CHOICE, log entry 16). -/
def doCheck (s : Block) (n : Nat) : Block :=
  let b := engBlock n
  if !pageResponds s (engPage n) then s
  else
    let bank := 1 - rd s (Reg.ENG.STATE_ACTIVE_BANK b)
    let len := rd s (Reg.ENG.IMEM_LEN b)
    let crc := crc32c (imemRead s ((2 * n + bank) * 65536) (min len 65536))
    let s := wr s (Reg.ENG.IMEM_CRC b) crc
    let crcOk := crc == rd s (Reg.ENG.IMEM_REF b)
    let code := if engIsSlot n then
        let own := program s n bank (min len 65536)
        slotRules s n (tableChecked s) own [own, program s n (1 - bank) (rd s (Reg.ENG.ACTIVE_LEN b))] (epochInconsistent s n)
      else 0
    let s := noteCheck s n bank code
    let s := when (!crcOk) (fun t => raise t (engRec n) ErrBit.ENG.CRC_MISMATCH) s
    if crcOk ∧ code = 0 then wr s (Reg.ENG.BANK_CTRL_READY b) 1 else s

/-! ### Token and barrier tables (R88, R113, R119) -/

/-- The table register at an address: 0 a core slot, 1 a store slot, 2 a barrier mask, with its number. -/
def tableReg (a : Nat) : Option (Nat × Nat) :=
  let o := a % 0x1000
  let ty := pageType (pageOf a)
  if !pageExists (pageOf a) ∨ o % 8 ≠ 0 then none
  else if ty = 0x20 ∧ 0x400 ≤ o ∧ o < 0x600 then some (0, (o - 0x400) / 8)
  else if ty = 0x20 ∧ 0x200 ≤ o ∧ o < 0x280 then some (2, (o - 0x200) / 8)
  else if ty = 0x13 ∧ 0x800 ≤ o ∧ o < 0xC00 then some (1, (o - 0x800) / 8)
  else none

/-- The owning core or cluster belongs to a job. -/
def tableInJob (s : Block) (a : Nat) : Bool :=
  if pageType (pageOf a) = 0x20 then flag s (Reg.COR.ENGINE_MASK_IN_JOB (pageOf a))
  else flag s (Reg.CLU.CORE_MASK_IN_JOB (cluPage ((a - 0x200000) / 0x200000)))

/-- A written region breaks its space, or meets another valid slot of its table. -/
def regionRefused (s : Block) (a sp i v : Nat) : Bool :=
  let pg := pageOf a
  let base := if sp = 0 then bits v 0 12 else bits v 0 15
  let len := if sp = 0 then bits v 13 13 else bits v 15 15
  let space := if sp = 0 then bits v 12 1 else 2
  let size := if sp = 1 then 24576 else if space = 0 then 4096 else 2048
  bit v 31 && len != 0 && (decide (size < base + len) ||
    (List.range (tokCount sp)).any (fun j => j != i && tokValid s pg sp j && tokSpace s pg sp j == space &&
      meets (1024 * base) (1024 * len) (tokBase s pg sp j) (tokLen s pg sp j)))

def doTokenTableWrite (s : Block) (rq : Requester) (a v : Nat) : Block :=
  match tableReg a with
  | none => s
  | some (k, i) =>
    let pg := pageOf a
    if !pageResponds s pg then s
    else if tableInJob s a then raisePage s pg ErrBit.COR.TABLE_WRITE_IN_JOB
    else if k < 2 ∧ regionRefused s a k i v then raisePage s pg ErrBit.COR.TOKEN_OVERLAP
    else writeWord s rq a v (fun _ t => t)

def execCheck (e : EngineId) := run (fun s => doCheck s (engNum e))
def execTokenTableWrite (rq : Requester) (addr : BitVec 26) (v : BitVec 32) := run (fun s => doTokenTableWrite s rq addr.toNat v.toNat)

end Sys2Proof.Machine
end

