-- ==== Sys2Proof/Machine/Fabric.lean ====
section
/-! DEFINITION. Slot programs at work: departures, arrivals, releases, held entries, the mesh, side flits
(R91, R92, R108, R187–R192, R199–R209, R428). -/

namespace Sys2Proof.Machine

/-! ### Slots now -/

/-- The slot of the sheet and the job slot number of now (R187). -/
def slotNow (s : Block) : Nat := (sched s - s.plan.sheetStart) / 2
def jobSlot (s : Block) : Nat := sched s / 2

/-- Scheduled slots run: in the job, after its origin, outside stretch quanta (R48). -/
def slotsRun (s : Block) : Bool := inJob s && decide (rd s Reg.TBS.JOB_ORIGIN ≤ now s) && !s.plan.inQuantum

/-- The length in ticks of a sheet (R31). -/
def lenOfSheet (s : Block) (n : Nat) : Nat :=
  let cyc := (ream s).cycle
  let k := n % max 1 cyc.length
  match cyc[k]? with
  | some e => e.blocks * 1024
  | none => 0

def bankLen (s : Block) (n bank : Nat) : Nat :=
  if bank = activeBank s n then rd s (Reg.ENG.ACTIVE_LEN (engBlock n)) else rd s (Reg.ENG.IMEM_LEN (engBlock n))
def bankProgram (s : Block) (n bank : Nat) : List SlotOp := program s n bank (min (bankLen s n bank) 65536)

/-- The version and the sheet slot that a departure in job slot js belongs to: the version in its tail before the boundary (R202). -/
def versionFor (s : Block) (n js : Nat) : Option (Nat × Nat) :=
  let b := s.plan.sheetStart / 2
  if b ≤ js then some (activeBank s n, js - b)
  else
    let m := lenOfSheet s (sheet s - 1) / 2
    if sheet s = 0 ∨ js + m < b then none else some ((eng s n).tailBank.getD (activeBank s n), js + m - b)

/-- The transmit operation of an output in the present slot. -/
def txOp (s : Block) (n op ch : Nat) : Option SlotOp :=
  (bankProgram s n (activeBank s n)).find? (fun o => fOpcode o.word == op && o.outs.contains ch && o.names (slotNow s))

/-- An output is still free in this slot. -/
def outFree (s : Block) (n ch : Nat) : Bool := Tab.get (eng s n).sentAt 0 ch != jobSlot s + 1

/-- The outputs are taken, and the engine has issued an operation. -/
def markSent (s : Block) (n : Nat) (o : SlotOp) (chs : List Nat) : Block :=
  let e := eng s n
  let s := setEng s n { e with
    sentAt := chs.foldl (fun t c => Tab.put t 0 c (jobSlot s + 1)) e.sentAt, lastTick := sched s, issued := e.issued + 1 }
  wr s (Reg.ENG.NEXT_OP (engBlock n)) (16 * (o.idx + 1))

/-! ### The mesh (R206) -/

/-- The first and second stack attached to a cluster's router. -/
def stacksOf (c : Nat) : List Nat :=
  if c = 0 then [0, 1] else if c = 4 then [2] else if c = 8 then [3] else if c = 12 then [4, 5]
  else if c = 3 then [6, 7] else if c = 7 then [8] else if c = 11 then [9] else if c = 15 then [10, 11] else []

/-- Where an output channel of a mesh engine leads: node and input channel there. Nodes: ME0 of cluster c is c, ME1 100 + c, I/O die W
16, E 17, HBM tier engine n 20 + n (DESIGN CHOICE, log entry 16). -/
def meshDest (n ch : Nat) : Option (Nat × Nat) :=
  let c := engCluster n
  if n % 2 = 0 then
    if ch < 16 then (if 4 ≤ c then some (c - 4, 16 + ch) else none)
    else if ch < 32 then (if c < 12 then some (c + 4, ch - 16) else none)
    else if ch < 36 then (if c < 4 then some (16, 4 * c + ch - 32) else if 12 ≤ c then some (17, 4 * (c - 12) + ch - 32) else none)
    else if ch < 56 then (stacksOf c)[0]?.map (fun k => (20 + k, ch - 36))
    else if ch < 76 then (stacksOf c)[1]?.map (fun k => (20 + k, ch - 56))
    else none
  else if ch < 16 then (if c % 4 ≠ 0 then some (100 + (c - 1), 16 + ch) else none)
  else if ch < 32 then (if c % 4 ≠ 3 then some (100 + (c + 1), ch - 16) else none)
  else if ch < 64 then some (100 + c, ch)
  else none

def meshNode (n : Nat) : Nat := if n % 2 = 0 then engCluster n else 100 + engCluster n
/-- DEDUCED, log entry 21. -/
def meshPut (s : Block) (f : MeshFlit) : Block := { s with mesh := s.mesh ++ [f] }
/-- DEDUCED, log entry 21. -/
def meshTake (s : Block) (p : MeshFlit → Bool) : Option (MeshFlit × Block) :=
  match s.mesh.find? p with
  | some f => some (f, { s with mesh := s.mesh.erase f })
  | none => none

/-! ### Token slots by device address -/

/-- The cluster and core of an SRAM address. -/
def sramOwner (s : Block) (a : Nat) : Option (Nat × Nat) :=
  match devRange s a with
  | some r => if r.kind = 2 then some (r.inst, 0) else if r.kind = 3 ∨ r.kind = 4 then some (r.inst / 6, r.inst % 6) else none
  | none => none

def tokPageAt (c k sp : Nat) : Nat := if sp = 0 then corPage c k else storePage c
/-- The token table that an operation of a kind names: the cluster store's slots stand in one table. -/
def tokTable (w : Nat) : Nat := if fKind w = 1 then 1 else fTokTab w
def slotUsable (s : Block) (pg sp i : Nat) : Bool := decide (i < tokCount sp) && tokValid s pg sp i

/-- The address of an SRAM operand: R428 gives 35 bits in 256-byte units, and device addresses of SRAM have bit 43 set (DESIGN CHOICE, log entry 16). -/
def sramAddr (a : Nat) : Nat := 0x80000000000 + a
def kindFits (s : Block) (kind a : Nat) : Bool :=
  devIn s a 256 && (match devRange s a with
    | some r => if kind = 0 then r.kind == 3 || r.kind == 4 else r.kind == 2
    | none => false)

/-! ### Move queues as carriage (R209): queue number unit × 4 + class of a tier engine; 80 + unit of the PCIe endpoint, and 100 + unit of the
headbox, for what goes to or comes from a unit (DESIGN CHOICE, log entry 16) -/

/-- DESIGN CHOICE, log entry 16. -/
def moveQueue (u : UnitSt) (cls : Nat) : List Move := if cls = 1 then u.kv else if cls = 2 then u.headbox else u.hostq
def setMoveQueue (u : UnitSt) (cls : Nat) (q : List Move) : UnitSt :=
  if cls = 1 then { u with kv := q } else if cls = 2 then { u with headbox := q } else { u with hostq := q }

/-- The move's data goes to the host. -/
def Move.outward (m : Move) : Bool := m.kind == 6 || m.kind == 9
/-- The bytes of a move that are on their way between the dies. -/
def Move.crossing (m : Move) : Nat :=
  if m.outward then m.total - m.len - m.data.length - m.far.length else m.len - m.data.length - m.far.length

/-- The first move of a list that a test admits gives or takes bytes. -/
def onFirst (ok : Move → Bool) (f : Move → Move) : List Move → List Move
  | [] => []
  | m :: r => if ok m then f m :: r else m :: onFirst ok f r

/-- Where a queue number names a buffer: unit, class, and whether the buffer is the far one. -/
def carriageAt (q : Nat) : Nat × Nat × Bool :=
  if q < 80 then (q / 4, q % 4, false) else if q < 100 then (q - 80, 3, true) else (q - 100, 2, true)

/-- The move whose buffered bytes leave by a queue. -/
def gives (cls : Nat) (far : Bool) (m : Move) : Bool :=
  if cls = 1 then true else if far then !m.outward && !m.far.isEmpty else m.outward && !m.data.isEmpty
/-- The move that bytes arriving by a queue are for. -/
def takes (cls : Nat) (far : Bool) (m : Move) : Bool :=
  if cls = 1 then true else if far then m.outward && m.crossing != 0 else (m.kind == 5 || m.kind == 7) && m.crossing != 0

/-- The next 256 bytes of a queue's buffered data (DEDUCED, log entry 21). -/
def carriageTake (s : Block) (q : Nat) : Block × List Byte :=
  let (u, cls, far) := carriageAt q
  let l := moveQueue (unit s u) cls
  let drop := fun (m : Move) => if far then { m with far := m.far.drop 256 } else { m with data := m.data.drop 256 }
  match l.find? (gives cls far) with
  | none => (s, [])
  | some m =>
    let d := if far then m.far else m.data
    if d = [] then (s, []) else (setUnit s u (setMoveQueue (unit s u) cls (onFirst (gives cls far) drop l)), slice d 0 256)

/-- Carried data joins the buffer of the queue it is for. -/
def carriageGive (s : Block) (q : Nat) (d : List Byte) : Block :=
  let (u, cls, far) := carriageAt q
  let add := fun (m : Move) =>
    if cls = 1 then { m with data := m.data ++ d }
    else if far then { m with far := m.far ++ d.take (min 256 m.crossing) } else { m with data := m.data ++ d.take (min 256 m.crossing) }
  setUnit s u (setMoveQueue (unit s u) cls (onFirst (takes cls far) add (moveQueue (unit s u) cls)))

/-! ### Sources (R189, R92, R108, R209) -/

/-- What a departure sends. -/
structure Taken where
  st : Block
  hollow : Bool
  empty : Bool
  data : List Byte

def hollowOf (s : Block) : Taken := ⟨s, true, false, zeros 256⟩

/-- A producer of cluster c is late: SHEET_OVERRUN where the sheet has stretch quanta (R48), or the region runs at or below f_floor with no stretch to
cover it (R305, R321). -/
def overrun (s : Block) (n c : Nat) : Block := when (s.plan.quanta != 0 || (clus s c).uncovered) (fun t => faultEng t clsOverrun n 0 0) s

/-- Where a token slot's region begins, as a device address. -/
def regionBase (s : Block) (c k sp i : Nat) : Nat :=
  spaceAddr (engCore c k 0) (tokSpace s (tokPageAt c k sp) sp i) (tokBase s (tokPageAt c k sp) sp i)

/-- A member of a departure's race counts on its core (R109): a core's slot on that core; a store slot on the core that last posted it, or, not
yet posted, as it posts (`noteLoser`). -/
def countMember (s : Block) (c k sp i : Nat) (won : Bool) (t : Block) : Block :=
  let k' := if sp = 0 then k + 1 else if tokFull s (storePage c) 1 i then Tab.get (clus s c).posters 0 i else 0
  if k' = 0 then t else incSat t (if won then Reg.COR.RACE_WINS (corPage c (k' - 1)) else Reg.COR.RACE_LOSSES (corPage c (k' - 1))) 1

/-- The slot is released at the end of the departure's slot (R92). -/
def releaseLater (s : Block) (pg sp i : Nat) (race : Bool) : Block := { s with releases := s.releases ++ [(2, pg, sp, i, race)] }

/-- 256 bytes of SRAM, hollow where they are uncorrectable. -/
def takeBytes (s : Block) (a : Nat) : Taken := if poisoned s a 256 then hollowOf s else ⟨s, false, false, devRead s a 256⟩

/-- A tracked or untracked region of SRAM (DEDUCED, log entry 20). A stopped region's crossing holds its contents (R72): the departure finds no
data (DESIGN CHOICE, log entry 16). -/
def takeSram (s : Block) (n w a : Nat) (partner : Option RaceMember) : Taken :=
  let sp := tokTable w
  match sramOwner s a with
  | none => hollowOf s
  | some (c, k) =>
    let posted := fun (c' k' j : Nat) => atLeast16 (planPosted s c' (tokPageAt c' k' sp) sp j) (fTokVal w)
    let i := fTok w
    if !kindFits s (fKind w) a || flag s (Reg.CLK.FREQ_NOW_STOPPED (clkPage c)) then hollowOf s
    else match partner with
      | some b =>
        let pgA := tokPageAt c k sp
        let pgB := tokPageAt b.cl b.core sp
        if !posted c k i && !posted b.cl b.core b.slot then hollowOf (overrun s n c)
        else
          let wonA := posted c k i
          let ra := regionBase s c k sp i
          let src := if !wonA ∧ ra ≤ a ∧ a < ra + tokLen s pgA sp i then regionBase s b.cl b.core sp b.slot + (a - ra) else a
          let t := takeBytes s src
          if t.hollow then t
          else { t with st := releaseLater (releaseLater (countMember s b.cl b.core sp b.slot (!wonA) (countMember s c k sp i wonA t.st))
            pgA sp i true) pgB sp b.slot true }
      | none =>
        let pg := tokPageAt c k sp
        if slotUsable s pg sp i then
          if !posted c k i then hollowOf (overrun s n c)
          else
            let t := takeBytes s a
            if t.hollow then t else { t with st := releaseLater t.st pg sp i false }
        else takeBytes s a

/-- Delivered read data of a memory unit (R169). -/
def takeRead (s : Block) (a : Nat) : Taken :=
  match unitOf s a with
  | none => hollowOf s
  | some u =>
    match (unit s u).reads.find? (fun r => r.delivered && decide (r.addr ≤ a) && decide (a + 256 ≤ r.addr + r.data.length)) with
    | none => hollowOf s
    | some r => if !inRanges s a 256 || r.bad.any (fun b => decide (a ≤ b) && decide (b < a + 256)) then hollowOf s
                else ⟨s, false, false, slice r.data (a - r.addr) 256⟩

/-- A mesh buffer held an uncorrectable error: the engine that finds it raises the fault and marks it, and the flit goes on hollow (R207). -/
def pathError (s : Block) (n : Nat) : Block := faultEng (raise s (engRec n) ErrBit.PE.PATH_UNCORRECTABLE) clsUncorrectable n 0 0

/-- The first waiting service flit of a port (DESIGN CHOICE, log entry 16). -/
def takeService (s : Block) (p : Nat) : Taken :=
  match (List.range 8).find? (fun v => !(Tab.get (prt s p).txVc [] v).isEmpty) with
  | none => hollowOf s
  | some v => match Tab.get (prt s p).txVc [] v with
    | f :: r => ⟨setPort s p { prt s p with txVc := Tab.put (prt s p).txVc [] v r }, false, false, slice f.payload 0 256⟩
    | [] => hollowOf s

/-- The step block, read by the port engines of I/O die E (R274): bank × 2 MiB + offset (DESIGN CHOICE, log entry 16). A bank that is not ready leaves
hollow. -/
def takeStepBuffer (s : Block) (a : Nat) : Taken :=
  if a + 256 ≤ 0x400000 ∧ s.serv.bankReady.contains (a / 0x200000) then ⟨s, false, false, stepRead s a 256⟩ else hollowOf s

def takeSource (s : Block) (n : Nat) (o : SlotOp) (x : Nat) (partner : Option RaceMember) : Taken :=
  let w := o.word
  let a := stepAddr (fSAddr w) (fStep w) (fFirst w) x
  let k := fKind w
  if k < 2 then takeSram s n w (sramAddr a) partner
  else if k < 4 then takeRead s a
  else if k = 4 then
    (if engIsPe n && portDie (n - 768) == 17 then takeStepBuffer s a
     else if 0x21000 ≤ a ∧ a + 256 ≤ 0x400000 then ⟨s, false, false, stagingRead s a 256⟩ else hollowOf s)
  else if k = 5 then
    match meshTake s (fun f => f.node == portDie (n - 768) && f.chan == a / 256 % 16 && decide (2 * f.slot + 16 ≤ sched s)) with
    | some (f, t) => if f.bad then hollowOf (pathError t n) else ⟨t, f.hollow, f.empty, f.payload⟩
    | none => hollowOf s
  else if k = 6 then ⟨s, false, false, slice s.plan.held 0 256⟩
  else if k = 7 then takeService s (if engIsPe n then outPort (n - 768) (fChan w) else 0)
  else if k = 8 then
    match s.mgmt.outbox with
    | d :: r => ⟨{ s with mgmt := { s.mgmt with outbox := r } }, false, false, slice d 0 256⟩
    | [] => hollowOf s
  else if k = 9 then
    let r := carriageTake s (fSAddr w)
    ⟨r.1, false, r.2.isEmpty, slice r.2 0 256⟩
  else hollowOf s

/-- A held entry, k job slots back (R190). -/
def takeHeld (s : Block) (n w : Nat) : Taken :=
  let js := jobSlot s - fK w
  let e := eng s n
  match e.held.find? (fun h => h.input == fInChan w && h.slot == js) with
  | none => hollowOf s
  | some h =>
    let t := setEng s n { e with held := e.held.map (fun g => if g.input = h.input ∧ g.slot = h.slot then { g with consumed := true } else g) }
    ⟨t, h.hollow, false, h.payload⟩

/-! ### Departures (R189, R200, R203) -/

/-- A port can carry scheduled payload now. -/
def portSends (s : Block) (p : Nat) : Bool :=
  let pg := prtPage p
  flag s (Reg.PRT.PORT_STATUS_IN_JOB pg) && flag s (Reg.PRT.PORT_STATUS_TRAINED pg) && decide (6 ≤ portWidth s p) &&
  !flag s (Reg.PRT.PORT_STATUS_FENCED pg)

/-- The fields of a scheduled flit that its link adds to the header: hollow, epoch, slot. -/
def txMeta (hollow : Bool) (epoch js : Nat) : Nat := b2n hollow + 2 * epoch + 4 * (js % 4096)

def departOne (s : Block) (n ch : Nat) (t : Taken) : Block :=
  let data := if t.hollow then zeros 256 else t.data
  let js := jobSlot s
  if engIsPe n then
    let p := outPort (n - 768) ch
    if portSends s p then
      incMod (setPort s p { prt s p with txSlot := some (data, txMeta t.hollow (activeBank s n) js) })
        (Reg.SLT.TX_SHEET (sltPage (n - 768))) 1
    else s
  else
    match meshDest n ch with
    | some (node, c) => meshPut s ⟨node, c, js, t.hollow, t.empty, false, data⟩
    | none => s

/-- The flit leaves on every output; a hollow one sets HOLLOW_SENT. -/
def depart (n : Nat) (o : SlotOp) (chs : List Nat) (t : Taken) : Block :=
  let s := overL chs (fun c b => departOne b n c t) (markSent t.st n o chs)
  when t.hollow (fun b => raise b (engRec n) ErrBit.PE.HOLLOW_SENT) s

/-- The outputs that can carry payload; the mesh always can. -/
def usable (s : Block) (n : Nat) (chs : List Nat) : List Nat :=
  if engIsPe n then chs.filter (fun c => portSends s (outPort (n - 768) c)) else chs

/-- A transmit action in the present slot, if the program names it there. -/
def transmit (s : Block) (n op ch : Nat) (go : SlotOp → Block) : Block :=
  if engState s n = 2 ∧ (eng s n).resetBy = 0 ∧ slotsRun s ∧ outFree s n ch then
    match txOp s n op ch with
    | some o => go o
    | none => s
  else s

def doIdle (s : Block) (n ch : Nat) : Block :=
  transmit s n opIDLE ch (fun o =>
    let s := markSent s n o [ch]
    if engIsPe n then
      incMod (setPort s (outPort (n - 768) ch) { prt s (outPort (n - 768) ch) with txSlot := none })
        (Reg.SLT.IDLE_SHEET (sltPage (n - 768))) 1
    else s)

def doSend (s : Block) (n ch : Nat) (partner : Option RaceMember) : Block :=
  transmit s n opSEND ch (fun o =>
    if (usable s n [ch]).isEmpty then markSent s n o [ch] else depart n o [ch] (takeSource s n o (slotNow s) partner))

def doFwd (s : Block) (n ch : Nat) : Block :=
  transmit s n opFWD ch (fun o => if (usable s n [ch]).isEmpty then markSent s n o [ch] else depart n o [ch] (takeHeld s n o.word))

/-- MCAST, on the outputs that OUTSET last set. -/
def doMcast (s : Block) (n : Nat) : Block :=
  let chs := outsOf (eng s n).outBase (eng s n).outMask
  match chs with
  | [] => s
  | c :: _ =>
    transmit s n opMCAST c (fun o =>
      let us := usable s n chs
      if us.isEmpty then markSent s n o chs
      else depart n o chs (if fKind o.word = 15 then takeHeld s n o.word else takeSource s n o (slotNow s) none))

/-- OUTSET: the one before the MCAST of this slot, else the one at NEXT_OP. -/
def doOutset (s : Block) (n : Nat) : Block :=
  let w0 := fetchWord s n (activeBank s n) (nextOp s n)
  let w := match (bankProgram s n (activeBank s n)).find? (fun o => fOpcode o.word == opMCAST && o.names (slotNow s)) with
    | some o => o.outset
    | none => w0
  if engState s n = 2 ∧ fOpcode w = opOUTSET then
    let s := setEng s n { eng s n with outBase := fChan w, outMask := fMask w }
    if w = w0 then wr s (Reg.ENG.NEXT_OP (engBlock n)) (nextOp s n + 16) else s
  else s

/-- REPEAT at NEXT_OP: back to the span's first operation, or on after its last run. -/
def doRepeat (s : Block) (n : Nat) : Block :=
  let a := nextOp s n
  let w := fetchWord s n (activeBank s n) a
  let e := eng s n
  if engState s n = 2 ∧ fOpcode w = opREPEAT then
    let k := Tab.get e.repeats 0 (a / 16)
    if k < fRuns w then
      wr (setEng s n { e with repeats := Tab.put e.repeats 0 (a / 16) (k + 1) }) (Reg.ENG.NEXT_OP (engBlock n)) (a - 16 * fBack w)
    else wr (setEng s n { e with repeats := Tab.del e.repeats (a / 16) }) (Reg.ENG.NEXT_OP (engBlock n)) (a + 16)
  else s

/-! ### Fences and arrivals (R191, R192, R203) -/

/-- FENCED follows the two tags. -/
def updateFence (s : Block) (p : Nat) : Block :=
  let pg := prtPage p
  let own := rd s (Reg.PRT.JOB_TAG_TAG pg)
  let near := rd s (Reg.PRT.JOB_TAG_NEAR_TAG pg)
  wr s (Reg.PRT.PORT_STATUS_FENCED pg) (b2n (own == 0 || (near != 0 && near != own)))

/-- The tag of a received flit. -/
def noteTag (s : Block) (p tag : Nat) : Block := updateFence (wr s (Reg.PRT.JOB_TAG_NEAR_TAG (prtPage p)) tag) p

/-- The port drops a scheduled or service flit with this tag. -/
def fenceDrops (s : Block) (p tag : Nat) : Bool :=
  flag s (Reg.PRT.PORT_STATUS_FENCED (prtPage p)) || tag != rd s (Reg.PRT.JOB_TAG_TAG (prtPage p))
def fenceDrop (s : Block) (p : Nat) : Block :=
  raisePage (incSat s (Reg.PRT.FENCE_DROPS (prtPage p)) 1) (prtPage p) ErrBit.PRT.FENCE_DROP

/-- The job slot number whose low 12 bits a header carries: the latest not more than 8 slots ahead. -/
def slotOfHeader (s : Block) (low : Nat) : Nat :=
  let r := jobSlot s + 8
  r - (r + 4096 - low % 4096) % 4096

/-- A receive operation of the flit's epoch expects the slot. -/
def rxOp (s : Block) (n input js : Nat) (op : Nat → Bool) : Option (SlotOp × Nat × Nat) :=
  match versionFor s n js with
  | none => none
  | some (bank, x) =>
    match (bankProgram s n bank).find? (fun o => isRx o.word && op (fOpcode o.word) && fChan o.word == input && o.names x) with
    | some o => some (o, bank, x)
    | none => none

/-- The release tick of a schedule time has come: within a stretch quantum the schedule time it begins at is still to come (R27). -/
def released (s : Block) (r : Nat) : Bool := decide (r < sched s) || (r == sched s && !s.plan.inQuantum)

/-- An intact scheduled flit arrives; `retx` is how many times it was sent again. -/
def scheduledArrival (s : Block) (p h retx : Nat) (payload : List Byte) : Block :=
  let pg := prtPage p
  let n := engPE p
  let tag := bits h 56 16
  let s := noteTag s p tag
  if fenceDrops s p tag then fenceDrop s p
  else
    let js := slotOfHeader s (bits h 44 12)
    match rxOp s n 0 js (fun _ => true) with
    | none => raisePage (incSat s (Reg.PRT.STRAY_DROPS pg) 1) pg ErrBit.PRT.STRAY
    | some (_, bank, _) =>
      if bank ≠ bits h 41 1 then raisePage (incSat s (Reg.PRT.STRAY_DROPS pg) 1) pg ErrBit.PRT.STRAY
      else if released s (2 * js + releaseDelay s n 0) then raisePage (incSat s (Reg.PRT.LATE_ARRIVALS pg) 1) pg ErrBit.PRT.LATE_ARRIVAL
      else
        let e : Couch := ⟨js, bit h 41, bit h 42, payload, h, sched s, retx, false⟩
        let s := setPort s p { prt s p with couch := Tab.ins (Tab.del (prt s p).couch (js % 1024)) (js % 1024) e }
        telHigh s p 10 (couchUsed s p)

def doScheduledArrival (s : Block) (p h : Nat) (payload : List Byte) : Block :=
  if bits h 0 2 = 1 then scheduledArrival s p h (b2n (bit h 3)) payload else s

/-! ### Releases (R190, R192, R207) -/

/-- Payload reaches a cluster, and the slot it names is posted (R91, R92). -/
def bringIn (s : Block) (c : Nat) (x : Inbound) : Block :=
  let s := devWrite s x.addr x.data
  match x.post with
  | none => s
  | some (pg, sp, i) =>
    when (tokFull s pg sp i) (fun t => raisePage t pg ErrBit.COR.DELIVERY_OVERLAP) (notePoster (postSlot s pg sp i) c sp i 0)

/-- The crossing into a cluster, which holds what arrives while the region is stopped (R72). -/
def intoCluster (s : Block) (c : Nat) (x : Inbound) : Block :=
  if flag s (Reg.CLK.FREQ_NOW_STOPPED (clkPage c)) then setClus s c { clus s c with inbound := (clus s c).inbound ++ [x] } else bringIn s c x

/-- Writes payload where a DELIVER names, and posts (R91) (DESIGN CHOICE, log entry 16). -/
def deliverTo (s : Block) (n : Nat) (o : SlotOp) (x : Nat) (d : List Byte) : Block :=
  let w := o.word
  let a := stepAddr (fSAddr w) (fStep w) (fFirst w) x
  let k := fKind w
  if k < 2 then
    let a := sramAddr a
    if !kindFits s k a then s
    else match sramOwner s a with
      | none => s
      | some (c, co) =>
        let sp := tokTable w
        let pg := tokPageAt c co sp
        intoCluster s c ⟨a, d, if slotUsable s pg sp (fTok w) then some (pg, sp, fTok w) else none⟩
  else if k < 4 then (if (unitOf s a).isSome ∧ devIn s a 256 ∧ inRanges s a 256 then devWrite s a d else s)
  else if k = 4 then
    -- on I/O die E: the outcome blocks of even and odd steps, 64 KiB each, past the step buffer (R270), and the ring of prompt tokens that the plan brings to the mirror keeper (R285; DESIGN CHOICE, log entry 16)
    (if engIsPe n && portDie (n - 768) == 17 then (if 0x400000 ≤ a ∧ a + 256 ≤ 0x820000 then stepWrite s a d else s)
     else if 0x21000 ≤ a ∧ a + 256 ≤ 0x400000 then stagingWr s a d else s)
  else if k = 5 then
    let ch := a / 256 % 16
    meshPut s ⟨if portDie (n - 768) = 16 then ch / 4 else 12 + ch / 4, 32 + ch % 4, jobSlot s, false, false, false, d⟩
  else if k = 6 then { s with plan := { s.plan with held := d } }
  else if k = 7 then
    let p := n - 768
    setPort s p { prt s p with rxVc := Tab.put (prt s p).rxVc [] 0 (Tab.get (prt s p).rxVc [] 0 ++ [d]) }
  else if k = 8 then { s with mgmt := { s.mgmt with inbox := s.mgmt.inbox ++ [d] } }
  else if k = 9 then carriageGive s (fSAddr w) d
  else s

/-- What a receive operation finds: nothing, or a flit with its marks. -/
structure Found where
  st : Block
  present : Bool
  hollow : Bool
  bad : Bool
  empty : Bool
  data : List Byte

/-- The couch entry of a port, with RETRY_SHEET noting how it came (R210). -/
def findCouch (s : Block) (p js : Nat) : Found :=
  match (prt s p).couch.find? (fun c => c.1 == js % 1024 && c.2.slot == js) with
  | none => ⟨s, false, false, false, false, []⟩
  | some (_, c) =>
    let pg := prtPage p
    let s := setPort s p { prt s p with couch := Tab.del (prt s p).couch (js % 1024) }
    let slack := 2 * js + releaseDelay s (engPE p) 0 - c.time
    let s := wr s (Reg.PRT.RETRY_SHEET_MAX_RETX pg) (max (rd s (Reg.PRT.RETRY_SHEET_MAX_RETX pg)) (min c.retx 15))
    let s := wr s (Reg.PRT.RETRY_SHEET_MIN_SLACK pg) (min (rd s (Reg.PRT.RETRY_SHEET_MIN_SLACK pg)) slack)
    ⟨s, true, c.hollow, c.bad, false, c.payload⟩

def findMesh (s : Block) (n ch js : Nat) : Found :=
  match meshTake s (fun f => f.node == meshNode n && f.chan == ch && f.slot == js) with
  | none => ⟨s, false, false, false, false, []⟩
  | some (f, t) => ⟨t, true, f.hollow, f.bad, f.empty, f.payload⟩

/-- A receive operation at its release tick, which no stretch quantum holds (R27, R48). -/
def doReceive (s : Block) (n input op : Nat) : Block :=
  let d := releaseDelay s n input
  let js := (sched s - d) / 2
  if engState s n ≠ 2 ∨ !inJob s ∨ s.plan.inQuantum ∨ sched s < d ∨ Tab.get (eng s n).recvAt 0 input = js + 1 then s
  else match rxOp s n input js (· == op) with
    | none => s
    | some (o, _, x) =>
      let pe := engIsPe n
      let p := n - 768
      let pg := prtPage p
      let s := setEng s n { eng s n with recvAt := Tab.put (eng s n).recvAt 0 input (js + 1), lastTick := sched s, issued := (eng s n).issued + 1 }
      let s := when pe (fun t => incMod t (Reg.SLT.RX_SHEET (sltPage p)) 1) s
      let f := if pe then findCouch s p js else findMesh s n input js
      let s := f.st
      let hold := fun (t : Block) (hollow : Bool) (data : List Byte) =>
        setEng t n { eng t n with held := (eng t n).held ++ [⟨input, js, hollow, false, data⟩] }
      if !f.present then
        let s := when pe (fun t => raisePage (incSat t (Reg.PRT.LATE_COUNT pg) 1) pg ErrBit.PRT.LATE_SLOT) s
        let s := faultEng s clsLateSlot n 0 (16 * o.idx)
        if op = opHOLD then hold s true (zeros 256) else s
      else if f.bad then
        let s := when pe (fun t => raisePage t pg ErrBit.PRT.COUCH_UNCORRECTABLE) s
        let s := pathError s n
        if op = opHOLD then hold s true (zeros 256) else s
      else if f.hollow then
        let s := when pe (fun t => incSat t (Reg.PRT.HOLLOW_RECEIVED pg) 1) s
        if op = opHOLD then hold s true (zeros 256)
        else
          let s := when pe (fun t => raisePage t pg ErrBit.PRT.HOLLOW_RECEIVED) s
          faultEng s clsHollow n 0 (16 * o.idx)
      else if op = opHOLD then hold s false f.data
      else if f.empty then s
      else deliverTo s n o x f.data

/-- A held entry is gone 2,046 pt after its departure (R190). -/
def doHeldDiscard (s : Block) (n input : Nat) : Block :=
  setEng s n { eng s n with held := (eng s n).held.filter (fun h => h.input != input || decide (sched s ≤ 2 * h.slot + 2046)) }

/-- The tail of the old versions ends (R202). -/
def doTailEnd (s : Block) : Block :=
  if inJob s ∧ sched s < s.plan.sheetStart + 2048 then s
  else
    let s := overL slotEngines (fun n t => if (eng t n).tailBank = none then t else setEng t n { eng t n with tailBank := none }) s
    overN 12 (fun p t => wr t (Reg.SLT.SLOT_NOW_TAIL (sltPage p)) 0) s

/-! ### Side flits (R208): outputs of a router 0 west, 1 east, 2 north, 3 south, 4 UCIe, 5 and 6 HBM, 7–12 cores, 13 cluster store; 14 is what waits
on the I/O die for the router's UCIe channels -/

/-- The cluster whose router a device address is reached through, and its output there (DEDUCED, log entry 21). -/
def sideTarget (s : Block) (a : Nat) : Nat × Nat :=
  match devRange s a with
  | some r =>
    if r.kind = 0 then
      let c := ((List.range 16).find? (fun c => (stacksOf c).contains r.inst)).getD 0
      (c, if (stacksOf c)[0]? = some r.inst then 5 else 6)
    else if r.kind = 1 then (if r.inst < 4 then (a / 256 % 4, 4) else (12 + a / 256 % 4, 4))
    else if r.kind = 2 then (r.inst, 13)
    else (r.inst / 6, 7 + r.inst % 6)
  | none => (a / 256 % 4, 4)

/-- The router that joins I/O die W for an address: the lines of 256 bytes go round the four of column 0 (DEDUCED, log entry 21). -/
def sideEdge (a : Nat) : Nat := a / 256 % 4

/-- Where a side flit is going: the router and the output there. -/
def SideFlit.target (s : Block) (f : SideFlit) : Nat × Nat := if f.back then (sideEdge f.addr, 4) else sideTarget s f.addr

/-- Output of a router toward a target: along the row first, then the column. -/
def sideOut (c : Nat) (t : Nat × Nat) : Nat :=
  if c / 4 < t.1 / 4 then 1 else if t.1 / 4 < c / 4 then 0 else if c % 4 < t.1 % 4 then 3 else if t.1 % 4 < c % 4 then 2 else t.2

def sideKey (c out : Nat) : Nat := c * 16 + out
def sideQueue (s : Block) (c out : Nat) : List SideFlit := Tab.get s.side [] (sideKey c out)
def setSide (s : Block) (c out : Nat) (q : List SideFlit) : Block := { s with side := Tab.put s.side [] (sideKey c out) q }
def sideAdd (s : Block) (c out : Nat) (f : SideFlit) : Block := setSide s c out (sideQueue s c out ++ [f])
/-- DEDUCED, log entry 21. -/
def nextRouter (c out : Nat) : Nat := if out = 0 then c - 4 else if out = 1 then c + 4 else if out = 2 then c - 1 else c + 1

/-- A flit joins the output that leads it on from a router; a flit that waits on I/O die E or W joins the router's UCIe entry. -/
def sideJoin (s : Block) (c : Nat) (f : SideFlit) : Block := sideAdd s c (sideOut c (f.target s)) f

/-- The lines of 256 bytes that an access touches: first byte and length of its part of each. -/
def linesOf (a n : Nat) : List (Nat × Nat) :=
  (List.range (ceilDiv (n + a % 256) 256)).map (fun i =>
    let lo := max a (a / 256 * 256 + 256 * i)
    (lo, min (a + n) (a / 256 * 256 + 256 * (i + 1)) - lo))

/-- The answers of an access: that it wrote, or line by line what it read. -/
def SideFlit.answers (s : Block) (f : SideFlit) : List SideFlit :=
  if f.write then [{ f with back := true, data := [] }]
  else (linesOf f.addr f.len).map (fun x => { f with addr := x.1, len := x.2, back := true, data := devReadSafe s x.1 x.2 })

/-- An access takes place; its answer, if something waits for one, is on its way from where the target lies (DEDUCED, log entry 21). -/
def sideAct (s : Block) (f : SideFlit) : Block :=
  let as := f.answers s
  let s := if f.write then devWrite s f.addr f.data else s
  if f.tag = 0 then s
  else
    let t := sideTarget s f.addr
    overL as (fun a u =>
      if t.2 = 4 then (if t.1 < 4 then { u with sideIn := u.sideIn ++ [a] } else sideAdd u t.1 14 a) else sideJoin u t.1 a) s

/-- The plan's move map holds: in a job, until its teardown begins to drain (R170, R345) (DEDUCED, log entry 45). -/
def mapped (s : Block) : Bool := inJob s && decide (jobState s < 5)

/-- A side flit reaches a memory unit: in a job it waits there for a class HOST slot or for the reserve (R166, R249, R354); else it takes place. -/
def sideAtUnit (s : Block) (u : Nat) (f : SideFlit) : Block :=
  let x := unit s u
  if !mapped s then sideAct s f
  else if f.host then setUnit s u { x with hostq := x.hostq ++ [⟨8, f.addr, f.len, f.tag, f.write, f.data, [], f.len⟩] }
  else setUnit s u { x with readback := x.readback ++ [f] }

/-- A side flit reaches its end. -/
def sideEnd (s : Block) (f : SideFlit) : Block :=
  if f.back then { s with sideIn := s.sideIn ++ [f] }
  else match unitOf s f.addr with
    | some u => sideAtUnit s u f
    | none => sideAct s f

/-- The region a flit would enter is stopped: the crossing holds (R72) (DEDUCED, log entry 21). -/
def sideHeld (s : Block) (c out : Nat) : Bool := decide (7 ≤ out) && decide (out < 14) && flag s (Reg.CLK.FREQ_NOW_STOPPED (clkPage c))

/-- The head of a router's output moves on, if the next router has a credit; at its target it takes effect. -/
def sideMove (s : Block) (c out : Nat) : Block :=
  match sideQueue s c out with
  | [] => s
  | f :: r =>
    if out = 14 ∨ out < 4 then
      let c' := if out = 14 then c else nextRouter c out
      let o := sideOut c' (f.target s)
      if (sideQueue s c' o).length < 32 then sideAdd (setSide s c out r) c' o f else s
    else if sideHeld s c out then s
    else sideEnd (setSide s c out r) f

/-- The channels of an output. -/
def sideChannels (out : Nat) : Nat × List Nat :=
  if out = 0 then (0, List.range 16) else if out = 1 then (0, (List.range 16).map (16 + ·))
  else if out = 2 then (1, List.range 16) else if out = 3 then (1, (List.range 16).map (16 + ·))
  else if out = 4 then (0, [32, 33, 34, 35]) else if out = 5 then (0, (List.range 20).map (36 + ·))
  else if out = 6 then (0, (List.range 20).map (56 + ·))
  else if out = 13 then (1, (List.range 8).map (56 + ·)) else if out = 14 then (0, []) else (1, (List.range 4).map (32 + 4 * (out - 7) + ·))

/-- A slot that side traffic may use: a side slot, an IDLE slot of the output, a stretch quantum, or any slot outside a job. -/
def sideSlot (s : Block) (c out : Nat) : Bool :=
  let ch := sideChannels out
  let n := engME c ch.1
  !mapped s || s.plan.inQuantum ||
  (decide (64 ≤ now s % 1024) && decide (now s % 1024 < 128) && !isDeckleSlot s (slotNow s)) ||
  ch.2.any (fun x => (txOp s n opIDLE x).isSome)

/-- DEDUCED, log entry 21. -/
def doSideFlit (s : Block) (c out : Nat) : Block := if out ≤ 14 ∧ sideSlot s c out then sideMove s c out else s

/-- Every side flit under way ends its journey, those furthest on their way first, and what waits at a unit takes place: where every slot carries
side traffic, the crossing of an access is over before the access is answered (DEDUCED, log entry 21). -/
def drainSide (s : Block) : Block :=
  let under := s.side.reverse.flatMap (fun q => q.2) ++ s.units.flatMap (fun u => u.2.readback)
  let s := { s with side := [], units := s.units.map (fun u => (u.1, { u.2 with readback := [] })) }
  overL under (fun f t =>
    if f.back then { t with sideIn := t.sideIn ++ [f] }
    else
      let as := f.answers t
      let t := if f.write then devWrite t f.addr f.data else t
      if f.tag = 0 then t else { t with sideIn := t.sideIn ++ as }) s

/-- An access from I/O die W sets out: one side flit for each line, a service READ as one request (R249); what lies behind I/O die W itself
crosses nothing (DEDUCED, log entry 21). -/
def sideSend (s : Block) (host write : Bool) (a n tag : Nat) (d : List Byte) : Block :=
  overL (if host ∧ !write then [(a, n)] else linesOf a n) (fun x t =>
    let f : SideFlit := ⟨x.1, x.2, if write then slice d (x.1 - a) x.2 else [], tag, write, host, false⟩
    match unitOf t x.1 with
    | some u => if 12 ≤ u ∧ u < 16 then sideAtUnit t u f else sideAdd t (sideEdge x.1) 14 f
    | none => sideAdd t (sideEdge x.1) 14 f) s

/-- The bytes of the answers of an access, in address order. -/
def gatherAnswers (l : List SideFlit) (a n : Nat) : List Byte :=
  ((linesOf a n).map (fun x => match l.find? (fun f => f.addr == x.1) with
    | some f => slice f.data 0 x.2
    | none => zeros x.2)).flatten

/-- An access from outside the compute die (R208, R354): where every slot carries side traffic it is done at once; in a job it sets out when it is
first asked for, and is done, with what it read, once every answer is back (DEDUCED, log entry 21). -/
def sideAccess (s : Block) (host write : Bool) (a n tag : Nat) (d : List Byte) : Block × Option (List Byte) :=
  if !mapped s then
    let s := drainSide s
    let s := { s with sideIn := s.sideIn.filter (fun f => f.tag != tag), sideWait := Tab.del s.sideWait tag }
    (if write then devWrite s a d else s, some (if write then [] else devReadSafe s a n))
  else
    let got := s.sideIn.filter (fun f => f.tag == tag)
    match Tab.get s.sideWait 0 tag with
    | 0 => (sideSend { s with sideWait := Tab.put s.sideWait 0 tag ((linesOf a n).length + 1) } host write a n tag d, none)
    | k + 1 =>
      if got.length < k then (s, none)
      else ({ s with
        sideIn := s.sideIn.filter (fun f => f.tag != tag), sideWait := Tab.del s.sideWait tag }, some (gatherAnswers got a n))

/-- A posted write through a window: nothing waits for it. -/
def outsideWrite (s : Block) (a : Nat) (d : List Byte) : Block :=
  if mapped s then sideSend s false true a d.length 0 d else devWrite (drainSide s) a d

/-! ### Meanings -/

def execIdle (e : SlotEng) (ch : Fin 128) := run (fun s => doIdle s (slotNum e) ch)
def execSend (e : SlotEng) (ch : Fin 128) (partner : Option RaceMember) := run (fun s => doSend s (slotNum e) ch partner)
def execFwd (e : SlotEng) (ch : Fin 128) := run (fun s => doFwd s (slotNum e) ch)
def execMcast (e : SlotEng) := run (fun s => doMcast s (slotNum e))
def execOutset (e : SlotEng) := run (fun s => doOutset s (slotNum e))
def execRepeatOp (e : SlotEng) := run (fun s => doRepeat s (slotNum e))
def execScheduledFlitArrival (port : Fin 12) (header : BitVec 128) (payload : List Byte) :=
  runIf (payload.length == 256) "SCHEDULED_FLIT_ARRIVAL" (fun s => doScheduledArrival s port header.toNat payload)
def execDeliver (e : SlotEng) (input : Fin 128) := run (fun s => doReceive s (slotNum e) input opDELIVER)
def execHold (e : SlotEng) (input : Fin 128) := run (fun s => doReceive s (slotNum e) input opHOLD)
def execHeldEntryDiscard (e : SlotEng) (input : Fin 128) := run (fun s => doHeldDiscard s (slotNum e) input)
def execEpochTailEnd := run doTailEnd
def execSideFlit (cl : Fin 16) (out : Fin 128) := run (fun s => doSideFlit s cl out)

end Sys2Proof.Machine
end

