-- ==== Sys2Proof/Machine/Clear.lean ====
section
/-! DEFINITION. What a reset below the module clears, and what it keeps: engine, core, cluster (R86, R93, R117, R118, R127). -/

namespace Sys2Proof.Machine

/-! ### One engine -/

/-- What every engine's block keeps (DEDUCED, log entry 28). -/
def keptFields (b : Nat) : List Field :=
  [Reg.ENG.STATE_ACTIVE_BANK b, Reg.ENG.DEADLINE b, Reg.ENG.GRACE b, Reg.ENG.BANK_CTRL_FLIP_SEL b, Reg.ENG.BANK_CTRL_READY b,
   Reg.ENG.IMEM_LEN b, Reg.ENG.IMEM_REF b, Reg.ENG.ACTIVE_LEN b, Reg.ENG.IMEM_VER b]

/-- What an MX page keeps besides: the shadow, the live tiles, the tokens and the headers of the halves. -/
def keptMx (b : Nat) : List Field :=
  [Reg.MX.ARRAY_STATUS_WT_FMT b, Reg.MX.ARRAY_STATUS_TOKEN_HELD b, Reg.MX.ARRAY_STATUS_SHADOW b, Reg.MX.WEIGHT_GEN_GEN b,
   Reg.MX.WEIGHT_GEN_LIVE_TAG b, Reg.MX.SHADOW_TAG_TAG b, Reg.MX.SHADOW_TAG_ROWS b] ++
  (List.range 2).flatMap (fun h => [Reg.MX.ACC_HDR_ANCHOR b h, Reg.MX.ACC_HDR_MODE b h, Reg.MX.ACC_HDR_FMT b h, Reg.MX.ACC_HDR_OVF b h,
    Reg.MX.ACC_UNDERFLOW b h])

/-- What a move engine's page keeps besides: its gather descriptors (R117). -/
def keptMv (b : Nat) : List Field :=
  (List.range 16).flatMap (fun d => [Reg.MV.BASE b d, Reg.MV.STRIDE b d, Reg.MV.ELEM b d, Reg.MV.LIMIT b d, Reg.MV.TENANT b d,
    Reg.MV.DFLAGS_VALID b d, Reg.MV.DFLAGS_PAGE_CHECK b d])

/-- Arrivals at barriers that have not completed are withdrawn (R93). -/
def withdraw (n : Nat) (s : Block) : Block :=
  let pg := corPage (engCluster n) (engCoreOf n)
  overN 16 (fun i t => wr t (Reg.COR.BAR_STATE_ARRIVED pg i) (setBit (rd t (Reg.COR.BAR_STATE_ARRIVED pg i)) (engKind n) false)) s

/-- One engine's reset: the queue, loops, counts, wait and halt reason go; the banks and what R86 names stay. -/
def resetEngine (n : Nat) (s : Block) : Block :=
  let b := engBlock n
  let e := eng s n
  let s' :=
    if n < 768 then
      let t := withdraw n (resetPage s (engPage n))
      let t := keepFields s t (keptFields b ++ (if engKind n < 4 then keptMx b else []) ++ (if engKind n = 5 ∨ engKind n = 6 then keptMv b else []))
      let t := if engKind n < 4 ∧ isLeader s n ∧ shadowState s (engCluster n) (engCoreOf n) = 1 then
          setCore (setShadow t (engCluster n) (engCoreOf n) 0) (engCluster n) (engCoreOf n) { core t (engCluster n) (engCoreOf n) with shadow := {} }
        else t
      if engKind n = 4 then setCore t (engCluster n) (engCoreOf n) { core t (engCluster n) (engCoreOf n) with ars := [] } else t
    else keepFields s (resetRange s (b + 0x40) (b + 0xF0)) (keptFields b)
  setEng s' n { ({} : Engine) with
    resetBy := e.resetBy, resetAt := e.resetAt, snapshot := e.snapshot, tailBank := e.tailBank, nextIssue := e.nextIssue,
    aliasAt := e.aliasAt, aliasLog := e.aliasLog }

/-! ### Cores and clusters -/

/-- Posts and releases under way to the table of a page go with it. -/
def dropSignals (c pg : Nat) (s : Block) : Block :=
  let s := { s with
    heldReleases := Tab.clear s.heldReleases pg (pg + 0x1000), releases := s.releases.filter (fun r => r.2.1 != pg) }
  setClus s c { clus s c with crossing := (clus s c).crossing.filter (fun x => x.2.1 != pg) }

/-- A core's own reset: token slots, barriers, weights and halves (R127). -/
def resetCore (c k : Nat) (s : Block) : Block :=
  let inj := rd s (Reg.COR.ENGINE_MASK_IN_JOB (corPage c k))
  let s := overN 8 (fun e t => resetEngine (engCore c k e) t) s
  let s := wr (resetPage s (corPage c k)) (Reg.COR.ENGINE_MASK_IN_JOB (corPage c k)) inj
  let s := setCore s c k { core s c k with live := {}, shadow := {} }
  let s := dropSignals c (corPage c k) s
  overL (mxPages c k) (fun b t =>
    wr (wr (wr (wr t (Reg.MX.ARRAY_STATUS_SHADOW b) 0) (Reg.MX.ARRAY_STATUS_WT_FMT b) 0) (Reg.MX.WEIGHT_GEN_GEN b) 0) (Reg.MX.WEIGHT_GEN_LIVE_TAG b) 0) s

/-- A cluster's reset: its cores and its store's slots; the mesh engines and the regional clock run on (R118). -/
def resetCluster (c : Nat) (s : Block) : Block :=
  let s := overN 6 (fun k t => resetCore c k t) s
  let s := resetPage s (storePage c)
  let s := dropSignals c (storePage c) s
  let t := resetRange s (cluPage c) (cluPage c + 0xC0)
  let t := resetRange (resetRange t (cluPage c + 0x1B0) (cluPage c + 0x1C0)) (cluPage c + 0x2B0) (cluPage c + 0x2C0)
  keepFields s t [Reg.CLU.RESET_STATUS_ME (cluPage c), Reg.CLU.RESET_CTRL_ME_RESET (cluPage c), Reg.CLU.CORE_MASK_IN_JOB (cluPage c)]

end Sys2Proof.Machine
end

