-- ==== Sys2Proof/Machine/Crash.lean ====
section
/-! DEFINITION. The crash area: its slots (R332), the directory and the halt records (R335, R336), and the samples taken before
a reset (R332–R334). -/

namespace Sys2Proof.Machine

/-- Byte b of crash slot k (R332). -/
def crashAddr (s : Block) (k b : Nat) : Nat :=
  let ch := b / 256 % 8
  unitBase (12 + ch) + ddrCap s ch - 0x10000000 + k * 0x2000000 + b / 2048 * 256 + b % 256

def tierUp (s : Block) : Bool := flag s (Reg.DDR.DIMM_STATUS_TIER_UP (ddrPage 0))

/-- Bytes written into a crash slot, 256-byte line by line. -/
def crashPut (s : Block) (k off : Nat) (d : List Byte) : Block :=
  if !tierUp s then s
  else
    let h := 256 - off % 256
    overN (ceilDiv (d.length + off % 256) 256) (fun i t =>
      let o := if i = 0 then 0 else h + 256 * (i - 1)
      devWrite t (crashAddr t k (off + o)) ((d.drop o).take (if i = 0 then h else 256))) s

/-- n bytes of a crash slot. -/
def crashGet (s : Block) (k off n : Nat) : List Byte := (List.range n).map (fun i => Memory.read s.store.dev (crashAddr s k (off + i)))
def crashNum (s : Block) (k off n : Nat) : Nat := leNat (crashGet s k off n)

/-! ### The directory (R335, R336) -/

def dirMagic : Nat := 0x52494443
def dirSeal (s : Block) : Block := crashPut s 0 0xFFC (natLe 4 (crc32c (crashGet s 0 0 0xFFC)))
def dirPut (s : Block) (off n v : Nat) : Block := dirSeal (crashPut s 0 off (natLe n v))
def haltSeq (s : Block) : Nat := crashNum s 0 4 4
/-- The directory's MAGIC and CRC hold. -/
def dirOk (s : Block) : Bool := crashNum s 0 0 4 == dirMagic && crashNum s 0 0xFFC 4 == crc32c (crashGet s 0 0 0xFFC)
/-- Zeros over the whole crash area, then a fresh directory. -/
def dirFresh (s : Block) : Block :=
  let s := overN 8 (fun c t => if ddrCap t c = 0 then t else
    devZero t (unitBase (12 + c) + ddrCap t c - 0x10000000) (unitBase (12 + c) + ddrCap t c)) s
  dirPut s 0 4 dirMagic

/-- This module's first fault in the job, as bytes. -/
def firstFault (s : Block) : List Byte :=
  match s.plan.faultLog with
  | [] => zeros 32
  | f :: r => (r.foldl (fun a b => if b.time < a.time then b else a) f).bytes

/-- A halt record (R335), and HALT_SEQ advanced. -/
def haltRecord (s : Block) (haltSheet : Nat) (echoFailed : Bool) (record : List Byte) : Block :=
  let q := haltSeq s
  let body := natLe 8 (now s) ++ natLe 6 haltSheet ++ natLe 2 (ream s).tag ++ natLe 2 (ream s).rank ++ natLe 1 (b2n echoFailed) ++ zeros 1 ++
    natLe 4 q ++ zeros 8 ++ firstFault s ++ slice record 0 256 ++ zeros 700
  let s := crashPut s 0 (0x1000 + 1024 * (q % 64)) (body ++ natLe 4 (crc32c body))
  dirPut s 4 4 (q + 1)

/-! ### Samples (R332–R334) -/

/-- Who asks for a reset (R334). -/
def rqHost : Nat := 1
def rqMgt : Nat := 2
def rqItden : Nat := 3
def rqCode : Requester → Nat
  | .host => rqHost
  | .mgt => rqMgt

/-- A section of a sample. -/
structure Section where
  kind : Nat
  cl : Nat
  core : Nat
  data : List Byte
deriving DecidableEq, Repr

def pageBytes (s : Block) (pg : Nat) : List Byte := readWords s pg 1024

/-- Bytes [off, off + n) of an accumulator half: 12-byte accumulators, row by row (R134). -/
def halfBytes (s : Block) (c k m h off n : Nat) : List Byte :=
  let x := Tab.get (core s c k).halves {} (m * 2 + h)
  (List.range n).map (fun i => BitVec.ofNat 8 (bits (ofSigned 96 (Tab.get x.acc x.fill ((off + i) / 12))) (8 * ((off + i) % 12)) 8))

def firstLast (f : Nat → Nat → List Byte) (size : Nat) : List Byte := f 0 65536 ++ f (size - 65536) 65536

def coreSection (s : Block) (c k : Nat) (abandoned : Bool) : Section :=
  let base := 0x80040000000 + coreId c k * 0x800000
  let d := firstLast (fun o n => devRead s (base + o) n) 0x400000 ++ firstLast (fun o n => devRead s (base + 0x400000 + o) n) 0x200000 ++
    (List.range 4).flatMap (fun m => (List.range 2).flatMap (fun h => firstLast (halfBytes s c k m h) 196608)) ++
    (List.range 9).flatMap (fun p => pageBytes s (corPage c k + p * 0x1000)) ++
    (List.range 8).flatMap (fun e => snapLive s (engCore c k e) abandoned)
  ⟨1, c, k, slice d 0 (1344 * 1024)⟩

def clusterSection (s : Block) (c : Nat) : Section :=
  let base := 0x80000000000 + c * 0x2000000
  ⟨2, c, 0xFF, slice (firstLast (fun o n => devRead s (base + o) n) 0x1800000 ++ pageBytes s (cluPage c) ++ pageBytes s (clkPage c) ++
    pageBytes s (storePage c) ++ snapLive s (engME c 0) false ++ snapLive s (engME c 1) false) 0 (192 * 1024)⟩

/-- The engine of a die-level page, if it has one. -/
def pageEngine (pg : Nat) : Option Nat :=
  let n := pg % 0x10000 / 0x1000
  if pg = 0x6000 then some engHBE else if pg = 0x7000 then some engSSE
  else if 0x30000 ≤ pg ∧ pg < 0x40000 then some (engPE n)
  else if 0x50000 ≤ pg ∧ pg < 0x60000 then some (engHT n)
  else if 0x60000 ≤ pg ∧ pg < 0x70000 then some (engDT n) else none

def diePages (s : Block) (pages : List Nat) (abandoned : Bool) : List Byte :=
  pages.flatMap (fun p => pageBytes s p ++ (match pageEngine p with
    | some n => snapLive s n abandoned
    | none => []))

def dieSection (s : Block) (pages : List Nat) (abandoned : Bool) : Section := ⟨3, 0xFF, 0xFF, diePages s pages abandoned⟩

/-- A die-level engine's page and its snapshot. -/
def engineSection (s : Block) (n : Nat) (abandoned : Bool) : Section :=
  ⟨3, engClusterByte n, 0xFF, pageBytes s (engPage n) ++ snapLive s n abandoned⟩

/-- The sections of a sample in a scope: 1 engine n, 2 core, 3 cluster, 4 module. -/
def sections (s : Block) (scope n c k : Nat) (abandoned : Bool) : List Section :=
  if scope = 1 then (if n < 768 then [coreSection s (engCluster n) (engCoreOf n) abandoned] else [engineSection s n abandoned])
  else if scope = 2 then [coreSection s c k abandoned]
  else if scope = 3 then (List.range 6).map (fun i => coreSection s c i abandoned) ++ [clusterSection s c]
  else (List.range 16).flatMap (fun c => (List.range 6).map (fun i => coreSection s c i abandoned)) ++
    (List.range 16).map (clusterSection s) ++ [dieSection s (allPages.filter (· < 0x200000)) abandoned]

def slotState (s : Block) (k : Nat) : Nat := if crashNum s k 0 4 = 0x48535243 then crashNum s k 8 1 else 0
def slotSeq (s : Block) (k : Nat) : Nat := if slotState s k = 0 then 0 else crashNum s k 4 4

/-- The sample slot to write: EMPTY or COMPLETE with the lowest SEQ. -/
def sampleSlot (s : Block) : Option Nat :=
  let free := ((List.range 7).map (· + 1)).filter (fun k => slotState s k == 0 || slotState s k == 2)
  match free with
  | [] => none
  | k :: r => some (r.foldl (fun a b => if slotSeq s b < slotSeq s a then b else a) k)

/-- The sections written one after another, with their header entries. -/
def putSections (k : Nat) : Block → List Section → Nat → List Byte → Block × List Byte
  | s, [], _, hdr => (s, hdr)
  | s, x :: r, off, hdr =>
    putSections k (crashPut s k off x.data) r (off + x.data.length)
      (hdr ++ natLe 2 x.kind ++ natLe 1 x.cl ++ natLe 1 x.core ++ zeros 4 ++ natLe 4 off ++ natLe 4 x.data.length)

/-- The sample taken before a reset asked for at plan time `at_`: `n`, `c`, `k` name the domain's engine, cluster and core (DEDUCED, log entry 39). -/
def sample (s : Block) (scope requester n c k at_ : Nat) (abandoned : Bool) : Block :=
  if !tierUp s then s
  else match sampleSlot s with
    | none => dirPut s 0xC 4 (crashNum s 0 0xC 4 + 1)
    | some slot =>
      let secs := sections s scope n c k abandoned
      let seq := ((List.range 7).map (fun i => slotSeq s (i + 1))).foldl max 0 + 1
      let job := inJob s
      let q := putSections slot s secs 0x1000 []
      let body := natLe 1 scope ++ natLe 1 requester ++ natLe 1 (b2n abandoned + 2 * b2n (job && jobState s == 3)) ++ zeros 4 ++
        natLe 8 at_ ++ natLe 8 (rd s Reg.TBS.WALL_TIME) ++ natLe 6 (if job then sheet s else 0) ++
        natLe 2 (if job then (ream s).tag else 0) ++ natLe 2 (ream s).rank ++
        natLe 1 (if scope = 4 then 0xFF else if scope = 1 then engClusterByte n else c) ++
        natLe 1 (if scope = 2 then k else if scope = 1 then engCoreByte n else 0xFF) ++ natLe 1 (if scope = 1 then engCode n else 0xFF) ++
        zeros 3 ++ (if job then firstFault s else zeros 32) ++ natLe 4 secs.length ++ zeros 172 ++ q.2
      let body := slice body 0 (0xFFC - 9)
      crashPut q.1 slot 0 (natLe 4 0x48535243 ++ natLe 4 seq ++ natLe 1 2 ++ body ++ natLe 4 (crc32c body))

end Sys2Proof.Machine
end

