-- ==== Sys2Proof/Machine/Weights.lean ====
section
/-! DEFINITION. Weight-set descriptors (R295, R299, R300): states, regions, damage, and the progress of an intake. -/

namespace Sys2Proof.Machine

def wsEMPTY : Nat := 0
def wsLOADING : Nat := 1
def wsVERIFIED : Nat := 2
def wsACTIVE : Nat := 3
def wsSTANDBY : Nat := 4
def wsFAILED : Nat := 5
def wsState (s : Block) (d : Nat) : Nat := rd s (Reg.HDB.WS_CTRL_STATE d)
def wsSet (s : Block) (d : Nat) : Nat := rd s (Reg.HDB.WS_CTRL_SET d)
def setWs (s : Block) (d st : Nat) : Block := wr s (Reg.HDB.WS_CTRL_STATE d) st

/-- A set that a switch or a start may take: VERIFIED, ACTIVE or STANDBY. -/
def wsUsable (s : Block) (d : Nat) : Bool := wsState s d == wsVERIFIED || wsState s d == wsACTIVE || wsState s d == wsSTANDBY

/-- The descriptor that holds a set, ready for use. -/
def wsHolder (s : Block) (set_ : Nat) : Option Nat := (List.range 4).find? (fun d => wsUsable s d && wsSet s d == set_)

/-- The sets ready for use. -/
def wsReadySets (s : Block) : List Nat := ((List.range 4).filter (wsUsable s)).map (wsSet s)

/-- The set in force. -/
def wsActive (s : Block) : Option Nat := (List.range 4).find? (fun d => wsState s d == wsACTIVE)

/-- A descriptor becomes ACTIVE, the one before it STANDBY; WPTR follows (R299). -/
def wsActivate (s : Block) (d : Nat) : Block :=
  let s := overN 4 (fun i t => if i ≠ d ∧ wsState t i = wsACTIVE then setWs t i wsSTANDBY else t) s
  let s := { s with hdb := { s.hdb with activeDigest := Tab.get s.hdb.keyRoots [] d } }
  wr (setWs s d wsACTIVE) Reg.HDB.WPTR (rd s (Reg.HDB.WS_OFFSET d))

/-! ### Regions and damage -/

def hdbPg : Nat := 0x6000
/-- A descriptor's region within each stack: its first byte and its length. -/
def wsBase (s : Block) (d : Nat) : Nat := 65536 * rd s (Reg.HDB.WS_OFFSET d)
def wsLen (s : Block) (d : Nat) : Nat := 65536 * rd s (Reg.HDB.WS_SIZE d)
/-- A device address lies in the region of a descriptor. -/
def inWs (s : Block) (d a n : Nat) : Bool := decide (a < 0xC000000000) && meets (a % 0x1000000000) n (wsBase s d) (wsLen s d)

/-- An uncorrectable error in a region: a VERIFIED or STANDBY set fails, an ACTIVE one is only marked. -/
def wsDamage (s : Block) (a : Nat) : Block :=
  overN 4 (fun d t =>
    if inWs t d a 64 ∧ wsUsable t d then
      let t := if wsState t d = wsACTIVE then t else setWs t d wsFAILED
      raisePage (wr t (Reg.HDB.WS_CTRL_DAMAGED d) 1) hdbPg ErrBit.HDB.WS_DAMAGED
    else t) s

/-! ### The intake's progress (R295, R299) -/

def intakeState (s : Block) : Nat := rd s Reg.HDB.HDB_STATUS_INTAKE
def intakeDesc (s : Block) : Nat := rd s Reg.HDB.HDB_STATUS_DESC
def intakeKind (s : Block) : Nat := rd s Reg.HDB.HDB_STATUS_KIND
/-- The chunks whose writes still wait in the units' queues. -/
def queuedChunks (s : Block) : List Nat := (List.range 12).flatMap (fun u => (unit s u).headbox.map (fun m => m.tag))

/-- The intake ends. Of one that failed, what still waits in the units' queues is not written (R295) (DEDUCED, log entry 34). -/
def endIntake (s : Block) (code : Nat) : Block :=
  let s := when (code != 0) (fun t => { t with units := t.units.map (fun u => (u.1, { u.2 with headbox := [] })) }) s
  let s := { s with hdb := { s.hdb with copying := false } }
  let s := wr (wr (wr s Reg.HDB.HDB_STATUS_INTAKE 3) Reg.HDB.HDB_STATUS_FAIL (b2n (code != 0))) Reg.HDB.HDB_STATUS_FAIL_CODE code
  if intakeKind s = 0 then setWs s (intakeDesc s) (if code = 0 then wsVERIFIED else if code = 11 then wsEMPTY else wsFAILED) else s

/-- CHUNKS_DONE counts chunks written in order; after the last the set is VERIFIED. An aborted intake ends once its queued writes
have been made. -/
def settleIntake (s : Block) : Block :=
  let q := queuedChunks s
  if s.hdb.aborting then
    (if q.isEmpty then endIntake { s with hdb := { s.hdb with aborting := false } } 11 else s)
  else if intakeState s = 2 then
    let done := q.foldl min s.hdb.next
    let s := wr s Reg.HDB.CHUNKS_DONE done
    if done = s.hdb.chunks then endIntake s 0 else s
  else s

end Sys2Proof.Machine
end

