-- ==== Sys2Proof/Machine/Memories.lean ====
section
/-! DEFINITION. The memory tiers at work: scheduled reads and writes, refresh, patrol scrub, move windows (R166–R175, R268). -/

namespace Sys2Proof.Machine

/-! ### Memory slots (R166, R167) -/

/-- Bytes that a memory slot moves. -/
def slotBytes (u : Nat) : Nat := if u < 12 then 12288 else 256

/-- The memory slot of a schedule tick within its block, if any. -/
def memSlot (t : Nat) : Option Nat := if t % 1024 < 74 then none else some ((t % 1024 - 74) / 5)

/-- The memory slot of now, as programs number it: block × 190 + j. -/
def progSlot (s : Block) : Option Nat := (memSlot (sched s)).map (fun j => (sched s - s.plan.sheetStart) / 1024 * 190 + j)

/-- The engine of a unit. -/
def tierEng (u : Nat) : Nat := 782 + u

/-- The tier program's operation for the present slot. -/
def tierOp (s : Block) (u op : Nat) : Option (SlotOp × Nat) :=
  match progSlot s with
  | none => none
  | some x =>
    match (bankProgram s (tierEng u) (activeBank s (tierEng u))).find? (fun o => fOpcode o.word == op && o.names x) with
    | some o => some (o, x)
    | none => none

def tierRuns (s : Block) (u : Nat) : Bool := engState s (tierEng u) == 2 && (eng s (tierEng u)).resetBy == 0 && slotsRun s

/-- The tier engine has issued an operation. -/
def tierIssued (s : Block) (u : Nat) (o : SlotOp) (x : Nat) : Block :=
  let n := tierEng u
  let e := eng s n
  wr (setEng s n { e with lastTick := sched s, issued := e.issued + 1, sentAt := Tab.put e.sentAt 0 0 (sheet s * 2 ^ 20 + x + 1) })
    (Reg.ENG.NEXT_OP (engBlock n)) (16 * (o.idx + 1))
def tierFresh (s : Block) (u x : Nat) : Bool := Tab.get (eng s (tierEng u)).sentAt 0 0 != sheet s * 2 ^ 20 + x + 1

/-! ### TREAD, TREAD_DELIVER, TWRITE (R169, R174) -/

def doTread (s : Block) (u : Nat) : Block :=
  match tierOp s u opTREAD with
  | none => s
  | some (o, x) =>
    if !tierRuns s u || !tierFresh s u x then s
    else
      let a := stepAddr (fTAddr o.word) (fTStep o.word) (fTFirst o.word) x
      let len := slotBytes u
      if unitOf s a ≠ some u ∨ !inRanges s a len then halt s (tierEng u) rsADDR (16 * o.idx)
      else
        let fin := sched s - (sched s % 1024 - 74) % 5 + 5
        let due := fin + (if u < 12 then 140 + rd s (Reg.TBS.XING_LAT_CAL 2) else 180 + rd s (Reg.TBS.XING_LAT_CAL 3))
        let bad := badBlocks s a (len / 64)
        let r : ReadData := ⟨fChan o.word, due, false, a, bad, devReadSafe s a len⟩
        let s := setUnit (tierIssued s u o x) u { unit s u with reads := (unit s u).reads ++ [r] }
        let s := noteUes (noteCes s u a len) u ErrBit.HBM.UE_PLAN bad
        when (!bad.isEmpty) (fun t => faultEng t clsUncorrectable (tierEng u) 0 (16 * o.idx)) s

def doTreadDeliver (s : Block) (u : Nat) : Block :=
  let x := unit s u
  match x.reads.find? (fun r => !r.delivered) with
  | none => s
  | some r =>
    if sched s < r.due then s
    else
      let rest := (x.reads.erase r).filter (fun q => !(q.delivered && q.chan == r.chan))
      setUnit s u { x with reads := { r with delivered := true } :: rest }

/-- Where the mesh brings a unit's write data, and how long a hop takes. -/
def unitNode (u : Nat) : Nat := if u < 12 then 20 + u else if u < 16 then 16 else 17
def unitHop (s : Block) (u : Nat) : Nat := if u < 12 then 8 + rd s (Reg.TBS.XING_LAT_CAL 2) else 16

/-- The i-th 256 bytes of a scheduled write: a flit of the channel, in order of arrival. -/
def twriteOne (u a ch op i : Nat) (s : Block) : Block :=
  match meshTake s (fun f => f.node == unitNode u && f.chan == ch && decide (2 * f.slot + unitHop s u ≤ sched s)) with
  | none => faultEng s clsHollow (tierEng u) 0 op
  | some (f, t) =>
    let t := when f.bad (fun b => faultEng b clsUncorrectable (tierEng u) 0 op) t
    if f.hollow || f.bad then faultEng t clsHollow (tierEng u) 0 op else devWrite t (a + 256 * i) f.payload

def doTwrite (s : Block) (u : Nat) : Block :=
  match tierOp s u opTWRITE with
  | none => s
  | some (o, x) =>
    if !tierRuns s u || !tierFresh s u x then s
    else
      let a := stepAddr (fTAddr o.word) (fTStep o.word) (fTFirst o.word) x
      let len := slotBytes u
      if unitOf s a ≠ some u ∨ !inRanges s a len then halt s (tierEng u) rsADDR (16 * o.idx)
      else overN (len / 256) (fun i t => twriteOne u a (fChan o.word) (16 * o.idx) i t) (tierIssued s u o x)

/-! ### Refresh and the reserve (R166, R168, R173, R175) -/

def doRefresh (s : Block) (u : Nat) : Block :=
  if now s % 1024 < 64 then setUnit s u { unit s u with refreshed := now s / 1024 + 1 } else s

/-- A session whose page meets an uncorrectable error is POISONED at the next build (R264, R174); a quarantined page is RETIRED (R267). -/
def poolUe (s : Block) (a : Nat) : Block :=
  let hit := if a < 0xC000000000 then (hbmPageOf s a).map (fun p => (0, p))
    else (List.range (ddrPool s)).find? (fun p => pageAddr s 1 p == a / 65536 * 65536) |>.map (fun p => (1, p))
  match hit with
  | none => s
  | some (tier, p) =>
    let st := pageState s tier p
    if st = pgQUARANTINE then
      let s := incMod (wr (setPageState s tier p pgRETIRED) Reg.SES.QUARANTINE (rd s Reg.SES.QUARANTINE - 1)) Reg.SES.RETIRED 1
      charge (raisePage s 0x7000 ErrBit.SES.PAGE_RETIRED) 6 0 60000000000
    else if st = pgOWNED ∨ st = pgFILLING ∨ st = pgDRAINING then
      { s with serv := { s.serv with poisoned := s.serv.poisoned ++ [pageSession s tier p] } }
    else s

def regU (u : Nat) (h d : Nat → Field) : Field := if u < 12 then h (unitPage u) else d (unitPage u)

/-- Errors that an access of the reserve finds: corrected in line and counted; uncorrectable ones counted, and what holds them marked (R173,
R174). -/
def noteReserve (s : Block) (u a n : Nat) : Block :=
  let bad := badBlocks s a (ceilDiv (a % 64 + n) 64)
  overL bad (fun b t => wsDamage (poolUe t b) b) (noteUes (noteCes s u a n) u ErrBit.HBM.UE_SCRUB bad)

/-- One patrol access: the position moves on; what it corrects is written back (R173, R175). `corrected` and `uncorrectable` say what the hardware
met besides what the state records. -/
def scrubOnce (s : Block) (u : Nat) (corrected uncorrectable : Bool) : Block :=
  let n := slotBytes u
  let pos := (unit s u).scrubAt
  let a := unitBase u + pos
  let last := decide (unitSize s u ≤ pos + n)
  let s := when uncorrectable (fun t => poisonWords t (a / 64 * 64) 8) s
  let s := noteReserve (when corrected (fun t => noteCorrected t u) s) u a n
  let s := { setUnit s u { unit s u with scrubAt := if last then 0 else pos + n } with soft := wordsAway a (a + n) s.soft }
  let s := when last (fun t => incMod t (regU u Reg.HBM.SCRUB_PASSES Reg.DDR.SCRUB_PASSES) 1) s
  wr s (regU u Reg.HBM.SCRUB_POS Reg.DDR.SCRUB_POS) ((unit s u).scrubAt / 65536)

/-- Read-back: the accesses at the head of the queue that one half of the reserve can carry, 12,288 or 256 bytes. -/
def readbackFits : Nat → List SideFlit → List SideFlit
  | _, [] => []
  | room, f :: r => if f.len ≤ room then f :: readbackFits (room - f.len) r else []
/-- DEDUCED, log entry 35. -/
def readbackOnce (s : Block) (u : Nat) : Block :=
  let l := readbackFits (slotBytes u) (unit s u).readback
  let s := setUnit s u { unit s u with readback := (unit s u).readback.drop l.length }
  overL l (fun f t => sideAct (if f.write then t else noteReserve t u f.addr f.len) f) s

/-- Work that finds no tick of the reserve waits for a later period, which counts once (R175, R181) (DEDUCED, log entry 35). -/
def noteWait (s : Block) (u : Nat) : Block :=
  let period := now s / 1024 + 1
  if (unit s u).waited = period then s
  else incSat (setUnit s u { unit s u with waited := period }) (regU u Reg.HBM.RESERVE_WAIT Reg.DDR.RESERVE_WAIT) 1

/-- A half of a period's reserve: ticks [64, 69) go to the patrol first, [69, 74) to read-back, and to the patrol where no read-back waits; read-back
takes the first half where the patrol has used neither and has nothing pending, which it never has (R175) (DEDUCED, log entry 35). -/
def doScrub (s : Block) (u : Nat) (corrected uncorrectable : Bool) : Block :=
  let t := now s % 1024
  let period := now s / 1024 + 1
  let x := unit s u
  if 64 ≤ t ∧ t < 69 ∧ x.scrubbed ≠ period then scrubOnce (setUnit s u { x with scrubbed := period }) u corrected uncorrectable
  else if 69 ≤ t ∧ t < 74 ∧ x.reserved ≠ period then
    let s := setUnit s u { x with reserved := period }
    if x.readback.isEmpty then scrubOnce s u corrected uncorrectable
    else
      let s := readbackOnce s u
      if (unit s u).readback.isEmpty then s else noteWait s u
  else noteWait s u

/-- The first byte and the size of an SRAM of a cluster: its store, the WSP of a core, the ASP of one. -/
def sramRange (c b : Nat) : Nat × Nat :=
  if b = 0 then (0x80000000000 + c * 0x2000000, 0x1800000)
  else if b < 7 then (spaceAddr (engCore c (b - 1) 0) 0 0, 0x400000) else (spaceAddr (engCore c (b - 7) 0) 1 0, 0x200000)

/-- One patrol access of an SRAM, 32 bytes through its second port (R165, R175): a correctable error is corrected; an uncorrectable one stays until the
word is written. It has no page to count on (R173) (DEDUCED, log entry 35). -/
def doSramScrub (s : Block) (c b : Nat) (uncorrectable : Bool) : Block :=
  let r := sramRange c b
  let pos := Tab.get s.sramScrub 0 (c * 13 + b)
  let a := r.1 + pos
  let s := when uncorrectable (fun t => poisonWords t a 1) s
  { s with
    soft := wordsAway a (a + 32) s.soft
    sramScrub := Tab.put s.sramScrub 0 (c * 13 + b) (if r.2 ≤ pos + 32 then 0 else pos + 32) }

/-! ### Move windows (R170, R171, R174, R268) -/

/-- The code of the move map for the present slot of a unit: 0 plan, else a class (R170). Where no map holds, every slot is open (DEDUCED, log entry 35). -/
def slotClass (s : Block) (u : Nat) : Option Nat :=
  match memSlot (if mapped s then sched s else now s) with
  | none => none
  | some j =>
    if !mapped s then some 0
    else
      let k := sheet s % max 1 (ream s).cycle.length
      some (bits (fieldLe (ream s).moveMap (48 * (20 * k + u)) 48) (2 * j) 2)

/-- A move may use this slot (DEDUCED, log entry 35). -/
def slotOpen (s : Block) (u cls : Nat) : Bool :=
  match slotClass s u with
  | none => false
  | some c => !s.plan.inQuantum && (if mapped s then c == cls else true)

/-- The other half of a page copy, in whichever unit's KV queue it stands. -/
def mapKv (s : Block) (f : Move → Move) : Block :=
  overN 20 (fun u t => setUnit t u { unit t u with kv := (unit t u).kv.map f }) s

/-- A read by a move: what it corrects and what it cannot correct are noted. -/
def noteMove (s : Block) (u a n : Nat) : Block :=
  noteUes (noteCes s u a n) u ErrBit.HBM.UE_MOVE (badBlocks s a (ceilDiv (a % 64 + n) 64))

/-- A table access of the session engine (kind 4): a write of its bytes, or a read (R268). -/
def tableStep (s : Block) (u : Nat) (m : Move) : Block := if m.data.isEmpty then noteMove s u m.addr m.len else devWrite s m.addr m.data

/-- The slot of a host or service access (R249, R357): the oldest whose work at the unit is not over. Once the job's slot programs have stopped, no
carriage slot is needed (DEDUCED, log entry 21). -/
def hostStep (s : Block) (u : Nat) (l : List Move) : Block × Bool :=
  let n := slotBytes u
  let near := !mapped s || (12 ≤ u && u < 16)
  let put := fun (t : Block) (m m' : Move) => setUnit t u { unit t u with hostq := (unit t u).hostq.map (fun y => if y = m then m' else y) }
  match l.find? (fun y => y.len != 0) with
  | none => (s, false)
  | some m =>
    let k := min n m.len
    if m.outward then
      let held := m.kind == 9
      let d := if held then zeros k else devReadSafe s m.addr k
      let m' := { m with addr := m.addr + k, len := m.len - k }
      (put (if held then s else noteMove s u m.addr k) m (if near then { m' with far := m.far ++ m.data ++ d, data := [] } else { m' with data := m.data ++ d }), true)
    else if m.kind = 7 then
      let d := if near then m.data ++ m.far else m.data
      let k := min k d.length
      if k = 0 then (s, false)
      else
        (put (devWrite s m.addr (d.take k)) m { m with
          addr := m.addr + k, len := m.len - k, data := d.drop k, far := if near then [] else m.far }, true)
    else
      let f : SideFlit := ⟨m.addr, k, m.data.take k, m.tag, m.bad, true, false⟩
      let m' := { m with addr := m.addr + k, len := m.len - k, data := m.data.drop k }
      let s := if m'.len = 0 then setUnit s u { unit s u with hostq := (unit s u).hostq.erase m } else put s m m'
      (sideAct (if f.write then s else noteMove s u f.addr f.len) f, true)

/-- A slot's worth of the head of a queue; the flag says whether the slot was used. -/
def moveStep (s : Block) (u cls : Nat) : Block × Bool :=
  let x := unit s u
  let n := slotBytes u
  let put := fun (t : Block) (q : List Move) => setUnit t u (setMoveQueue (unit t u) cls q)
  match moveQueue x cls with
  | [] => (s, false)
  | m :: r =>
    let k := min n m.len
    if 6 ≤ m.kind then hostStep s u (m :: r)
    else if m.kind = 1 then
      if m.len = 0 then (s, false)
      else
        let bad := (badBlocks s m.addr (k / 64))
        let d := devReadSafe s m.addr k
        let m' := { m with addr := m.addr + k, len := m.len - k }
        let s := noteMove s u m.addr k
        let s := when (!bad.isEmpty) (fun t => mapKv t (fun y => if y.tag = m.tag then { y with bad := true } else y)) s
        if mapped s then (put s ({ m' with data := m.data ++ d } :: r), true)
        else
          let s := put s (if m'.len = 0 then r else m' :: r)
          (mapKv s (fun y => if y.kind = 2 ∧ y.tag = m.tag then { y with data := y.data ++ d } else y), true)
    else if m.kind = 2 then
      let have_ := m.data.length - (65536 - m.len)
      if m.len = 0 ∨ have_ < k then (s, false)
      else (put s ({ m with len := m.len - k } :: r), true)
    else if m.kind = 3 then
      if m.len = 0 then (s, false) else (put s ({ m with len := m.len - k } :: r), true)
    else if m.kind = 5 then
      let d := if mapped s then m.data else m.data ++ m.far
      let k := min k d.length
      if k = 0 then (s, false)
      else
        let m' := { m with addr := m.addr + k, len := m.len - k, data := d.drop k, far := if mapped s then m.far else [] }
        (put (devWrite s m.addr (d.take k)) (if m'.len = 0 then r else m' :: r), true)
    else (put (tableStep s u m) r, true)

/-- A reading half whose data has all been carried away leaves its queue. -/
def dropRead (s : Block) (u : Nat) : Block :=
  match (unit s u).kv with
  | m :: r => if m.kind = 1 ∧ m.len = 0 ∧ m.data = [] then setUnit s u { unit s u with kv := r } else s
  | [] => s

def classCode : MoveClass → Nat
  | .kv => 1
  | .headbox => 2
  | .host => 3

def doMoveSlot (s : Block) (u cls : Nat) : Block :=
  let slotId := now s / 1024 * 190 + (now s % 1024 - 74) / 5 + 1
  if !slotOpen s u cls ∨ (unit s u).lastSlot = slotId then s
  else
    let s := dropRead (setUnit s u { unit s u with lastSlot := slotId }) u
    let r := moveStep s u cls
    let r := if cls = 2 then (settleIntake r.1, r.2) else r
    if r.2 then incMod r.1 (regU u Reg.HBM.MOVE_USED Reg.DDR.MOVE_USED) 1
    else incMod r.1 (regU u Reg.HBM.MOVE_IDLE Reg.DDR.MOVE_IDLE) 1

/-! ### Host accesses in a job (R179, R209, R249, R357) -/

/-- A host transfer joins a unit's HOST queue (R170): a read, or a write with its bytes still at the endpoint (DEDUCED, log entry 44). -/
def hostEnqueue (s : Block) (u : Nat) (write : Bool) (a n tag : Nat) (d : List Byte) : Block :=
  let x := unit s u
  if 256 ≤ x.hostq.length then raisePage s (unitPage u) ErrBit.HBM.HOST_QUEUE_FULL
  else setUnit s u { x with hostq := x.hostq ++ [⟨if write then 7 else 6, a, n, tag, false, [], d, n⟩] }

/-- A results entry of n bytes leaves the device area in HOST slots of a unit (R179, R287): whether it is across (DEDUCED, log entry 38). -/
def resultsAcross (s : Block) (u tag n : Nat) : Block × Bool :=
  match (unit s u).hostq.find? (fun m => m.tag == tag && m.kind == 9) with
  | some m => if m.len = 0 ∧ m.data = [] ∧ m.far.length = n then (setUnit s u { unit s u with hostq := (unit s u).hostq.erase m }, true) else (s, false)
  | none =>
    if !inJob s then (s, true)
    else if 5 ≤ jobState s ∨ 256 ≤ (unit s u).hostq.length then (s, false)
    else (setUnit s u { unit s u with hostq := (unit s u).hostq ++ [⟨9, 0, n, tag, false, [], [], n⟩] }, false)

/-- A DMA access of device memory (R170, R179, R357): of HBM and DDR5 in a job it waits for its HOST slots, and for the carriage slots that bring its data
across (R209), at most 256 waiting a unit, none new once the teardown drains (R345); of on-die SRAM, and outside a job, it is side traffic. The
answer is what it read, once it is done (DEDUCED, log entry 44). -/
def hostAccess (s : Block) (write : Bool) (a n tag : Nat) (d : List Byte) : Block × Option (List Byte) :=
  match unitOf s a with
  | none => sideAccess s false write a n tag d
  | some u =>
    match (unit s u).hostq.find? (fun m => m.tag == tag && m.kind != 8) with
    | some m =>
      if m.len = 0 ∧ m.data = [] ∧ (write ∨ m.far.length = n) then
        (setUnit s u { unit s u with hostq := (unit s u).hostq.erase m }, some m.far)
      else (s, none)
    | none =>
      if !inJob s then sideAccess s false write a n tag d
      else if 5 ≤ jobState s then (s, none)
      else (hostEnqueue s u write a n tag d, none)

/-! ### The hang check (R328) -/

/-- A slot engine's program names an operation for a schedule tick, by departure or by release, that the engine has not issued (DEDUCED, log entry 28). -/
def slotMissed (s : Block) (n tick : Nat) : Bool :=
  let e := eng s n
  let ops := bankProgram s n (activeBank s n)
  let sent := match versionFor s n (tick / 2) with
    | none => false
    | some (bank, x) => (bankProgram s n bank).any (fun o => isTx o.word && o.names x &&
        o.outs.any (fun c => decide (Tab.get e.sentAt 0 c < tick / 2 + 1)))
  let taken := (ops.map (fun o => fChan o.word)).eraseDups.any (fun i =>
    let d := releaseDelay s n i
    let js := (tick - d) / 2
    decide (d ≤ tick) && (tick - d) % 2 == 0 && (rxOp s n i js (fun op => op == opDELIVER || op == opHOLD)).isSome &&
      decide (Tab.get e.recvAt 0 i < js + 1))
  (tick % 2 == 0 && sent) || taken

/-- A tier engine's program names an operation for the memory slot that begins at a schedule tick, and the engine has not issued it (DEDUCED, log entry 28). -/
def tierMissed (s : Block) (n tick : Nat) : Bool :=
  let last := decide (tick < s.plan.sheetStart)
  let start := if last then s.plan.sheetStart - lenOfSheet s (sheet s - 1) else s.plan.sheetStart
  match memSlot tick with
  | none => false
  | some j =>
    let x := (tick - start) / 1024 * 190 + j
    (tick % 1024 - 74) % 5 == 0 && decide (start ≤ tick) &&
      (bankProgram s n (activeBank s n)).any (fun o => isTierOp o.word && o.names x) &&
      decide (Tab.get (eng s n).sentAt 0 0 < (sheet s - b2n last) * 2 ^ 20 + x + 1)

/-- A die-level engine has not issued the operation named for a schedule tick. The headbox engine and the session engine run no program of the
ream: the tick itself names their work (DEDUCED, log entry 27) (DEDUCED, log entry 28). -/
def missed (s : Block) (n tick : Nat) : Bool :=
  if engIsSlot n then slotMissed s n tick else if 782 ≤ n ∧ n < 802 then tierMissed s n tick else decide ((eng s n).lastTick < tick)

/-- A die-level engine that has not issued the operation named for a schedule tick by that tick plus GRACE is HUNG (R328). -/
def doHangCheck (s : Block) (n tick : Nat) : Block :=
  if 768 ≤ n ∧ engState s n ≠ 4 ∧ engState s n ≠ 0 ∧ missed s n tick ∧ tick + rd s (Reg.ENG.GRACE (engBlock n)) ≤ sched s then
    haltNext s n rsDEADLINE
  else s

/-! ### Meanings -/

def execDieEngineHangCheck (e : EngineId) (tick : Nat) := run (fun s => doHangCheck s (engNum e) tick)

def execTread (u : MemUnit) := run (fun s => doTread s (unitNum u))
def execTreadDeliver (u : MemUnit) := run (fun s => doTreadDeliver s (unitNum u))
def execTwrite (u : MemUnit) := run (fun s => doTwrite s (unitNum u))
def execRefreshWindow (u : MemUnit) := run (fun s => doRefresh s (unitNum u))
def execPatrolScrub (t : ScrubTarget) (corrected uncorrectable : Bool) :=
  run (fun s => match t with
    | .unit u => doScrub s (unitNum u) corrected uncorrectable
    | .sram c b => doSramScrub s c b uncorrectable)
def execMoveSlot (u : MemUnit) (c : MoveClass) := run (fun s => doMoveSlot s (unitNum u) (classCode c))

end Sys2Proof.Machine
end

