-- ==== Sys2Proof/Machine/Power.lean ====
section
/-! DEFINITION. Power and the regional clocks: the power model and caps, heavy tokens, loans, temperature, supply, region stops and
droop (R44, R47, R72–R75, R304–R321). Frequencies are in 10 MHz units, watts whole. -/

namespace Sys2Proof.Machine

def pwr : Nat := 0x3000

/-! ### The model (R308–R310, R312) -/

/-- 1,300 × p(f) at t heavy tokens. -/
def power1300 (t f : Nat) : Nat := 1306500 + (10988 + 13 * t) * f
/-- p(f), rounded up to a whole watt. -/
def powerUp (t f : Nat) : Nat := ceilDiv (power1300 t f) 1300
def tokenPool (cap : Nat) : Nat := min 384 ((10 * cap - 21038) / 13)

/-- R44 without its limit. -/
def quantaNeeded (len floor f : Nat) (change : Bool) : Nat :=
  (if f < floor then ceilDiv (len * (floor - f)) (f * 1024) else 0) + b2n change

/-- The loaded ream's f_floor; the top frequency where none is loaded. -/
def floorOf (s : Block) : Nat := if s.plan.ream.isSome then (ream s).floor else 130

/-- CAP + borrowed − lent − CORRECTION (R309). -/
def capEff (s : Block) : Nat :=
  rd s Reg.PWR.CAP + rd s Reg.PWR.LOAN_STATE_BORROWED - (rd s Reg.PWR.LOAN_STATE_LENT + rd s Reg.PWR.CAP_EFF_CORRECTION)

/-- EFFECTIVE follows its parts (DEDUCED, log entry 48). -/
def showCap (s : Block) : Block :=
  wr (wr s Reg.PWR.CAP_EFF_EFFECTIVE (min (capEff s) 4095)) Reg.PWR.TOKENS_POOL (tokenPool (rd s Reg.PWR.CAP))

/-- f_cap for a number of granted tokens (R309). -/
def fCap (s : Block) (t : Nat) : Nat :=
  (((List.range 91).map (fun i => 130 - i)).find? (fun f => decide (power1300 t f ≤ 1300 * capEff s))).getD 40

def cycleIdx (s : Block) (n : Nat) : Nat := n % max 1 (ream s).cycle.length
def maskOf (s : Block) (n : Nat) : Nat := (ream s).tokens.getD (cycleIdx s n) 0
def planned (s : Block) (n : Nat) : Nat := popcount 384 (maskOf s n)
def mostTokens (s : Block) : Nat := ((ream s).tokens.map (popcount 384)).foldl max 0
def shortest (s : Block) : Nat := ((ream s).cycle.map (fun e => e.blocks * 1024)).foldl min (2 ^ 20)

/-- f_low and the plan floor (R310). -/
def fLow (s : Block) : Nat :=
  (((List.range 91).map (40 + ·)).find? (fun f => decide (quantaNeeded (shortest s) (floorOf s) f true ≤ 64))).getD 130
def planFloor (s : Block) : Nat := powerUp (mostTokens s) (fLow s)

/-- Schedule time at the boundary of a sheet not before the present one. -/
def sigmaOf (s : Block) (m : Nat) : Nat :=
  s.plan.sheetStart + (List.range (m - sheet s)).foldl (fun a i => a + lenOfSheet s (sheet s + i)) 0

/-- The TOKEN_LIMIT read for a sheet (R313): sheets no computation served are not limited by it (DEDUCED, log entry 26). -/
def limitFor (s : Block) (m : Nat) : Nat := Tab.get s.plan.tokenLimits 384 m

/-- The ramp limits at the boundary of a sheet: from T0 (R314), and down to a teardown named at least 12.5 ms ahead (R347). -/
def rampOf (s : Block) (m : Nat) : Nat :=
  let up := sigmaOf s m / 32500
  if s.plan.teardownNamed && s.plan.teardownRamp then min up ((sigmaOf s s.plan.teardownSheet - sigmaOf s m) / 32500) else up

/-- Tokens granted in a sheet (DEDUCED, log entry 26). -/
def grantOf (s : Block) (m : Nat) : Nat := min (planned s m) (min (rampOf s m) (limitFor s m))
/-- The grant of a sheet at its boundary: what its request computation fixed; a sheet that none served has its own limits (R313). -/
def grantAt (s : Block) (m : Nat) : Nat :=
  match s.plan.grants.find? (fun g => g.1 == m) with
  | some g => g.2
  | none => grantOf s m

/-- The lowest t set bits of a mask: what remains when the highest arrays are withheld. -/
def lowestBits (mask t : Nat) : Nat :=
  ((List.range 384).foldl (fun (p : Nat × Nat) i => if p.2 < t ∧ bit mask i then (setBit p.1 i true, p.2 + 1) else p) (0, 0)).1

/-! ### Region stops (R72–R75) -/

def freqNow (s : Block) (c : Nat) : Nat := rd s (Reg.CLK.FREQ_NOW_NOW (clkPage c))

/-- The gate of a region closes: for a scheduled change, for a sag, or for both at once (R74). FREQ_NOW.STOPPED reads 1 from here until the gate
opens; in the droop wait before it the region still runs, and it reads 0 (DESIGN CHOICE, log entry 25). -/
def closeGate (s : Block) (c restart : Nat) (scheduled sag : Bool) (wait : Nat) : Block :=
  let pg := clkPage c
  let x := clus s c
  let s := setClus s c { x with gateClosed := some (now s), stopReq := none, scheduled := scheduled, restart := restart, oldFreq := freqNow s c }
  let s := wr s (Reg.CLK.FREQ_NOW_STOPPED pg) 1
  wr (wr (wr s (Reg.CLK.STOP_LOG_DROOP_WAIT pg) (min wait 1023)) (Reg.CLK.STOP_LOG_DROOP_IN_STOP pg) 0) (Reg.CLK.STOP_LOG_SAG_STOP pg) (b2n sag)

/-- The region runs at or below f_floor in a job, and no agreed stretch covers it yet (R305, R321). -/
def uncover (s : Block) (c : Nat) : Block := when (inJob s) (fun t => setClus t c { clus t c with uncovered := true }) s

/-- A sag stop (R74): at once, or joined to the stop in progress; the region restarts at the lower of its target and `f`. -/
def sagStop (s : Block) (f c : Nat) : Block :=
  let s := uncover s c
  let x := clus s c
  if x.gateClosed.isSome then setClus s c { x with restart := min x.restart f }
  else match x.stopReq with
    | some t => closeGate s c (min x.restart f) true true (now s - t)
    | none => closeGate s c (min (freqNow s c) f) false true 0

/-- The gate of a region opens at a frequency; what the crossings held comes in at the first edge (R72, R92). -/
def openGate (s : Block) (c f : Nat) : Block :=
  let pg := clkPage c
  let x := clus s c
  let dur := now s - x.gateClosed.getD (now s)
  let s := wr (wr (wr s (Reg.CLK.FREQ_NOW_NOW pg) f) (Reg.CLK.FREQ_NOW_STOPPED pg) 0) (Reg.CLK.STOP_LOG_DURATION pg) (min dur 1023)
  let s := setClus s c { x with gateClosed := none, scheduled := false, pendingFreq := none }
  let release := fun (t : Block) => overL (clus t c).inbound (fun i b => bringIn b c i) (setClus t c { clus t c with inbound := [] })
  match x.pendingFreq with
  | some g => if g ≠ f then closeGate s c g true false 0 else release s
  | none => release s

/-- REGION_STOP_BEGIN (R73): no droop in the 50 ticks before this one, or 200 ticks waited. -/
def doStopBegin (s : Block) (c : Nat) : Block :=
  let x := clus s c
  match x.stopReq with
  | none => s
  | some t =>
    let quiet := x.droops.all (fun d => decide (d + 50 < now s) || decide (now s ≤ d))
    if x.gateClosed.isNone && (quiet || decide (t + 200 ≤ now s)) then closeGate s c x.restart true false (now s - t) else s

/-- GENERATOR_LOCK within 480 ticks of the gate's closing (R72, R74). -/
def doLock (s : Block) (c : Nat) : Block :=
  let x := clus s c
  match x.gateClosed with
  | none => s
  | some t =>
    if now s < t + 480 then
      openGate (when x.scheduled (fun b => wr b (Reg.CLK.STOP_LOG_CHANGE_FAILED (clkPage c)) 0) s) c x.restart
    else s

/-- A stretch request joins those that wait for a window, with its plan time (R38, R43, R44); `cluster` is that of the controller whose need
passes 64 quanta, 0xFF where no controller asks (DEDUCED, log entry 25). -/
def stretch (s : Block) (cluster q cause : Nat) : Block :=
  if inJob s ∧ q ≠ 0 then
    let s := when (decide (64 < q)) (fun t => fault t clsStretchLimit cluster 0xFF 0xFF 0 0) s
    { s with plan := { s.plan with requests := s.plan.requests ++ [(now s, min q 64, cause)] } }
  else s

/-- The quanta that the committed record agrees for the next sheet. -/
def agreedNext (s : Block) : Nat := if s.plan.committedValid then fieldLe s.plan.committed 0x0A 1 else 0

/-- No lock by tick 480 (R74): the region restarts at the old frequency; a scheduled change that failed so is FREQ_CHANGE_FAIL (R444). -/
def doChangeFail (s : Block) (c : Nat) : Block :=
  let x := clus s c
  match x.gateClosed with
  | none => s
  | some t =>
    if now s < t + 480 then s
    else
      let pg := clkPage c
      let old := x.oldFreq
      let s := when x.scheduled (fun b => wr (raisePage b pg ErrBit.CLK.FREQ_CHANGE_FAIL) (Reg.CLK.STOP_LOG_CHANGE_FAILED pg) 1) s
      let fl := floorOf s
      let s := if old < fl then uncover s c else s
      let s := when (inJob s && decide (old < fl) && decide (agreedNext s < quantaNeeded (lenOfSheet s (sheet s + 1)) fl old false))
        (fun b => stretch b c (quantaNeeded (lenOfSheet b (sheet b + 2)) fl old false) 8) s
      openGate s c old

/-- DROOP_EVENT (R73, R75): the generator lengthens the arithmetic period, and takes up to two cycles; how much it takes is a free value of
hundredths of a cycle (DESIGN CHOICE, log entry 7; DEDUCED, log entry 25). A stopped region has no period to lengthen. -/
def doDroop (s : Block) (c : Nat) : Block :=
  let pg := clkPage c
  let x := clus s c
  let stopped := x.gateClosed.isSome
  let cut := if stopped then 0 else Config.freeValue s.free % 201
  let s := setClus { s with free := s.free + 1 } c { x with
    droops := now s :: x.droops.filter (fun d => decide (now s ≤ d + 50)), lost := x.lost + cut }
  let s := incSat (incSat s (Reg.CLK.DROOP_EVENTS pg) 1) (Reg.CLK.DROOP_TOTAL pg) 1
  if stopped then wr s (Reg.CLK.STOP_LOG_DROOP_IN_STOP pg) 1 else s

/-! ### The supply (R304, R305) -/

def sagLive (s : Block) : Bool := flag s Reg.PWR.LIVE_SAG_WARN

def doSagWarn (s : Block) (mv : Nat) : Block :=
  if mv < 42000 ∧ !sagLive s then
    let s := incSat (wr (wr s Reg.PWR.INPUT_MV mv) Reg.PWR.LIVE_SAG_WARN 1) Reg.PWR.SAG_COUNT 1
    overN 16 (fun c t => sagStop t (floorOf t) c) (live s pwr ErrBit.PWR.SAG_WARN true)
  else s

def doSagClear (s : Block) (mv : Nat) : Block :=
  if 43000 ≤ mv ∧ sagLive s then live (wr (wr s Reg.PWR.INPUT_MV mv) Reg.PWR.LIVE_SAG_WARN 0) pwr ErrBit.PWR.SAG_WARN false else s

def doOvervolt (s : Block) (mv : Nat) : Block :=
  if 60000 < mv then raisePage (wr s Reg.PWR.INPUT_MV mv) pwr ErrBit.PWR.OVERVOLT else s

/-- The end of a power window (R311): a multiple of 2^WINDOW_LOG2 of plan time. -/
def doWindowEnd (s : Block) (avg peak minMv : Nat) : Block :=
  if now s = 0 ∨ now s % 2 ^ rd s Reg.PWR.SAMPLE_CTRL ≠ 0 then s
  else
  let s := wr (wr (wr s Reg.PWR.DRAW_AVG (min avg 4095)) Reg.PWR.DRAW_PEAK (min peak 4095)) Reg.PWR.INPUT_MIN_MV minMv
  if capEff s < avg then
    let c := min 4095 (rd s Reg.PWR.CAP_EFF_CORRECTION + (avg - capEff s))
    showCap (wr (raisePage s pwr ErrBit.PWR.CAP_EXCEEDED) Reg.PWR.CAP_EFF_CORRECTION c)
  else s

/-! ### Temperature (R168, R318, R319, R321) -/

/-- The hottest point and its number. -/
def showHottest (s : Block) : Block :=
  let best := (List.range 64).foldl (fun b p => if rd s (Reg.PWR.THERM_POINT b) < rd s (Reg.PWR.THERM_POINT p) then p else b) 0
  wr (wr s Reg.PWR.TEMP_MAX_DEGC (rd s (Reg.PWR.THERM_POINT best))) Reg.PWR.TEMP_MAX_POINT best

/-- A trip ends once every point lies below 100 °C. -/
def endTrip (s : Block) : Block :=
  if (List.range 64).all (fun p => decide (rd s (Reg.PWR.THERM_POINT p) < 100)) then { s with power := { s.power with tripped := false } } else s

def notePoint (s : Block) (p d : Nat) : Block :=
  let s := wr s (Reg.PWR.THERM_POINT p) (min d 255)
  let c := p / 4
  let hot := (List.range 4).foldl (fun a i => max a (rd s (Reg.PWR.THERM_POINT (4 * c + i)))) 0
  showHottest (wr s (Reg.CLK.THERMAL_DEGC (clkPage c)) hot)

def doThermalSample (s : Block) (c t0 t1 t2 t3 : Nat) : Block :=
  endTrip (notePoint (notePoint (notePoint (notePoint s (4 * c) t0) (4 * c + 1) t1) (4 * c + 2) t2) (4 * c + 3) t3)

def doThermalTrip (s : Block) (p d : Nat) : Block :=
  if 105 ≤ d then
    let s := incSat (notePoint s p d) Reg.PWR.TRIP_COUNT 1
    let s := { s with power := { s.power with tripped := true, tripAt := if s.power.tripped then s.power.tripAt else now s } }
    charge (sagStop (raisePage s pwr ErrBit.PWR.THERM_TRIP) 40 (p / 4)) 4 0 0
  else s

def doCoolant (s : Block) (inlet outlet : Nat) : Block :=
  let s := wr (wr s Reg.PWR.COOLANT_INLET (min inlet 255)) Reg.PWR.COOLANT_OUTLET (min outlet 255)
  if inlet < 17 ∨ 45 < inlet then raisePage s pwr ErrBit.PWR.COOLANT_RANGE else s

def memTemp (s : Block) (u : Nat) : Nat := rd s (regU u Reg.HBM.TEMP_DEGC Reg.DDR.TEMP_DEGC)
def memHot (s : Block) : Bool := (List.range 20).any (fun u => decide (rd s Reg.PWR.THERM_CFG_MEM_TARGET ≤ memTemp s u))
def refreshMemHot (s : Block) : Block :=
  live (wr s Reg.PWR.LIVE_MEM_HOT (b2n (memHot s))) pwr ErrBit.PWR.MEM_HOT (memHot s)

def doMemTemp (s : Block) (u d : Nat) : Block :=
  let s := wr s (regU u Reg.HBM.TEMP_DEGC Reg.DDR.TEMP_DEGC) (min d 255)
  let hot := decide (95 ≤ d)
  refreshMemHot (live (wr s (regU u Reg.HBM.TEMP_OVERTEMP Reg.DDR.TEMP_OVERTEMP) (b2n hot)) (unitPage u) ErrBit.HBM.OVERTEMP hot)

/-! ### Request computations (R75, R309, R310, R313, R318, R320) -/

/-- The frequency that a cluster takes at quantum 0 of a sheet, given its target and the sheet's agreed quanta (R47, R305) (DESIGN CHOICE, log entry 5). -/
def afterFreq (s : Block) (c len q : Nat) (target : Option Nat) : Nat :=
  let f0 := freqNow s c
  let fl := floorOf s
  match target with
  | none => f0
  | some f =>
    if sagLive s then
      let low := min f (min (rd s Reg.PWR.SAG_FREQ) fl)
      match ((List.range 91).map (40 + ·)).find? (fun x => decide (quantaNeeded len fl x true ≤ q)) with
      | none => f0
      | some cov => min f0 (max cov low)
    else if quantaNeeded len fl f true ≤ q then f else f0

/-- f_therm after a computation: the prediction extrapolates the last sheet's slope to the end of the sheet two ahead (DESIGN CHOICE, log entry 15). -/
def stepTherm (s : Block) (c : Nat) : Block :=
  let pg := clkPage c
  let t := rd s (Reg.CLK.THERMAL_DEGC pg)
  let tj := rd s Reg.PWR.THERM_CFG_TJ_TARGET
  let n := sheet s
  let ahead := 1024 + lenOfSheet s (n + 1) + lenOfSheet s (n + 2)
  let step := rd s Reg.PWR.THERM_CFG_THERM_STEP
  let f := rd s (Reg.CLK.THERMAL_F_THERM pg)
  -- pred − x, times the ticks of the slope
  let excess : Int → Int := fun x => match (clus s c).lastTemp with
    | some (t0, at0) => ((t : Int) - x) * (max 1 (sched s - at0) : Nat) + ((t : Int) - (t0 : Int)) * (ahead : Int)
    | none => (t : Int) - x
  let f' := if 0 ≤ excess tj ∨ memHot s then max 40 (f - step) else if excess ((tj : Int) - 5) < 0 then min 130 (f + step) else f
  setClus (wr s (Reg.CLK.THERMAL_F_THERM pg) f') c { clus s c with lastTemp := some (t, sched s) }

/-- One cluster's target and request for sheet m (DEDUCED, log entry 25). -/
def requestCluster (m fcap c : Nat) (s : Block) : Block :=
  let pg := clkPage c
  let fl := floorOf s
  let sagT := min (rd s Reg.PWR.SAG_FREQ) fl
  let ft := rd s (Reg.CLK.THERMAL_F_THERM pg)
  let f := min 130 (min fcap (min ft (if sagLive s then sagT else 130)))
  let cause := b2n (ft == f) + 2 * b2n (fcap == f) + 4 * b2n (sagLive s && sagT == f)
  let was := afterFreq s c (lenOfSheet s (m - 1)) (agreedNext s) (((clus s c).plans.find? (fun p => p.1 == m - 1)).map (fun p => p.2))
  let q := quantaNeeded (lenOfSheet s m) fl f (f != was) + b2n (sagLive s)
  let e := rd s (Reg.CLK.DROOP_EVENTS pg)
  let late := rd s (Reg.CLK.DROOP_BUDGET pg) != 0 && decide (rd s (Reg.CLK.DROOP_BUDGET pg) < e)
  let q := if late then q + max 1 (ceilDiv (200 * e) (fl * 1024)) else q
  let cause := if q = 0 then 0 else if late then cause ||| 8 else cause
  let s := setClus s c { clus s c with plans := (m, f) :: (clus s c).plans.filter (fun p => sheet s ≤ p.1 && p.1 != m) }
  let s := wr (wr (wr s (Reg.CLK.FREQ_TARGET pg) f) (Reg.CLK.REQUEST_QUANTA pg) (min q 64)) (Reg.CLK.REQUEST_CAUSE pg) cause
  stretch s c q cause

/-- The first tick of the last block of a sheet. -/
def doRequest (s : Block) : Block :=
  let n := sheet s
  let m := n + 2
  if !inJob s ∨ s.plan.halted ∨ sched s < s.plan.sheetStart + (lenOfSheet s n - 1024) then s
  else
    let s := showCap s
    let s := when (decide (capEff s < planFloor s)) (fun t => faultDie (raisePage t pwr ErrBit.PWR.CAP_BELOW_FLOOR) clsCapFloor) s
    let s := { s with plan := { s.plan with tokenLimits := Tab.put s.plan.tokenLimits 384 m (rd s Reg.PWR.TOKEN_LIMIT) } }
    let g := grantOf s m
    let s := { s with plan := { s.plan with grants := (m, g) :: s.plan.grants.filter (fun p => decide (n ≤ p.1) && p.1 != m) } }
    let fc := fCap s g
    let s := wr { s with power := { s.power with fcap := Tab.put s.power.fcap 130 m fc } } Reg.PWR.CAP_EFF_F_CAP fc
    let s := overN 16 (fun c t => stepTherm t c) s
    let lim := (List.range 16).any (fun c => decide (rd s (Reg.CLK.THERMAL_F_THERM (clkPage c)) < 130))
    let s := live (wr s Reg.PWR.LIVE_THERM_LIMIT (b2n lim)) pwr ErrBit.PWR.THERM_LIMIT lim
    let s := overN 16 (requestCluster m fc) s
    let w := planned s m - g
    let lq := match (ream s).cycle[cycleIdx s m]? with
      | some e => e.lightQ
      | none => 0
    if w = 0 then s else stretch s 0xFF (ceilDiv (lq * w) (planned s m)) 8

/-! ### The boundary's power step (R309, R312–R314, R316, R317) -/

def loanRounds (s : Block) : Nat := max 1 (ceilDiv (ream s).groups 8)
def loanGroup (s : Block) : Nat := rd s Reg.PWR.LOAN_CFG_GROUP
def critical (s : Block) : Bool := flag s Reg.PWR.LOAN_CFG_CRITICAL

/-- This module's offer and demand (R316). -/
def offerDemand (s : Block) : Nat × Nat :=
  let cap := rd s Reg.PWR.CAP
  let n := ((ream s).tokens.map (fun t => powerUp (popcount 384 t) 130)).foldl max 0
  if critical s then (0, min 3200 n - cap) else (cap - n - rd s Reg.PWR.LOAN_MARGIN, 0)

/-- The LOAN field of a contribution to the window of sheet m. -/
def loanField (s : Block) (m : Nat) : List Byte :=
  let g := loanGroup s
  if g / 8 = m % loanRounds s then
    let od := offerDemand s
    zeros (8 * (g % 8)) ++ natLe 8 (od.1 % 2 ^ 20 + od.2 % 2 ^ 20 * 2 ^ 20 + rd s Reg.PWR.CAP * 2 ^ 40) ++ zeros (8 * (7 - g % 8))
  else zeros 64

/-- The loans that the committed record of sheet m makes. -/
def applyLoans (s : Block) (m : Nat) : Block :=
  let g := loanGroup s
  if g / 8 ≠ m % loanRounds s then s
  else
    let v := fieldLe s.plan.committed (0x48 + 8 * (g % 8)) 8
    let o := bits v 0 20
    let d := bits v 20 20
    let t := if rd s Reg.PWR.SHELF_BUDGET < bits v 40 24 then 0 else min o d
    let mine := ((s.plan.loanMine.find? (fun p => p.1 == m)).map (fun p => p.2)).getD (0, 0)
    let s := wr s Reg.PWR.LOAN_STATE_BORROWED (if critical s ∧ d ≠ 0 then mine.2 * t / d else 0)
    showCap (wr s Reg.PWR.LOAN_STATE_LENT (if !critical s ∧ o ≠ 0 then ceilDiv (mine.1 * t) o else 0))

/-- Every loan of the module ends (R317). -/
def endLoans (s : Block) : Block := showCap (wr (wr s Reg.PWR.LOAN_STATE_BORROWED 0) Reg.PWR.LOAN_STATE_LENT 0)

/-- The token grant of the sheet that begins: TOKENS of each cluster, HEAVY_NOW by array, TOKEN_WITHHELD. -/
def grantTokens (s : Block) (m : Nat) : Block :=
  let g := grantAt s m
  let mask := lowestBits (maskOf s m) g
  let s := { s with plan := { s.plan with granted := mask } }
  let s := wr s Reg.PWR.TOKENS_GRANTED g
  let s := overN 16 (fun c t => wr t (Reg.CLK.TOKENS (clkPage c)) (popcount 24 (mask / 2 ^ (24 * c)))) s
  let s := wr s Reg.PWR.LIVE_RAMPING (b2n (decide (rampOf s m < planned s m)))
  let s := wr s Reg.PWR.PLAN_POWER_NEED (powerUp (planned s m) 130)
  when (decide (g < planned s m)) (fun t => raisePage t pwr ErrBit.PWR.TOKEN_WITHHELD) s

/-- CAP_BELOW_PLAN at the boundary of a sheet. -/
def capBelowPlan (s : Block) (m : Nat) : Block :=
  let b := decide (Tab.get s.power.fcap 130 m < 130)
  let was := flag s Reg.PWR.LIVE_CAP_BELOW_PLAN
  let s := live (wr s Reg.PWR.LIVE_CAP_BELOW_PLAN (b2n b)) pwr ErrBit.PWR.CAP_BELOW_PLAN b
  when (b && was) (fun t => raisePage t pwr ErrBit.PWR.CAP_BELOW_PLAN) s

/-- Quantum 0 of the sheet: every region whose frequency changes asks for its stop (R47, R73, R74) (DESIGN CHOICE, log entry 5). -/
def quantumZero (s : Block) : Block :=
  overN 16 (fun c t =>
    let x := clus t c
    let f := afterFreq t c (lenOfSheet t (sheet t)) t.plan.quanta ((x.plans.find? (fun p => p.1 == sheet t)).map (fun p => p.2))
    if x.gateClosed.isSome then setClus t c { x with pendingFreq := some f }
    else if f = freqNow t c then t
    else setClus t c { x with stopReq := some (now t), restart := f }) s

/-- At a boundary: the sheet's stretch covers the frequency that a region now runs at, with a quantum for droop while the sag lasts (R305, R321). -/
def coverRegions (s : Block) : Block :=
  overN 16 (fun c t =>
    let x := clus t c
    let len := lenOfSheet t (sheet t)
    let f := if t.plan.quanta = 0 then freqNow t c
      else afterFreq t c len t.plan.quanta ((x.plans.find? (fun p => p.1 == sheet t)).map (fun p => p.2))
    if x.uncovered ∧ quantaNeeded len (floorOf t) f false + b2n (sagLive t) ≤ t.plan.quanta then setClus t c { x with uncovered := false } else t) s

/-! ### Meanings -/

def execRegionStopBegin (cl : Fin 16) := run (fun s => doStopBegin s cl)
def execGeneratorLock (cl : Fin 16) := run (fun s => doLock s cl)
def execFreqChangeFail (cl : Fin 16) := run (fun s => doChangeFail s cl)
def execDroopEvent (cl : Fin 16) := run (fun s => doDroop s cl)
def execSagWarn (mv : Nat) := run (fun s => doSagWarn s mv)
def execSagClear (mv : Nat) := run (fun s => doSagClear s mv)
def execOvervolt (mv : Nat) := run (fun s => doOvervolt s mv)
def execPowerWindowEnd (avg peak minMv : Nat) := run (fun s => doWindowEnd s avg peak minMv)
def execThermalSample (cl : Fin 16) (t0 t1 t2 t3 : Nat) := run (fun s => doThermalSample s cl t0 t1 t2 t3)
def execThermalTrip (point : Fin 64) (degc : Nat) := run (fun s => doThermalTrip s point degc)
def execCoolantRange (inlet outlet : Nat) := run (fun s => doCoolant s inlet outlet)
def execMemoryOvertemp (u : MemUnit) (degc : Nat) := run (fun s => doMemTemp s (unitNum u) degc)
def execRequestComputation := run doRequest

end Sys2Proof.Machine
end

