-- ==== Sys2Proof/Machine/Results.lean ====
section
/-! DEFINITION. The end of a step: its outcome and its results entry (R270, R286, R287). -/

namespace Sys2Proof.Machine

def sesPg : Nat := 0x7000

/-- The session engine's fields of the ream, in the order that R417 lists them for a variant (DESIGN CHOICE, log entry 6). -/
def servField (s : Block) (v i : Nat) : Nat := Config.servingField (ream s).serving v i

/-! ### The outcome block (R270): that of an even step at 0x40_0000 of the step memory, that of an odd one 64 KiB on -/

/-- DESIGN CHOICE, log entry 6. -/
def outcomeRec (s : Block) (step i : Nat) : List Byte := stepRead s (0x400000 + step % 2 * 0x10000 + 16 * i) 16
def advanceOf (s : Block) (step i : Nat) : Nat := Config.outcomeAdvance (outcomeRec s step i)
/-- The tokens emitted, at most 8 (R286). -/
def tokensOf (s : Block) (step i : Nat) : List Nat := (Config.outcomeTokens (outcomeRec s step i)).take 8

/-! ### Results (R286, R287) -/

/-- A slot result. A slot that ran masked advanced nothing and emitted nothing. -/
def slotResult (s : Block) (step i : Nat) (r : SlotRec) : List Byte :=
  let toks := if r.live then tokensOf s step i else []
  natLe 4 (r.session.getD 0) ++ natLe 1 r.status ++ natLe 1 toks.length ++ zeros 2 ++
  natLe 4 (r.position + (if r.live then advanceOf s step i else 0)) ++ slice (toks.flatMap (natLe 4)) 0 32 ++ zeros 20

def slotResults (s : Block) (step : Nat) (l : List SlotRec) : List Byte :=
  (l.zip (List.range l.length)).flatMap (fun p => slotResult s step p.2 p.1)

/-- The slot results of a held entry. -/
def resultBytes (s : Block) (r : Result) : List Byte := r.done.getD (slotResults s r.step r.slots)

/-- The bytes before the slot results, LOST_STEPS still zero. -/
def resultHead (b : Built) : List Byte :=
  slice (natLe 8 b.step ++ natLe 8 b.wall ++ natLe 2 b.items.length ++ natLe 1 b.variant ++ natLe 1 b.set_ ++ natLe 4 b.flags ++ natLe 4 0 ++
    natLe 4 b.first ++ natLe 2 b.slots.length ++ zeros 30 ++ b.items.flatten) 0 4160

def showPending (s : Block) : Block := wr s Reg.SES.RESULTS_PENDING s.serv.results.length

/-- A results entry waits; beyond 64 it overwrites the oldest (DEDUCED, log entry 38). -/
def postResult (s : Block) (r : Result) : Block :=
  if 64 ≤ s.serv.results.length then
    let s := raisePage (incSat s Reg.SES.RESULTS_LOST_COUNT 1) sesPg ErrBit.SES.RESULTS_LOST
    { s with serv := { s.serv with results := s.serv.results.drop 1 ++ [r], lost := s.serv.lost + 1 } }
  else showPending { s with serv := { s.serv with results := s.serv.results ++ [r] } }

/-- The positions that the plan carries in a step's decode slots (R275): TOKENS where the session is new, else its own; an empty
slot has none. -/
def carriedAt (s : Block) (l : List SlotRec) : List SlotRec :=
  (l.zip (List.range l.length)).map (fun p =>
    if p.1.chunk || p.1.new || p.1.session.isNone then p.1 else { p.1 with position := Tab.get s.serv.carried p.1.position p.2 })

/-- The step in progress ends: rank 0 posts its entry (DEDUCED, log entry 38), unless this module has detected a fault: then it publishes no more
results (R52). -/
def endStep (s : Block) : Block :=
  match s.serv.built.find? (fun b => b.step == s.serv.stepNum) with
  | none => s
  | some b =>
    if flag s Reg.SES.SES_STATUS_LEAD && s.plan.faultLog.isEmpty && !(s.serv.results.any (fun r => r.step == b.step)) then
      postResult s ⟨b.step, resultHead b, carriedAt s b.slots, none⟩
    else s

/-- The outcome of a step is applied: the results that still wait for it take their slot results, and the carried positions move on. -/
def freezeResults (s : Block) (b : Built) : Block :=
  let l := carriedAt s b.slots
  let adv := (l.zip (List.range l.length)).filterMap (fun p =>
    if p.1.chunk then none else p.1.session.map (fun _ => (p.2, p.1.position + (if p.1.live then advanceOf s b.step p.2 else 0))))
  { s with serv := { s.serv with
    carried := adv
    results := s.serv.results.map (fun r => if r.step = b.step ∧ r.done = none then { r with done := some (slotResults s r.step r.slots) } else r) } }

end Sys2Proof.Machine
end

