-- ==== Sys2Proof/Machine/Time.lean ====
section
/-! DEFINITION. The timebase (R57–R69, R76, R78, R79, R434, R435): timing exchanges, the lock states, the references, wall
time. Offsets and delays are kept doubled, in 1/128 pt, so that the halving of R63 loses nothing. -/

namespace Sys2Proof.Machine

def lkFREE : Nat := 0
def lkACQ : Nat := 1
def lkLOCKED : Nat := 2
def lkSLEW : Nat := 3
def lkHOLD : Nat := 4
def lkEXP : Nat := 5

def lockState (s : Block) : Nat := rd s Reg.TBS.STATE_LOCK_STATE
def isRoot (s : Block) : Bool := flag s Reg.TBS.STATE_ROOT
def upstream (s : Block) : Nat := rd s Reg.TBS.STATE_UPSTREAM
def depth (s : Block) : Nat := rd s Reg.TBS.STATE_DEPTH
def tbs : Nat := 0x2000

/-- The root this module follows: itself, or the one its upstream's markers name (R60). -/
def myRoot (s : Block) : Nat := if isRoot s then selfCoord s else s.time.rootId

/-- A root conflict exists on a port (R60) (DEDUCED, log entry 30). -/
def conflictOn (s : Block) (p : Nat) : Bool :=
  let x := prt s p
  flag s (Reg.LNK.LINK_STATUS_UP (lnkPage p)) && (isRoot s || upstream s != p) &&
  (isRoot s || lockState s == lkLOCKED || lockState s == lkSLEW) &&
  (x.peerRoot || x.peerLock == lkLOCKED || x.peerLock == lkSLEW) && x.peerRootId != myRoot s

/-- The candidate ports in order (R61, R78). -/
def candidates (s : Block) : List Nat :=
  [rd s Reg.TBS.TREE_CFG_CAND0, rd s Reg.TBS.TREE_CFG_CAND1, rd s Reg.TBS.TREE_CFG_CAND2, rd s Reg.TBS.TREE_CFG_CAND3].filter (· < 12)

/-- A port is eligible as upstream (R61). -/
def eligible (s : Block) (p : Nat) : Bool :=
  let x := prt s p
  flag s (Reg.LNK.LINK_STATUS_UP (lnkPage p)) && x.peerLock != lkHOLD && x.peerLock != lkEXP && x.peerDepth != 0x7F &&
  (depth s == 0x7F || decide (x.peerDepth ≤ depth s)) && !conflictOn s p

def anyEligible (s : Block) : Bool := (candidates s).any (eligible s)

/-- The sum of a port's doubled offsets, and how many there are. -/
def offSum (s : Block) (p : Nat) : Int := (prt s p).offsets.foldl (· + ·) 0
/-- DEDUCED, log entry 30. -/
def offCount (s : Block) (p : Nat) : Nat := (prt s p).offsets.length

/-- The offset of a port is averaged over 64 exchanges: before that nothing acts on it (R63). -/
def settledOn (s : Block) (p : Nat) : Bool := offCount s p == 64
/-- The filtered offset of a port exceeds a number of 1/64 pt in size; an unsettled one exceeds none (DESIGN CHOICE, log entry 15; DEDUCED, log entry 30). -/
def offBeyond (s : Block) (p n : Nat) : Bool := settledOn s p && decide ((2 * offCount s p * n : Int) < (offSum s p).natAbs)
/-- The filtered offset of a port is known to lie within 0.25 pt (R64, R67). -/
def offWithin (s : Block) (p : Nat) : Bool := settledOn s p && !offBeyond s p 16

/-- The filtered offset in 1/64 pt. -/
def offset64 (s : Block) (p : Nat) : Int := if offCount s p = 0 then 0 else roundDiv (offSum s p) (2 * offCount s p)

/-- The live conditions of the page, and the time since which no candidate is eligible in HOLDOVER. Four bits have a live condition: a root
conflict, no eligible upstream, an offset in excess, and a system reference that was lost while followed and is followed still (R79 lists
none: DEDUCED, log entry 30). -/
def refreshTbs (s : Block) : Block :=
  let s := live s tbs ErrBit.TBS.ROOT_CONFLICT ((List.range 12).any (conflictOn s))
  let none_ := lockState s == lkHOLD && !anyEligible s
  let s := { s with time := { s.time with noCandSince := if none_ then (if s.time.noCandSince = 0 then now s + 1 else s.time.noCandSince) else 0 } }
  let s := live s tbs ErrBit.TBS.NO_ELIGIBLE_UPSTREAM none_
  let s := live s tbs ErrBit.TBS.OFFSET_EXCESS (lockState s == lkSLEW && offBeyond s (upstream s) 384)
  when (!(isRoot s && flag s Reg.TBS.TREE_CFG_ROOT_REF)) (fun t => live t tbs ErrBit.TBS.SYSREF_LOST false) s

/-- OFFSET_EST and SLEW_REMAIN show the filtered offset to the upstream. -/
def showOffset (s : Block) : Block :=
  let o := if upstream s < 12 then ofSigned 24 (offset64 s (upstream s)) else 0
  wr (wr s Reg.TBS.OFFSET_EST o) Reg.TBS.SLEW_REMAIN (if lockState s = lkLOCKED ∨ lockState s = lkSLEW then o else 0)

def setLock (s : Block) (st : Nat) : Block :=
  let s := wr s Reg.TBS.STATE_LOCK_STATE st
  { s with time := { s.time with since := if st = lkHOLD then now s else s.time.since } }

/-- No upstream. -/
def dropUpstream (s : Block) (keepDepth : Bool) : Block :=
  let s := wr s Reg.TBS.STATE_UPSTREAM 0xF
  if keepDepth then s else wr s Reg.TBS.STATE_DEPTH 0x7F

/-- The module becomes root (R60, R67): depth 0, FREE_RUN, or LOCKED where it follows a present system reference. -/
def becomeRoot (s : Block) : Block :=
  let s := wr (wr (dropUpstream s true) Reg.TBS.STATE_ROOT 1) Reg.TBS.STATE_DEPTH 0
  setLock s (if flag s Reg.TBS.TREE_CFG_ROOT_REF ∧ flag s Reg.TBS.STATE_SYSREF_PRESENT then lkLOCKED else lkFREE)

/-! ### The exchange (R63) -/

/-- A stamp difference, stamps being taken modulo 2^32 in 1/64 pt (R219). -/
def stampDiff (a b : Nat) : Int := toSigned 32 (a % 2 ^ 32 + 2 ^ 32 - b % 2 ^ 32)

/-- The measurement joins the last 64; LINK_DELAY is VALID once there are 64. -/
def measure (s : Block) (p t1 t2 t3 t4 : Nat) : Block :=
  if t4 % 2 ^ 32 = 0xFFFFFFFF then s
  else
    let fwd := stampDiff t2 t1
    let rev := stampDiff t4 t3
    let asym := toSigned 16 (rd s (Reg.TBS.ASYM_CORR p))
    let x := prt s p
    let os := (x.offsets ++ [fwd - rev - asym])
    let ds := (x.delays ++ [fwd + rev])
    let os := os.drop (os.length - 64)
    let ds := ds.drop (ds.length - 64)
    let s := setPort s p { x with offsets := os, delays := ds }
    let d := roundDiv (ds.foldl (· + ·) 0) (2 * ds.length)
    let s := wr (wr s (Reg.TBS.LINK_DELAY_DELAY p) (ofSigned 24 d)) (Reg.TBS.LINK_DELAY_VALID p) (b2n (flag s (Reg.TBS.LINK_DELAY_VALID p) || ds.length == 64))
    updateFlight s p

/-- The neighbour's depth plus one would pass the limit of 96 (R61). -/
def tooDeep (s : Block) (p : Nat) : Bool := (prt s p).peerDepth != 0x7F && decide (96 < (prt s p).peerDepth + 1)

/-- What the active upstream's exchange does (R60, R61, R64, R67, R68). A member keeps its depth while the upstream advertises none, or one
that would pass the limit; past the limit it enters LOCKED by no way (DEDUCED, log entry 30). -/
def followUpstream (s : Block) (p : Nat) : Block :=
  let x := prt s p
  let keeps := lockState s != lkACQ || eligible s p
  let deep := tooDeep s p
  let s := when deep (fun t => raisePage t tbs ErrBit.TBS.DEPTH_EXCEEDED) (wrFree s Reg.TBS.FREQ_EST)
  let s := if deep ∨ x.peerDepth = 0x7F then s else wr s Reg.TBS.STATE_DEPTH (x.peerDepth + 1)
  let s := { s with time := { s.time with rootId := x.peerRootId } }
  if !keeps then setLock (dropUpstream s false) lkFREE
  else if lockState s = lkLOCKED ∧ offBeyond s p 16 then setLock s lkSLEW
  else if lockState s = lkSLEW ∧ offWithin s p ∧ !deep then setLock s lkLOCKED
  else s

/-- A member without an upstream selects an eligible candidate (R61, R67). AUTO_FAILOVER = 0 waits in HOLDOVER for new candidates;
a module that booted without J5 never acquires (R435) (DEDUCED, log entry 30). -/
def selectUpstream (s : Block) (p : Nat) : Block :=
  let st := lockState s
  let x := prt s p
  if (candidates s).find? (eligible s) ≠ some p then s
  else if st = lkFREE ∧ !s.time.refAtReset then s
  else if st = lkHOLD ∧ !flag s Reg.TBS.TREE_CFG_AUTO_FAILOVER ∧ !s.time.rewritten then s
  else if tooDeep s p then raisePage s tbs ErrBit.TBS.DEPTH_EXCEEDED
  else
    let s := wr (wr s Reg.TBS.STATE_UPSTREAM p) Reg.TBS.STATE_DEPTH (x.peerDepth + 1)
    let s := { s with time := { s.time with rootId := x.peerRootId } }
    if st = lkFREE ∨ (st = lkEXP ∧ !inJob s) then (if inJob s then s else setLock s lkACQ)
    else if st = lkEXP then setLock s lkSLEW
    else setLock s (if offWithin s p then lkLOCKED else lkSLEW)

/-- An exchange; `intact` says which of its four flits passed, and it is dropped unless all did (R219) (DEDUCED, log entry 30). -/
def doTimingExchange (s : Block) (p t1 t2 t3 t4 dep lock : Nat) (root : Bool) (rootId intact : Nat) : Block :=
  if !flag s (Reg.LNK.LINK_STATUS_UP (lnkPage p)) || intact != 15 then s
  else
    let s := setPort s p { prt s p with peerDepth := dep, peerLock := lock, peerRoot := root, peerRootId := rootId }
    let s := measure s p t1 t2 t3 t4
    let st := lockState s
    let s :=
      if isRoot s then s
      else if upstream s = p ∧ (st = lkACQ ∨ st = lkLOCKED ∨ st = lkSLEW) then followUpstream s p
      else if st = lkFREE ∨ st = lkHOLD ∨ st = lkEXP then selectUpstream s p
      else s
    refreshTbs (showOffset s)

/-! ### The lock states (R67) -/

def doUpstreamLost (s : Block) : Block :=
  let st := lockState s
  if isRoot s ∨ upstream s = 0xF then s
  else if st = lkACQ then refreshTbs (showOffset (setLock (dropUpstream s false) lkFREE))
  else if st = lkLOCKED ∨ st = lkSLEW then
    let s := { s with time := { s.time with rewritten := false, noCandSince := 0 } }
    refreshTbs (showOffset (raisePage (setLock (dropUpstream s true) lkHOLD) tbs ErrBit.TBS.UPSTREAM_LOST))
  else s

def doHoldoverExpired (s : Block) : Block :=
  if lockState s = lkHOLD ∧ !isRoot s ∧ s.time.since + 10000000 ≤ now s then
    refreshTbs (raisePage (wr s Reg.TBS.STATE_LOCK_STATE lkEXP) tbs ErrBit.TBS.HOLDOVER_EXPIRED)
  else s

def doStandbyPromote (s : Block) : Block :=
  let s := refreshTbs s
  if lockState s = lkHOLD ∧ !isRoot s ∧ flag s Reg.TBS.TREE_CFG_STANDBY_ROOT ∧ s.time.noCandSince ≠ 0 ∧
      s.time.noCandSince + 999999 ≤ now s then
    refreshTbs (becomeRoot s)
  else s

/-- Plan time is stepped by the filtered offset; every port's samples move with it (R58). A member that would pass the depth limit does not
lock (R61). -/
def doAcquireComplete (s : Block) : Block :=
  let p := upstream s
  if lockState s = lkACQ ∧ p < 12 ∧ !inJob s ∧ settledOn s p ∧ !tooDeep s p then
    let step := roundDiv (offSum s p) (128 * offCount s p)
    let mean := roundDiv (offSum s p) (offCount s p)
    let s := wr s Reg.TBS.PLAN_TIME (ofSigned 64 ((now s : Int) - step))
    let s := overN 12 (fun q t =>
      setPort t q { prt t q with offsets := (prt t q).offsets.map (fun o => o - mean) }) s
    refreshTbs (showOffset (setLock s lkLOCKED))
  else s

/-- A LOCKED root leaves through HOLDOVER to FREE_RUN at once (R67); the loss is one "while followed" where ROOT_REF is 1 (R79). -/
def doSysrefLost (s : Block) : Block :=
  let s := wr s Reg.TBS.STATE_SYSREF_PRESENT 0
  if isRoot s ∧ lockState s = lkLOCKED then
    setLock (when (flag s Reg.TBS.TREE_CFG_ROOT_REF) (fun t => live t tbs ErrBit.TBS.SYSREF_LOST true) s) lkFREE
  else s

def doSysrefDetected (s : Block) : Block :=
  let s := live (wr s Reg.TBS.STATE_SYSREF_PRESENT 1) tbs ErrBit.TBS.SYSREF_LOST false
  if isRoot s ∧ flag s Reg.TBS.TREE_CFG_ROOT_REF ∧ lockState s = lkFREE then setLock s lkLOCKED else s

/-- Only a root that follows the system reference uses J6 (R434). -/
def usesJ6 (s : Block) : Bool := isRoot s && flag s Reg.TBS.TREE_CFG_ROOT_REF

/-- A PPS edge; the interval to the previous one is checked at a root that follows the system reference (R79). -/
def doPpsEdge (s : Block) : Block :=
  if usesJ6 s then
    let d := now s - rd s Reg.TBS.PPS_CAPTURE
    let bad := flag s Reg.TBS.STATE_PPS_PRESENT && lockState s == lkLOCKED && (decide (d < 999999998) || decide (1000000002 < d))
    let s := wr (wr s Reg.TBS.PPS_CAPTURE (now s)) Reg.TBS.STATE_PPS_PRESENT 1
    when bad (fun t => raisePage t tbs ErrBit.TBS.PPS_FAULT) s
  else s

/-- No edge within 1.1 s. -/
def doPpsTimeout (s : Block) : Block :=
  if flag s Reg.TBS.STATE_PPS_PRESENT ∧ rd s Reg.TBS.PPS_CAPTURE + 1100000000 ≤ now s then
    when (usesJ6 s && lockState s == lkLOCKED) (fun t => raisePage t tbs ErrBit.TBS.PPS_FAULT) (wr s Reg.TBS.STATE_PPS_PRESENT 0)
  else s

/-- J5 lost while the module runs (R435); the HALT_REQUEST it contributes is read where the contribution is made. -/
def doReferenceLoss (s : Block) : Block :=
  if s.time.refPresent then
    let s := { s with time := { s.time with refPresent := false, refLostAt := now s + 1 } }
    raisePage (logEntry s 12 0 0 32) 0x5000 ErrBit.MGT.SENSOR_FAULT
  else s

def doReferenceRestored (s : Block) : Block := { s with time := { s.time with refPresent := true } }

/-! ### TREE_CFG (R67, R78) -/

/-- What the written role and references bring about. A LOCKED root whose ROOT_REF is cleared stays LOCKED: the table of R67 names no such
move (DEDUCED, log entry 30). -/
def treeEffect (before : Block) (s : Block) : Block :=
  let role := rd s Reg.TBS.TREE_CFG_ROLE
  let s := { s with time := { s.time with rewritten := true } }
  let s :=
    if role ≠ rd before Reg.TBS.TREE_CFG_ROLE then
      (if role = 1 then (if isRoot s then s else becomeRoot s)
       else setLock (dropUpstream (wr s Reg.TBS.STATE_ROOT 0) false) lkFREE)
    else if isRoot s ∧ lockState s = lkFREE ∧ flag s Reg.TBS.TREE_CFG_ROOT_REF ∧ flag s Reg.TBS.STATE_SYSREF_PRESENT then setLock s lkLOCKED
    else s
  refreshTbs (showOffset s)

def doTreeCfgWrite (s : Block) (rq : Requester) (v : Nat) : Block :=
  writeWord s rq 0x2074 v (fun ok t => if ok then treeEffect s t else t)

/-! ### Wall time (R76) -/

/-- STEP waits for the next microsecond boundary. -/
def doStep (s : Block) : Block :=
  if pageResponds s tbs then { wr s Reg.TBS.WALL_CTRL 1 with time := { s.time with stepPending := true } } else s

def doWallAdjWrite (s : Block) (rq : Requester) (v : Nat) : Block := writeWord s rq 0x20A4 v (fun _ t => t)

/-! ### Meanings -/

def execTimingExchange (port : Fin 12) (t1 t2 t3 t4 : Nat) (dep : Fin 128) (lock : Fin 8) (root : Bool) (rootId : Fin 262144)
    (intact : BitVec 4) :=
  run (fun s => doTimingExchange s port t1 t2 t3 t4 dep lock root rootId intact.toNat)
def execUpstreamLost := run doUpstreamLost
def execHoldoverExpired := run doHoldoverExpired
def execStandbyRootPromote := run doStandbyPromote
def execAcquireComplete := run doAcquireComplete
def execSysrefLost := run doSysrefLost
def execSysrefDetected := run doSysrefDetected
def execPpsEdge := run doPpsEdge
def execPpsTimeout := run doPpsTimeout
def execReferenceLoss := run doReferenceLoss
def execReferenceRestored := run doReferenceRestored
def execTreeCfgWrite (rq : Requester) (v : BitVec 32) := run (fun s => doTreeCfgWrite s rq v.toNat)
def execWallStep := run doStep
def execWallAdjWrite (rq : Requester) (v : BitVec 32) := run (fun s => doWallAdjWrite s rq v.toNat)

end Sys2Proof.Machine
end

