-- ==== Sys2Proof/Machine/Plan.lean ====
section
/-! DEFINITION. The plan: job origin, boundaries, stretch quanta, the deckle window, commit and halt (R25–R53, R94, R98, R99). -/

namespace Sys2Proof.Machine

/-! ### Step starts (R258) -/

def cycleEnt (s : Block) (n : Nat) : SheetEnt := (ream s).cycle.getD (cycleIdx s n) ⟨4, 0, 0⟩
/-- The boundary of sheet n is a step start: marked, and on sheet 2 or later. -/
def stepStart (s : Block) (n : Nat) : Bool := decide (2 ≤ n) && bit (cycleEnt s n).flags 0
/-- The number of the step that starts at sheet n: how many started before it (DEDUCED, log entry 37). -/
def stepNumber (s : Block) (n : Nat) : Nat :=
  let c := max 1 (ream s).cycle.length
  let upTo := fun (x : Nat) => ((List.range x).filter (fun i => bit ((ream s).cycle.getD i ⟨4, 0, 0⟩).flags 0)).length
  let before := fun (x : Nat) => x / c * upTo c + upTo (x % c)
  before n - before 2

/-! ### Readiness and flips (R49, R50, R98, R99) -/

def allEngines : List Nat := List.range 834
def flipSel (s : Block) (n : Nat) : Bool := flag s (Reg.ENG.BANK_CTRL_FLIP_SEL (engBlock n))
def bankReady (s : Block) (n : Nat) : Bool := flag s (Reg.ENG.BANK_CTRL_READY (engBlock n))
/-- EPOCH_READY: bit 0 over port and mesh engines, bit 1 over every other. -/
def epochReady (s : Block) : Nat :=
  b2n (allEngines.all (fun n => !engIsSlot n || !flipSel s n || bankReady s n)) +
  2 * b2n (allEngines.all (fun n => engIsSlot n || !flipSel s n || bankReady s n))

/-- The flips the ream names for a sheet: bit 0 slot programs, bit 1 instruction banks. -/
def reamFlips (s : Block) (n : Nat) : Nat := bits (cycleEnt s n).flags 1 2

/-- An engine exchanges its banks (R99, R202). A core engine that the job does not run keeps its own (R85) (DEDUCED, log entry 28). -/
def flipEngine (n : Nat) (s : Block) : Block :=
  let b := engBlock n
  if !flipSel s n || engState s n == 4 || (engIsCore n && (!engInJob s n || !(eng s n).doneSheet)) then s
  else
    let old := activeBank s n
    let al := rd s (Reg.ENG.ACTIVE_LEN b)
    let il := rd s (Reg.ENG.IMEM_LEN b)
    let s := wr s (Reg.ENG.STATE_ACTIVE_BANK b) (1 - old)
    let s := wr (wr s (Reg.ENG.ACTIVE_LEN b) il) (Reg.ENG.IMEM_LEN b) al
    let s := wr (wr s (Reg.ENG.BANK_CTRL_FLIP_SEL b) 0) (Reg.ENG.BANK_CTRL_READY b) 0
    let s := setEng s n { eng s n with flipped := true, tailBank := if engIsSlot n then some old else none }
    moveAlias (when (engIsPe n) (fun t =>
      wr (wr t (Reg.SLT.SLOT_NOW_EPOCH (sltPage (n - 768))) (1 - old)) (Reg.SLT.SLOT_NOW_TAIL (sltPage (n - 768))) 1) s) n

def flipAll (s : Block) (slots banks : Bool) : Block :=
  overL allEngines (fun n t => if (if engIsSlot n then slots else banks) then flipEngine n t else t) s

/-! ### The agreement record (R38) -/

def recTag (r : List Byte) : Nat := fieldLe r 0 2
def recSheet (r : List Byte) : Nat := fieldLe r 4 6
def recQ (r : List Byte) : Nat := fieldLe r 0x0A 1
def recFlags (r : List Byte) : Nat := fieldLe r 0x0E 2
def recFault (r : List Byte) : List Byte := slice r 0x10 32
def recReq (r : List Byte) : Nat := fieldLe r 0x30 4
def recReady (r : List Byte) : Nat := fieldLe r 0x34 4
def recSwitch (r : List Byte) : Nat := fieldLe r 0x38 8
def recWsReady (r : List Byte) : Bool := bit (fieldLe r 0x40 1) 0
def recStep (r : List Byte) : List Byte := slice r 0x88 16
/-- Descriptors of the stream, and its CRC (R38, R262). -/
def recStepCount (r : List Byte) : Nat := fieldLe r 0x8C 2
def recStepCrc (r : List Byte) : Nat := fieldLe r 0x90 4

/-- When a bit of a page's record last rose, plus one. -/
def rose (s : Block) (page i : Nat) : Nat := Tab.get s.rises 0 ((pageRec page).sticky.key * 16 + i)

/-- A condition that began at `at_` (a plan time plus one, 0 for none) speaks in the window after the interval [lo, hi): it began within
it, or before its end and still holds (R34, R43) (DEDUCED, log entry 29). -/
def gathered (lo hi at_ : Nat) (holds : Bool) : Bool := (holds && decide (at_ ≤ hi)) || (decide (lo < at_) && decide (at_ ≤ hi))

/-- A condition of the interval [lo, hi) asks for a halt (R68, R168, R197, R321, R385, R435) (DEDUCED, log entry 29). -/
def haltRequest (s : Block) (lo hi : Nat) : Bool :=
  let bitSet := fun (holds : Bool) (page i : Nat) => gathered lo hi (rose s page i) holds
  bitSet (lockState s == lkEXP) tbs ErrBit.TBS.HOLDOVER_EXPIRED ||
  bitSet (isLive s tbs ErrBit.TBS.OFFSET_EXCESS) tbs ErrBit.TBS.OFFSET_EXCESS ||
  (List.range 12).any (fun p => bitSet (isLive s (prtPage p) ErrBit.PRT.PLAN_MARGIN_LOST) (prtPage p) ErrBit.PRT.PLAN_MARGIN_LOST) ||
  (List.range 20).any (fun u => bitSet (flag s (regU u Reg.HBM.TEMP_OVERTEMP Reg.DDR.TEMP_OVERTEMP)) (unitPage u) ErrBit.HBM.OVERTEMP) ||
  gathered lo hi (if s.power.tripAt = 0 then 0 else s.power.tripAt) s.power.tripped ||
  gathered lo hi s.time.refLostAt (!s.time.refPresent) ||
  bitSet (isLive s 0 ErrBit.GLB.PARITY_FAULT) 0 ErrBit.GLB.PARITY_FAULT

/-- EPOCH_REQ of this module for the window of sheet m: the flips the ream names for sheet m + 1, and rank 0's variant. -/
def epochReq (s : Block) (m : Nat) : Nat :=
  let f := reamFlips s (m + 1)
  match s.plan.variantItem with
  | some (t, v) => if t = m + 1 ∧ (ream s).rank = 0 then 3 + 4 + 8 * (v % 4) else f
  | none => f

/-- WSWITCH of rank 0: sheet, set, policy. -/
def wswitchField (s : Block) (m : Nat) : Nat :=
  match s.plan.wswitchItem with
  | some (t, v, pol) => if t = m + 1 ∧ (ream s).rank = 0 then t + 2 ^ 48 * (v % 256) + 2 ^ 56 * (pol % 2) + 2 ^ 57 else 0
  | none => 0

/-- The faults and the stretch requests of the interval that ended at B: what is stamped B itself belongs to the next (R34) (DEDUCED, log entry 29). -/
def faultsBefore (s : Block) : List FaultDesc := s.plan.faults.filter (fun f => decide (f.time < s.plan.sheetPlan))
/-- DEDUCED, log entry 29. -/
def requestsBefore (s : Block) : List (Nat × Nat × Nat) := s.plan.requests.filter (fun r => decide (r.1 < s.plan.sheetPlan))
/-- The earliest of a list of faults. -/
def earliest : List FaultDesc → Option FaultDesc
  | [] => none
  | f :: r => some (r.foldl (fun a b => if b.time < a.time then b else a) f)

/-- The weight set announced for sheet m, as the module knows it on entering the window before it: rank 0 carries it, and how the others
learn it is not stated (a free value: DESIGN CHOICE, log entry 17). -/
def announcedSet (s : Block) (m : Nat) : Option Nat :=
  if (ream s).rank = 0 then
    (match s.plan.wswitchItem with
     | some (t, v, _) => if t = m then some (v % 256) else none
     | none => none)
  else Config.announcedSet (ream s).tag m

/-- WS_READY of a contribution (R38, R300): the announced set is ready for use; without one there is nothing that is not (DESIGN CHOICE, log entry 17). -/
def wsReadyBit (s : Block) (m : Nat) : Bool :=
  match announcedSet s (m + 1) with
  | some v => (wsReadySets s).contains v
  | none => true

/-- The contribution to the window of sheet m. -/
def contributionOf (s : Block) (m : Nat) : List Byte :=
  let fs := earliest (faultsBefore s)
  let rq := requestsBefore s
  let flags := b2n fs.isSome + 2 * b2n (haltRequest s s.plan.intervalStart s.plan.sheetPlan)
  natLe 2 (ream s).tag ++ natLe 1 2 ++ natLe 1 0 ++ natLe 6 m ++ natLe 1 (rq.foldl (fun q r => max q r.2.1) 0) ++
  natLe 1 (rq.foldl (fun c r => c ||| r.2.2) 0) ++
  natLe 2 (ream s).rank ++ natLe 2 flags ++ (match fs with
    | some f => f.bytes
    | none => zeros 32) ++
  natLe 4 (epochReq s m) ++ natLe 4 (epochReady s) ++ natLe 8 (wswitchField s m) ++ natLe 1 (b2n (wsReadyBit s m)) ++ zeros 7 ++ loanField s m ++
  slice s.plan.stepHdr 0 16 ++ zeros 104

/-- The earlier of two fault descriptors: by time, then rank; a zero one never wins. -/
def earlierFault (a b : List Byte) : List Byte :=
  if allZero b then a
  else if allZero a then b
  else
    let ta := fieldLe a 0 8
    let tb := fieldLe b 0 8
    if tb < ta ∨ (tb = ta ∧ fieldLe b 0x10 2 < fieldLe a 0x10 2) then b else a

/-- The sums of LOAN entries (R316), each field kept to its width. -/
def sumLoan (a b : Nat) : Nat :=
  (bits a 0 20 + bits b 0 20) % 2 ^ 20 + (bits a 20 20 + bits b 20 20) % 2 ^ 20 * 2 ^ 20 + (bits a 40 24 + bits b 40 24) % 2 ^ 24 * 2 ^ 40

def orBytes (a b : List Byte) : List Byte := List.zipWith (fun x y => x ||| y) a b
def andBytes (a b : List Byte) : List Byte := List.zipWith (fun x y => x &&& y) a b

/-- Two records combined, field by field (R38). -/
def combineRec (a b : List Byte) : List Byte :=
  let q := max (recQ a) (recQ b)
  let ra := fieldLe a 0x0C 2
  let rb := fieldLe b 0x0C 2
  slice a 0 0x0A ++ natLe 1 q ++ orBytes (slice a 0x0B 1) (slice b 0x0B 1) ++
  natLe 2 (if recQ a = recQ b then min ra rb else if recQ b < recQ a then ra else rb) ++
  orBytes (slice a 0x0E 2) (slice b 0x0E 2) ++ earlierFault (recFault a) (recFault b) ++
  orBytes (slice a 0x30 4) (slice b 0x30 4) ++ andBytes (slice a 0x34 4) (slice b 0x34 4) ++
  orBytes (slice a 0x38 8) (slice b 0x38 8) ++ andBytes (slice a 0x40 1) (slice b 0x40 1) ++ zeros 7 ++
  (List.range 8).flatMap (fun i => natLe 8 (sumLoan (fieldLe a (0x48 + 8 * i) 8) (fieldLe b (0x48 + 8 * i) 8))) ++
  orBytes (slice a 0x88 16) (slice b 0x88 16) ++ zeros 104

/-- A received record fails a field marked "Must be equal" or "Must be zero" (R38). -/
def recordBad (own r : List Byte) : Bool :=
  slice own 0 10 != slice r 0 10 || !allZero (slice r 0x41 7) || !allZero (slice r 0x98 104)

/-! ### Lines (R36, R37) -/

/-- A port that carries traffic of the job. -/
def inJobPort (s : Block) (p : Nat) : Bool := flag s (Reg.PRT.PORT_STATUS_IN_JOB (prtPage p))

/-- A line that closes on itself round its ring; else it is open, and ends where the job does. -/
def closedLine (s : Block) (a : Nat) : Bool := decide (ringOf s a ≤ lineRun (ringOf s a) s (selfCoord s) a true + 1)

/-- How far a line multicast goes from this module one way: round a ring half of it, the longer part in the + direction (DESIGN CHOICE, log entry 6); to
the end of an open line. -/
def reach (s : Block) (a : Nat) (plus : Bool) : Nat :=
  let r := ringOf s a
  if closedLine s a then (if plus then r / 2 else (r - 1) / 2) else lineRun r s (selfCoord s) a plus

/-- How many modules' flits come in on a side: those that travel the other way to reach this module. -/
def comes (s : Block) (a : Nat) (plusSide : Bool) : Nat :=
  let r := ringOf s a
  if closedLine s a then (if plusSide then (r - 1) / 2 else r / 2) else lineRun r s (selfCoord s) a plusSide

/-- The port that carries deckle flits in a direction: the direction's lower port of the job (DESIGN CHOICE, log entry 6). -/
def deckleOut (s : Block) (a : Nat) (plus : Bool) : Option Nat :=
  [4 * a + (if plus then 0 else 2), 4 * a + (if plus then 1 else 3)].find? (inJobPort s)

def pushDeckle (s : Block) (p : Nat) (d : List Byte) : Block := setPort s p { prt s p with deckleQ := (prt s p).deckleQ ++ [d] }

/-- Flits leave along an axis, both ways. -/
def sendLine (s : Block) (a : Nat) (fl : List (List Byte)) : Block :=
  [true, false].foldl (fun t plus =>
    match deckleOut t a plus with
    | some p => if reach t a plus = 0 then t else fl.foldl (fun u d => pushDeckle u p d) t
    | none => t) s

/-- Flits of the stream are all here. -/
def streamWhole (s : Block) : Bool := decide (ceilDiv (recStepCount s.plan.held) 8 ≤ s.plan.stepFlits.length)

/-- A side of the module: axis × 2, + 1 for the side of the − ports. -/
def sideOfPort (p : Nat) : Nat := p / 4 * 2 + p % 4 / 2

/-- Every flit that comes in on a side has arrived, one from each number of hops. -/
def sideDone (s : Block) (got : List Nat) (side : Nat) : Bool :=
  (List.range (comes s (side / 2) (side % 2 == 0))).all (fun h => got.contains (64 * side + h + 1))

/-- The sides on which a flit of a half is absent (DEDUCED, log entry 29). -/
def sidesLate (s : Block) (got : List Nat) : List Nat := (List.range 6).filter (fun d => !sideDone s got d)

/-- An axis phase of a half may begin: X with the half; Y and Z at the schedule offsets that the compiler fixes in the ream, of which the
ream's format gives no field (R37: free values, DESIGN CHOICE, log entry 6). -/
def phaseDue (s : Block) (half a : Nat) : Bool :=
  let h := deckleLen s / 2
  decide (s.plan.sheetStart + half * h + (if a = 0 then 0 else Config.phaseOffset (ream s).digest half a % max 1 h) ≤ sched s)

/-- The axis phases of the announce half that can begin, in order X, Y, Z (R37). -/
def announceOn (s : Block) : Block :=
  overN 3 (fun a t =>
    if t.plan.annSent = a ∧ phaseDue t 0 a then
      sendLine { t with plan := { t.plan with annSent := a + 1 } } a (t.plan.held :: t.plan.stepFlits)
    else t) s

/-- The digest flit: CRC-32C of the held record, DISAGREE in bit 0 of byte 4 (DESIGN CHOICE, log entry 6). -/
def echoFlit (s : Block) : List Byte := natLe 4 (crc32c s.plan.held) ++ natLe 1 (b2n s.plan.disagree) ++ zeros 251
def echoOn (s : Block) : Block :=
  overN 3 (fun a t =>
    if t.plan.echSent = a ∧ phaseDue t 1 a then
      sendLine { t with plan := { t.plan with echSent := a + 1 } } a [echoFlit t]
    else t) s

/-! ### The window (R35–R42) -/

/-- The window of sheet m opens with this module's contribution; the next collection interval begins. -/
def openWindow (s : Block) (m : Nat) : Block :=
  let c := contributionOf s m
  let od := offerDemand s
  let s := { s with plan := { s.plan with
    windowOpen := true, contribution := c, held := c, ann := [], ech := [], annSent := 0, echSent := 0, echoing := false,
    disagree := false, requests := s.plan.requests.filter (fun r => decide (s.plan.sheetPlan ≤ r.1)),
    faults := s.plan.faults.filter (fun f => decide (s.plan.sheetPlan ≤ f.time)), stepFlits := s.plan.stepOut, stepOut := [], stepHdr := [],
    committedValid := false,
    loanMine := (m, od.1, od.2) :: s.plan.loanMine.filter (fun p => m ≤ p.1 + 4) } }
  announceOn s

/-- The opposite port of a line. -/
def opposite (p : Nat) : Nat := p / 4 * 4 + (p % 4 + 2) % 4

/-- A flit that has come `hops` hops is passed on while it has farther to go (R36): half the ring, or to the end of an open line. -/
def forwardDeckle (s : Block) (p hops : Nat) (d : List Byte) : Block :=
  let plus := decide (2 ≤ p % 4)
  let go := if closedLine s (p / 4) then decide (hops < reach s (p / 4) plus) else decide (0 < reach s (p / 4) plus)
  if go ∧ inJobPort s (opposite p) then pushDeckle s (opposite p) d else s

/-- The flit is a stream flit: the rules give no mark, and it is told by not being shaped as a record of this window, while the held record
names a stream not yet whole (DESIGN CHOICE, log entry 6). -/
def isStream (s : Block) (d : List Byte) : Bool := slice s.plan.contribution 0 10 != slice d 0 10 && !streamWhole s

/-- A flit of the announce half that has come `hops` hops. -/
def announceFlit (s : Block) (p hops : Nat) (d : List Byte) : Block :=
  if isStream s d then
    announceOn (forwardDeckle { s with plan := { s.plan with stepFlits := s.plan.stepFlits ++ [d] } } p hops d)
  else
    let s := forwardDeckle s p hops d
    let bad := recordBad s.plan.contribution d
    let s := { s with plan := { s.plan with
      ann := (64 * sideOfPort p + hops) :: s.plan.ann, disagree := s.plan.disagree || bad,
      held := if bad then s.plan.held else combineRec s.plan.held d } }
    announceOn s

/-- A flit of the echo half (R41). -/
def echoArrival (s : Block) (p hops : Nat) (d : List Byte) : Block :=
  let s := forwardDeckle s p hops d
  let differs := fieldLe d 0 4 != crc32c s.plan.held || bit (fieldLe d 4 1) 0
  echoOn { s with plan := { s.plan with ech := (64 * sideOfPort p + hops) :: s.plan.ech, disagree := s.plan.disagree || differs } }

/-- A deckle flit that is at least in its half is kept in the couch until the half's end (R199, R224); what forwards it does not wait. -/
def deckleCouch (s : Block) (p js h : Nat) (d : List Byte) : Block :=
  let e : Couch := ⟨js, bit h 41, false, d, h, sched s, b2n (bit h 3), false⟩
  let s := setPort s p { prt s p with couch := Tab.ins (Tab.del (prt s p).couch (js % 1024)) (js % 1024) e }
  telHigh s p 10 (couchUsed s p)

/-- The deckle flits of a half leave the couch at its end, their release tick. -/
def freeDeckle (s : Block) : Block :=
  overN 12 (fun p t => setPort t p { prt t p with couch := (prt t p).couch.filter (fun e => bits e.2.header 0 2 != 3) }) s

/-- A deckle flit on a port of the job: the slot of its header says in which half it travels, `hops` which flit of its line multicast it is
(DESIGN CHOICE, log entry 6). One that comes after its half has ended is late (R192, R199). -/
def deckleArrival (s : Block) (p h hops : Nat) (d : List Byte) : Block :=
  let js := slotOfHeader s (bits h 44 12)
  let echo := decide (s.plan.sheetStart + deckleLen s / 2 ≤ 2 * js)
  if !inJob s || s.plan.halted || !inJobPort s p then s
  else if !s.plan.windowOpen || (s.plan.echoing && !echo) then
    raisePage (incSat s (Reg.PRT.LATE_ARRIVALS (prtPage p)) 1) (prtPage p) ErrBit.PRT.LATE_ARRIVAL
  else if echo then (if s.plan.echoing then echoArrival (deckleCouch s p js h d) p hops d else s)
  else announceFlit (deckleCouch s p js h d) p hops d

def doDeckleArrival (s : Block) (p h hops : Nat) (d : List Byte) : Block :=
  if bits h 0 2 = 3 then deckleArrival s p h hops d else s

/-- The port on a side of the module that its deckle flits come in by. -/
def sidePort (s : Block) (side : Nat) : Nat := (deckleOut s (side / 2) (side % 2 == 0)).getD (4 * (side / 2) + 2 * (side % 2))

/-- A deckle flit absent on a side at its release tick, the end of its half: a late slot of that side's port engine (R41, R42, R199) (DEDUCED, log entry 29; DEDUCED, log entry 29). -/
def lateDeckle (side : Nat) (s : Block) : Block :=
  let p := sidePort s side
  faultEng (raisePage (incSat s (Reg.PRT.LATE_COUNT (prtPage p)) 1) (prtPage p) ErrBit.PRT.LATE_SLOT) clsLateSlot (engPE p) 0 0

/-- The side on which rank 0's stream comes in: on the last axis that parts the two modules, the way a line multicast takes (DEDUCED, log entry 29). -/
def streamSide (s : Block) : Nat :=
  let me := selfCoord s
  let z := rankCoord s (activeTable s) 0
  let a := ([2, 1, 0].find? (fun i => axisOf z i != axisOf me i)).getD 0
  let r := ringOf s a
  let d := if r = 0 then 0 else (axisOf me a + r - axisOf z a) % r
  2 * a + b2n (decide (d ≤ comes s a false))

/-- The stream as bytes, cut to what STEP_HDR counts. -/
def streamBytes (s : Block) : List Byte := s.plan.stepFlits.flatten.take (32 * recStepCount s.plan.held)
/-- The stream matches STEP_HDR in count and CRC. -/
def streamOk (s : Block) : Bool :=
  let n := recStepCount s.plan.held
  s.plan.stepFlits.length == ceilDiv n 8 && (n == 0 || crc32c (streamBytes s) == recStepCrc s.plan.held)

/-- A flip that the ream requires meets EPOCH_READY 0 (R50). -/
def flipUnready (s : Block) : Bool :=
  let rq := reamFlips s (sheet s + 1)
  let rdy := recReady s.plan.held
  (bit rq 0 && !bit rdy 0) || (bit rq 1 && !bit rdy 1)

/-- DEDUCED, log entry 29. -/
def doAnnounceEnd (s : Block) : Block :=
  if !s.plan.windowOpen || s.plan.echoing || s.plan.halted || decide (sched s < s.plan.sheetStart + deckleLen s / 2) then s
  else
    let late := sidesLate s s.plan.ann
    let whole := late.isEmpty
    let s := freeDeckle (overL late lateDeckle s)
    let s := when (whole && !streamWhole s) (lateDeckle (streamSide s)) s
    let s := when (flipUnready s) (fun t => faultDie t clsFlipNotReady) s
    echoOn { s with plan := { s.plan with echoing := true, disagree := s.plan.disagree || !whole || !streamOk s } }

/-- The halt that a window commits: HALT_SHEET, the event and the log (R52, R338). -/
def commitHalt (s : Block) : Block :=
  let h := sheet s + 1
  let s := wr (wr s Reg.TBS.HALT_SHEET h) Reg.TBS.HALT_SHEET_VALID 1
  logEntry (event { s with plan := { s.plan with haltNext := true } } 2 0 0 h) 8 0 0 (h % 2 ^ 32)

/-- The committed record calls for a halt (R50, R52, R53). -/
def recHalts (s : Block) : Bool := recFlags s.plan.held % 4 != 0 || !allZero (recFault s.plan.held) || flipUnready s

/-- Refusals of switches and variants, which are no faults (R50, R51). -/
def noteRefusals (s : Block) : Block :=
  let r := s.plan.held
  let s := if bit (recReq r) 2 ∧ recReady r % 4 ≠ 3 then
      raisePage { s with serv := { s.serv with flags := s.serv.flags ||| 1 } } 0x7000 ErrBit.SES.VARIANT_REFUSED else s
  let w := recSwitch r
  if bit w 57 then
    let cause := if bits w 0 48 ≠ sheet s + 1 then some 0 else if !recWsReady r then some 1
      else if !stepStart s (sheet s + 1) then some 2 else none
    match cause with
    | some c => raisePage { s with serv := { s.serv with flags := s.serv.flags ||| (2 + 4 * c) } } 0x7000 ErrBit.SES.WSWITCH_REFUSED
    | none => s
  else s

/-- The committed stream becomes the step to build: descriptor 0 carries the step number in bytes 0–3, the item count in 4–7 and the wall
time in 8–15 (DESIGN CHOICE, log entry 6). -/
def takeStream (s : Block) : Block :=
  if recStepCount s.plan.held = 0 then s
  else
    let b := streamBytes s
    { s with serv := { s.serv with
      building := true, wallMs := fieldLe b 8 8,
      committedItems := (List.range (recStepCount s.plan.held - 1)).map (fun i => slice b (32 * (i + 1)) 32) } }

def doCommit (s : Block) : Block :=
  if !s.plan.windowOpen || s.plan.halted || decide (sched s < s.plan.sheetStart + deckleLen s) then s
  else
    let late := if s.plan.echoing then sidesLate s s.plan.ech else []
    let whole := s.plan.echoing && late.isEmpty
    let s := freeDeckle (overL late lateDeckle s)
    let s := { s with plan := { s.plan with windowOpen := false, disagree := s.plan.disagree || !whole } }
    if s.plan.disagree then commitHalt (faultDie s clsDisagree)
    else
      let s := { s with plan := { s.plan with committed := s.plan.held, committedValid := true } }
      let s := when (recQ s.plan.held != 0 && fieldLe s.plan.held 0x0C 2 == (ream s).rank && (fieldLe s.plan.held 0x0B 1) % 16 / 8 + fieldLe s.plan.held 0x0B 1 % 2 != 0)
        (fun t => chargeStretch t (sheet t)) s
      if recHalts s then commitHalt s else takeStream (noteRefusals s)

/-! ### The halt (R52, R53, R335) -/

def haltEngines (s : Block) (reason : Nat) : Block := overL allEngines (fun n t => if engInJob t n then haltIfLive t n reason else t) s

/-- A halt boundary: nothing else of the record is applied. A named teardown is cancelled (R344). -/
def doHalt (s : Block) (m : Nat) : Block :=
  let echoFailed := s.plan.disagree
  let rec_ := s.plan.held
  let s := wr (wr s Reg.TBS.SHEET_NUM m) Reg.TBS.SCHED_TIME (s.plan.sheetStart + lenOfSheet s (m - 1))
  let s := when ((ream s).mode != 0 && stepStart s m && decide (0 < stepNumber s m)) endStep s
  let s := { s with plan := { s.plan with haltNext := false, halted := true, inQuantum := false, teardownNamed := false, teardownSheet := 0 } }
  let s := wr (wr s Reg.TBS.HALT_SHEET m) Reg.GLB.TEARDOWN_TICK 0
  let s := wr (haltEngines s rsJOBHALT) Reg.GLB.JOB_STATUS_STATE 4
  let cls := fieldLe (firstFault s) 0x0E 2
  let s := if cls = clsUncorrectable then charge s 1 0 0 else if cls = clsHung then charge s 5 0 0 else s
  event (endLoans (haltRecord s m echoFailed rec_)) 3 0 0 m

/-! ### The boundary (R33) -/

/-- Step 2 and 3: flips and the variant. A variant that the ream lacks, or one named in ride-along mode, is changed to all the same, with the
present sheet cycle: R49 speaks of split mode and of the variants there are (DESIGN CHOICE, log entry 36). -/
def boundaryFlips (s : Block) (m : Nat) : Block :=
  let r := s.plan.committed
  let rdy := recReady r
  let rq := reamFlips s m
  let var := bit (recReq r) 2 && rdy % 4 == 3
  let s := flipAll s (bit rdy 0 && (bit rq 0 || var)) (bit rdy 1 && (bit rq 1 || var))
  let s := when s.ni.flipPending applyRtFlip s
  if var then
    let v := bits (recReq r) 3 2
    let rm := ream s
    wr { s with plan := { s.plan with variant := v, ream := some { rm with cycle := rm.copies.getD v rm.cycle } } }
      Reg.SES.SES_STATUS_VARIANT v
  else s

/-- Step 4: the base-weight switch. -/
def boundarySwitch (s : Block) (m : Nat) : Block :=
  let w := recSwitch s.plan.committed
  if bit w 57 ∧ bits w 0 48 = m ∧ recWsReady s.plan.committed ∧ stepStart s m then
    match wsHolder s (bits w 48 8) with
    | some d => when ((ream s).mode != 0) (fun t => wr t Reg.SES.SES_STATUS_WEIGHT_SET (bits w 48 8)) (wsActivate s d)
    | none => s
  else s

/-- A core engine at the gate resumes, in its new bank at its start (R94), once the pad of a loop that SHEET_END closed has passed (R102); the sheet's
marks clear (R96). -/
def gate (n : Nat) (s : Block) : Block :=
  let b := engBlock n
  let e := eng s n
  if !engInJob s n then s
  else if engState s n = 3 ∧ rd s (Reg.ENG.STATE_WAIT_KIND b) = 4 then
    let s := wr s (Reg.ENG.DEADLINE b) e.nextDeadline
    let s := if e.flipped then wr s (Reg.ENG.NEXT_OP b) 0 else s
    resume (setEng s n { e with
      doneSheet := false, flipped := false, loops := if e.flipped then [] else e.loops, padUntil := if e.flipped then 0 else e.padUntil }) n
  else setEng s n { e with doneSheet := false, flipped := false }

/-- A die-level program starts its sheet. -/
def restartDie (n : Nat) (s : Block) : Block :=
  if engState s n = 2 then
    wr (setEng s n { eng s n with repeats := [], flipped := false, outBase := 0, outMask := 0 }) (Reg.ENG.NEXT_OP (engBlock n)) 0
  else s

/-- The counts zeroed at each boundary. -/
def zeroCounts (s : Block) : Block :=
  let s := overN 16 (fun c t => wr t (Reg.CLK.DROOP_EVENTS (clkPage c)) 0) s
  let s := overN 96 (fun k t =>
    let t := wr (wr t (Reg.COR.SHEET_DONE_ENGINES (corPage (k / 6) (k % 6))) 0) (Reg.COR.SHEET_DONE_CORE (corPage (k / 6) (k % 6))) 0
    wr t (Reg.SY.HINTS_SHEET (engPage8 (k / 6) (k % 6) 7)) 0) s
  let s := overN 384 (fun a t =>
    let b := engPage8 (a / 24) (a / 4 % 6) (a % 4)
    wr (wr t (Reg.MX.VECTORS_SHEET b) 0) (Reg.MX.HEAVY_SHEET b) 0) s
  let s := overN 20 (fun u t => wr (wr t (regU u Reg.HBM.MOVE_USED Reg.DDR.MOVE_USED) 0) (regU u Reg.HBM.MOVE_IDLE Reg.DDR.MOVE_IDLE) 0) s
  overN 12 (fun p t =>
    let t := wr (wr t (Reg.PRT.RETRY_SHEET_MAX_RETX (prtPage p)) 0) (Reg.PRT.RETRY_SHEET_MIN_SLACK (prtPage p)) 0xFFFF
    wr (wr (wr t (Reg.SLT.TX_SHEET (sltPage p)) 0) (Reg.SLT.RX_SHEET (sltPage p)) 0) (Reg.SLT.IDLE_SHEET (sltPage p)) 0) s

/-- Which arrays hold tokens in the sheet (R312, R313): array a = 4 × die-wide core + MX number. -/
def showTokens (s : Block) : Block :=
  overN 384 (fun a t => wr t (Reg.MX.ARRAY_STATUS_TOKEN_HELD (engPage8 (a / 24) (a / 4 % 6) (a % 4))) (b2n (bit t.plan.granted a))) s

/-- T_d as the stretch agreed so far places B_S (R344). -/
def teardownTick (s : Block) : Nat :=
  let base := if jobState s = 2 then rd s Reg.TBS.JOB_ORIGIN else s.plan.sheetPlan + 1024 * s.plan.quanta
  base + (sigmaOf s s.plan.teardownSheet - s.plan.sheetStart)

/-- The sheet m begins at schedule time σ and plan time B: steps 5 to 7, and its window opens. -/
def beginSheet (s : Block) (m σ B : Nat) : Block :=
  let s := zeroCounts (wr s Reg.TBS.SHEET_NUM m)
  let s := { s with plan := { s.plan with
    sheetStart := σ, intervalStart := s.plan.sheetPlan, sheetPlan := B, nextQuantum := 0, inQuantum := false } }
  let s := showTokens (grantTokens (coverRegions s) m)
  let s := capBelowPlan s m
  let s := overN 834 (fun n t => if n < 768 then gate n t else restartDie n t) s
  let s := when s.plan.teardownNamed (fun t => wr t Reg.GLB.TEARDOWN_TICK (teardownTick t)) s
  openWindow s m

/-- The geometry of the variant in force. -/
def showGeometry (s : Block) : Block :=
  wr (wr s Reg.SES.GEOMETRY_SLOTS (servField s s.plan.variant 0)) Reg.SES.GEOMETRY_CHUNK_SLOTS (servField s s.plan.variant 1)

/-- A step starts (R258): STEP_NUM, and the geometry of the variant in force. -/
def startStep (s : Block) (m : Nat) : Block :=
  if (ream s).mode ≠ 0 ∧ stepStart s m then
    let s := wr (wr (when (decide (0 < stepNumber s m)) endStep s) (Reg.HBM.POOL_FREE (hbmPage 0)) (freeCount s 0)) (Reg.DDR.POOL_FREE (ddrPage 0)) (freeCount s 1)
    showGeometry { wr s Reg.SES.STEP_NUM (stepNumber s m) with serv := { s.serv with stepNum := stepNumber s m } }
  else s

/-- The boundary of the next sheet has come. -/
def boundaryDue (s : Block) : Bool :=
  inJob s && jobState s == 3 && !s.plan.halted && !s.plan.windowOpen && !s.plan.inQuantum &&
  decide (s.plan.sheetStart + lenOfSheet s (sheet s) ≤ sched s) && decide (s.plan.quanta ≤ s.plan.nextQuantum)

/-- The boundary of sheet n + 1 lies at B_n + L_n + 1,024 q_n, whichever tick the command is taken in (R32). -/
def doBoundary (s : Block) : Block :=
  let n := sheet s
  let m := n + 1
  if !boundaryDue s then s
  else if s.plan.haltNext then doHalt s m
  else if s.plan.teardownNamed ∧ s.plan.teardownSheet = m then s
  else
    let s := boundarySwitch (boundaryFlips s m) m
    let s := applyLoans s n
    let q := recQ s.plan.committed
    let len := lenOfSheet s n
    let B := s.plan.sheetPlan + len + 1024 * s.plan.quanta
    beginSheet (startStep { s with plan := { s.plan with quanta := q } } m) m (s.plan.sheetStart + len) B

/-! ### Job origin (R85, R203, R300, R390) -/

/-- A port the ream's mask places in the job; a miscabled port never is (R185, R186), and no port is where the job spans one module (R4) (DEDUCED, log entry 28). -/
def jobPort (s : Block) (p : Nat) : Bool :=
  decide (1 < (ream s).jobSize) && bit (ream s).portMask p && !flag s (Reg.PRT.PORT_STATUS_MISCABLED (prtPage p))

/-- The job ports take the tag (R203). -/
def tagPorts (s : Block) (tag : Nat) : Block :=
  overN 12 (fun p t => if inJobPort t p then updateFence (wr t (Reg.PRT.JOB_TAG_TAG (prtPage p)) tag) p else t) s

/-- An engine starts at address 0 of its active bank (DEDUCED, log entry 28). -/
def startEngine (n : Nat) (s : Block) : Block :=
  if engState s n = 1 then
    wr (setEng (wr s (Reg.ENG.STATE_STATE (engBlock n)) 2) n { eng s n with doneSheet := false, flipped := false, lastTick := 0 })
      (Reg.ENG.NEXT_OP (engBlock n)) 0
  else s

/-- Engines that T0 starts: selected core engines, die-level engines with an image, the session engine of a serving ream. -/
def selected (s : Block) (n : Nat) : Bool :=
  if n < 768 then engInJob s n else (ream s).loadsEngines.contains n || (n == engSSE && (ream s).mode != 0)

/-- A region below the ream's f_floor is at it when the job begins (R30; DESIGN CHOICE, log entry 5), unless a thermal trip holds it down. -/
def floorRegion (c : Nat) (s : Block) : Block :=
  if s.power.tripped then s
  else wr (setClus s c { clus s c with restart := max (clus s c).restart (floorOf s) }) (Reg.CLK.FREQ_NOW_NOW (clkPage c)) (max (freqNow s c) (floorOf s))

/-- T0 (DEDUCED, log entry 28): sheet 0 begins, and a rank-table flip written since START is made at its boundary (R244). -/
def doOrigin (s : Block) : Block :=
  if jobState s ≠ 2 ∨ now s < rd s Reg.TBS.JOB_ORIGIN then s
  else
    let s := wr s Reg.GLB.JOB_STATUS_STATE 3
    let s := tagPorts s (ream s).tag
    let s := overL allEngines (fun n t => if selected t n then startEngine n t else t) s
    let s := match wsHolder s (ream s).initialSet with
      | some d => wsActivate s d
      | none => s
    let s := when s.ni.flipPending applyRtFlip (overN 16 floorRegion s)
    let t0 := rd s Reg.TBS.JOB_ORIGIN
    let s := { s with plan := { s.plan with quanta := 0, haltNext := false, halted := false, committed := [], requests := [], sheetPlan := t0 } }
    beginSheet s 0 0 t0

/-! ### Stretch quanta (R46, R48) -/

/-- The schedule offset before which quantum i stands. -/
def quantumAt (s : Block) (i : Nat) : Nat := 1024 * (i * (lenOfSheet s (sheet s) / 1024) / max 1 s.plan.quanta)

def doQuantumStart (s : Block) : Block :=
  let i := s.plan.nextQuantum
  if !inJob s || s.plan.halted || s.plan.inQuantum || decide (s.plan.quanta ≤ i) || decide (sched s < s.plan.sheetStart + quantumAt s i) then s
  else
    let s := { s with plan := { s.plan with inQuantum := true, nextQuantum := i + 1, quantumEnd := rd s Reg.TBS.STRETCH_OFFSET + 1024 } }
    if i = 0 then quantumZero s else s

def doQuantumEnd (s : Block) : Block :=
  if s.plan.inQuantum ∧ s.plan.quantumEnd ≤ rd s Reg.TBS.STRETCH_OFFSET then { s with plan := { s.plan with inQuantum := false } } else s

/-! ### Start (R25, R69, R300, R390, R391) -/

def keptBusy (s : Block) (r : Nat) : Bool := let st := rd s (Reg.GLB.KEPT_STATE_STATE r); st == 2 || st == 3
def keptLen (s : Block) (r : Nat) : Nat := 65536 * rd s (Reg.GLB.KEPT_LEN r)
/-- The declared ranges in device memory (R419): weight-relative ones are none. -/
def declared (s : Block) : List Range := (ream s).ranges.filter (fun r => r.use != 1)
def keptOverlap (s : Block) : Bool :=
  (List.range 16).any (fun r => keptBusy s r && (declared s).any (fun d => meets d.base d.len (rd s (Reg.GLB.KEPT_BASE r)) (keptLen s r)))

/-- The code of a start (R391). -/
def startCode (s : Block) : Nat :=
  let t0 := rd s Reg.GLB.START_T0
  let st := lockState s
  if rd s Reg.PCI.LOAD_STATUS_STATE ≠ 2 then 1
  else if 2 ≤ jobState s then 2
  else if flag s Reg.GLB.MODULE_STATE_PENDING then 3
  else if !flag s Reg.GLB.COORD_LO_VALID then 4
  else if t0 % 1024 ≠ 0 then 5
  else if t0 < now s + 10000000 then 6
  else if !(st == lkLOCKED || st == lkSLEW || (isRoot s && st == lkFREE)) then 7
  else if (wsHolder s (ream s).initialSet).isNone then 8
  else if keptOverlap s then 9
  else if isLive s 0 ErrBit.GLB.PARITY_FAULT then 10
  else 0

/-- The ream-given registers of the PWR and CLK pages (R29, R310, R316). -/
def showReam (s : Block) : Block :=
  let r := ream s
  let s := wr (wr (wr s Reg.PWR.LOAN_CFG_GROUP r.loanGroup) Reg.PWR.LOAN_CFG_CRITICAL (b2n r.critical)) Reg.PWR.SHELF_BUDGET r.shelf
  let s := overN 16 (fun c t => wr t (Reg.CLK.FLOOR (clkPage c)) r.floor) s
  wr s Reg.PWR.PLAN_POWER_FLOOR (planFloor s)

/-- Every cluster's cores and store lie in reset, which clears what a cluster's reset clears, or leave it (R85, R118, R204). -/
def holdCores (s : Block) (held : Bool) : Block :=
  let s := if held then overN 16 resetCluster s else s
  let s := overN 768 (fun n t => wr t (Reg.ENG.STATE_STATE (engBlock n)) (b2n !held)) s
  let s := overN 96 (fun k t =>
    wr (wr t (Reg.COR.RESET_STATUS_ENGINES (corPage (k / 6) (k % 6))) (if held then 0xFF else 0)) (Reg.COR.RESET_STATUS_CORE (corPage (k / 6) (k % 6))) (b2n held)) s
  overN 16 (fun c t => wr t (Reg.CLU.RESET_STATUS_CLUSTER (cluPage c)) (b2n held)) s

/-- The module joins the job: every IN_JOB field (DEDUCED, log entry 28). -/
def joinJob (s : Block) : Block :=
  let r := ream s
  let s := wr (wr s Reg.TBS.STATE_IN_JOB 1) Reg.GLB.MODULE_STATE_FWD_ONLY (b2n r.fwdOnly)
  let s := wr (wr s Reg.NI.NI_RANK_RANK r.rank) Reg.NI.NI_RANK_VALID 1
  let s := overN 96 (fun k t => wr t (Reg.COR.ENGINE_MASK_IN_JOB (corPage (k / 6) (k % 6)))
    (b2n (bit (rd t (Reg.CLU.CORE_MASK_CORES (cluPage (k / 6)))) (k % 6)))) s
  let s := overN 16 (fun c t => wr t (Reg.CLU.CORE_MASK_IN_JOB (cluPage c)) (b2n (rd t (Reg.CLU.CORE_MASK_CORES (cluPage c)) != 0))) s
  let s := overN 12 (fun p t =>
    updateMargin (wr (wr t (Reg.PRT.PORT_STATUS_IN_JOB (prtPage p)) (b2n (jobPort t p))) (Reg.PRT.PORT_STATUS_FWD_ONLY (prtPage p)) (b2n r.fwdOnly)) p) s
  if r.fwdOnly then holdCores s true else s

def refuseStart (s : Block) (code : Nat) : Block :=
  let s := raisePage s 0 ErrBit.GLB.START_REFUSED
  let s := when (code == 7) (fun t => raisePage t tbs ErrBit.TBS.START_UNLOCKED) s
  let s := when (code == 8) (fun t => raisePage t 0x6000 ErrBit.HDB.START_NO_WEIGHTS) s
  event s 6 code (pageId 0) 0

/-- The SES page of a serving job (R288); the sampling seed is every ream's (R278, R416). -/
def showServing (s : Block) : Block :=
  let r := ream s
  let s := wr s Reg.SES.GEN_SEED r.genSeed
  if r.mode = 0 then wr s Reg.SES.SES_STATUS_IN_JOB 0
  else
    let f := servField s 0
    let s := wr (wr (wr s Reg.SES.SES_STATUS_IN_JOB 1) Reg.SES.SES_STATUS_LEAD (b2n (r.rank == 0))) Reg.SES.SES_STATUS_MODE (r.mode - 1)
    let s := wr s Reg.SES.SES_STATUS_LOG_KEEPER (b2n (r.rank == 0 || r.rank == f 10))
    let s := wr (showGeometry s) Reg.SES.GEOMETRY_SPEC_K (f 3)
    let s := wr (wr (wr s Reg.SES.CUTOFF (f 4)) Reg.SES.BUILD (f 5)) Reg.SES.PAGE_GEOM_PAGE_TOKENS (f 6)
    let s := wr (wr (wr s Reg.SES.PAGE_GEOM_MAX_CTX_PAGES (f 7)) Reg.SES.HBM_LOW (f 8)) Reg.SES.AUTO_TTL (f 9)
    let s := wr (wr (wr s Reg.SES.TABLE_BASE (f 11)) Reg.SES.SESSIONS (f 12)) Reg.SES.PL_BASE (f 13)
    let s := wr (wr s Reg.SES.PL_BLOCKS (f 14)) Reg.SES.ADAPTER_BASE (f 15)
    let s := if flag s Reg.SES.SES_STATUS_LOG_KEEPER then wr (wr (wr s Reg.SES.LOG_BASE (f 16)) Reg.SES.LOG_PAGES (f 17)) Reg.SES.LOG_FREE (f 17) else s
    wr (wr s Reg.SES.SES_STATUS_WEIGHT_SET r.initialSet) Reg.SES.SES_STATUS_VARIANT 0

def doStart (s : Block) : Block :=
  let code := startCode s
  let s := wr s Reg.GLB.JOB_STATUS_START_CODE code
  if code ≠ 0 then refuseStart s code
  else
    let s := wr (wr s Reg.GLB.JOB_STATUS_STATE 2) Reg.TBS.JOB_ORIGIN (rd s Reg.GLB.START_T0)
    let s := wr (wr (wr s Reg.TBS.SCHED_TIME 0) Reg.TBS.STRETCH_OFFSET 0) Reg.TBS.SHEET_NUM 0
    let s := { s with plan := { ({} : PlanSt) with ream := s.plan.ream }, serv := { ({} : ServSt) with written := s.serv.written }, power := { s.power with fcap := [] } }
    let s := overN 16 (fun c t => setClus t c { clus t c with plans := [], lastTemp := none, hints := [] }) s
    let s := wr (wr (wr s Reg.PCI.LOAD_STATUS_STATE 0) Reg.PWR.CAP_EFF_CORRECTION 0) Reg.TBS.HALT_SHEET_VALID 0
    showCap (joinJob (wr s Reg.SES.NOT_READY_TOTAL 0))

def doJobStart (s : Block) (rq : Requester) : Block := guardedCmd s rq 0 doStart

/-! ### Meanings -/

def execJobStart (rq : Requester) := run (fun s => doJobStart s rq)
def execJobOrigin := run doOrigin
def execSheetBoundary := run doBoundary
def execStretchQuantumStart := run doQuantumStart
def execStretchQuantumEnd := run doQuantumEnd
def execDeckleFlitArrival (port : Fin 12) (header : BitVec 128) (hops : Fin 64) (payload : List Byte) :=
  runIf (payload.length == 256) "DECKLE_FLIT_ARRIVAL" (fun s => doDeckleArrival s port header.toNat hops payload)
def execAnnounceHalfEnd := run doAnnounceEnd
def execDeckleCommit := run doCommit

end Sys2Proof.Machine
end

