-- ==== Sys2Proof/Machine/Sha.lean ====
section
/-! DEFINITION. SHA-256 and the RSASSA-PSS check with MGF1/SHA-256, a 32-byte salt and a 3072-bit key (R292, R401). -/

namespace Sys2Proof.Machine

/-! ### SHA-256

FIPS 180-4 makes its constants from primes and its round of eight words. Here the constants are computed as it defines them, and the eight
words are the last four values of two sequences: a round adds a value to each. -/

/-- The k-th root of n in whole numbers, of at most 36 bits. -/
def rootOf (k n : Nat) : Nat :=
  (List.range 36).foldl (fun r i => if (r + 2 ^ (35 - i)) ^ k ≤ n then r + 2 ^ (35 - i) else r) 0

/-- The first 64 primes. -/
def firstPrimes : List Nat :=
  (List.range 312).filter (fun n => decide (2 ≤ n) && [2, 3, 5, 7, 11, 13, 17].all (fun d => n == d || n % d != 0))

/-- The first 32 bits of what the k-th root of p has behind its point. -/
def rootFraction (k p : Nat) : Nat := rootOf k (p * 2 ^ (32 * k)) % 2 ^ 32

/-- The exclusive or of a word turned right by each of these counts. -/
def turned (x : Nat) (by_ : List Nat) : Nat := by_.foldl (fun r n => r ^^^ ((x >>> n ||| x <<< (32 - n)) % 2 ^ 32)) 0

/-- The words of a block followed by those that the schedule derives from them, the newest first. -/
def shaExpand (blk : List Nat) : List Nat :=
  (List.range 48).foldl (fun w _ =>
    (w.getD 15 0 + w.getD 6 0 + (turned (w.getD 14 0) [7, 18] ^^^ w.getD 14 0 >>> 3) +
      (turned (w.getD 1 0) [17, 19] ^^^ w.getD 1 0 >>> 10)) % 2 ^ 32 :: w) blk.reverse

/-- One round over the two sequences, the newest values first, with the sum of a constant and a word of the schedule. -/
def shaStep (a e : List Nat) (kw : Nat) : List Nat × List Nat :=
  let pick := e.getD 2 0 ^^^ (e.getD 0 0 &&& (e.getD 1 0 ^^^ e.getD 2 0))
  let most := (a.getD 0 0 &&& a.getD 1 0) ||| (a.getD 2 0 &&& (a.getD 0 0 ||| a.getD 1 0))
  let t := e.getD 3 0 + turned (e.getD 0 0) [6, 11, 25] + pick + kw
  ((t + turned (a.getD 0 0) [2, 13, 22] + most) % 2 ^ 32 :: a.take 3, (a.getD 3 0 + t) % 2 ^ 32 :: e.take 3)

/-- The chaining value after a block of 64 bytes. -/
def shaBlock (h : List Nat) (blk : List Byte) : List Nat :=
  let words := (List.range 16).map (fun i => beNat (slice blk (4 * i) 4))
  let kws := List.zipWith (fun p w => rootFraction 3 p + w) firstPrimes (shaExpand words).reverse
  let r := kws.foldl (fun x kw => shaStep x.1 x.2 kw) (h.take 4, h.drop 4)
  List.zipWith (fun x y => (x + y) % 2 ^ 32) h (r.1 ++ r.2)

def sha256 (m : List Byte) : List Byte :=
  let p := m ++ (0x80 :: zeros ((119 - m.length % 64) % 64)) ++ natBe 8 (8 * m.length)
  let first := (firstPrimes.take 8).map (rootFraction 2)
  ((List.range (p.length / 64)).foldl (fun h i => shaBlock h (slice p (64 * i) 64)) first).flatMap (natBe 4)

/-! ### RSASSA-PSS (R292) -/

/-- b^(2^16 + 1) modulo n. -/
def rsaPow (b n : Nat) : Nat := (List.range 16).foldl (fun x _ => x * x % n) (b % n) * b % n

/-- n bytes of MGF1. -/
def mgf1 (seed : List Byte) (n : Nat) : List Byte :=
  ((List.range (ceilDiv n 32)).flatMap (fun i => sha256 (seed ++ natBe 4 i))).take n

/-- The signature verifies under a modulus: an encoded message of 384 bytes whose top bit is zero. -/
def pssVerify (modulus : Nat) (msg sig : List Byte) : Bool :=
  let v := beNat sig
  let em := natBe 384 (rsaPow v modulus)
  let masked := em.take 351
  let h := slice em 351 32
  let db0 := List.zipWith (fun a b => a ^^^ b) masked (mgf1 h 351)
  let db := db0.set 0 ((db0.getD 0 0) &&& 0x7F)
  sig.length == 384 && decide (v < modulus) && em.getD 383 0 == 0xBC && decide ((em.getD 0 0).toNat < 128) &&
  allZero (db.take 318) && db.getD 318 0 == 1 && sha256 (zeros 8 ++ sha256 msg ++ db.drop 319) == h

end Sys2Proof.Machine
end

