-- ==== Sys2Proof/Machine/Headbox.lean ====
section
/-! DEFINITION. Weight intake: the manifest and its checks, chunks, decoding, re-layout and quantisation, and the commands of the HDB
page (R290–R300). -/

namespace Sys2Proof.Machine

/-! ### The manifest (R290, R291) -/

def manMagic : Nat := 0x53484448
def manKind (h : List Byte) : Nat := fieldLe h 6 1
def manChunks (h : List Byte) : Nat := fieldLe h 8 4
def manOut (h : List Byte) : Nat := fieldLe h 0x10 8
def manKeyId (h : List Byte) : List Byte := slice h 0x20 32
def manRoot (h : List Byte) : List Byte := slice h 0x40 32
def manLen (n : Nat) : Nat := 0x100 + 64 * n + 384
/-- The length of the manifest area. -/
def manArea : Nat := manLen 1048576

/-- The header is a manifest of version 1 with its zero fields zero. -/
def manHeaderOk (h : List Byte) : Bool :=
  fieldLe h 0 4 == manMagic && fieldLe h 4 2 == 1 && decide (manKind h ≤ 1) && allZero (slice h 7 1) && decide (1 ≤ manChunks h) &&
  decide (manChunks h ≤ 1048576) && allZero (slice h 0x0C 4) && allZero (slice h 0x18 8) && allZero (slice h 0x80 128)

/-- A chunk entry. -/
structure Entry where
  leaf : List Byte
  stored : Nat
  units : Nat
  stack : Nat
  src : Nat
  dst : Nat
  flags : Nat
  off : Nat
  zeroOk : Bool
deriving DecidableEq, Repr

def entryOf (e : List Byte) : Entry :=
  ⟨slice e 0 32, fieldLe e 0x20 4, fieldLe e 0x24 4, fieldLe e 0x28 1, fieldLe e 0x29 1, fieldLe e 0x2A 1, fieldLe e 0x2B 1, fieldLe e 0x30 8,
   allZero (slice e 0x2C 4) && allZero (slice e 0x38 8)⟩

def Entry.compressed (e : Entry) : Bool := bit e.flags 0
def Entry.quantise (e : Entry) : Bool := bit e.flags 1
def Entry.raw (e : Entry) : Bool := bit e.flags 2

/-- Bytes of a decoded tile (R298). -/
def decodedTile (e : Entry) : Nat :=
  if e.quantise then (if e.dst = 5 ∨ e.dst = 6 then 1024 + 65536 else 128 + 32768) else tileBytes e.src

def decodedLen (e : Entry) : Nat := if e.raw then e.units else e.units * decodedTile e
/-- Bytes that the chunk writes. -/
def outLen (e : Entry) : Nat :=
  if e.raw then e.units else e.units * tileBytes e.dst + (if e.quantise ∧ e.dst ≤ 4 then 128 * e.units else 0)

/-- Formats and flags are legal. -/
def entryFormats (e : Entry) : Bool :=
  e.zeroOk && decide (e.flags < 8) &&
  (if e.raw then !e.quantise
   else if e.quantise then e.src == 0 && (e.dst == 2 || e.dst == 3 || e.dst == 5 || e.dst == 6)
   else decide (e.src ≤ 6) && e.dst == e.src)

/-! ### The Merkle root (R292) -/

/-- One level: pairs hashed, an unpaired node as it is. -/
def merkleLevel : List (List Byte) → List (List Byte)
  | a :: b :: r => sha256 (1 :: a ++ b) :: merkleLevel r
  | l => l

def merkle : Nat → List (List Byte) → List Byte
  | 0, l => l.getD 0 []
  | n + 1, l => if l.length ≤ 1 then l.getD 0 [] else merkle n (merkleLevel l)

/-! ### Where a package writes -/

/-- Both stand within one stack, outside every set region (DEDUCED, log entry 34). -/
def destOk (s : Block) (a n : Nat) : Bool :=
  decide (a + n ≤ 0xC000000000) && decide (a / 0x1000000000 = (a + n - 1) / 0x1000000000) &&
  (List.range 4).all (fun d => !inWs s d a n)

/-- The first byte of an entry's output; none outside its region, or outside the stack (R294, R299); an adapter goes into no set region (R295) (DEDUCED, log entry 34). -/
def target (s : Block) (kind out : Nat) (e : Entry) : Option Nat :=
  if kind = 0 then
    if e.stack < 12 ∧ e.off + outLen e ≤ wsLen s (intakeDesc s) ∧ wsBase s (intakeDesc s) + e.off + outLen e ≤ 0x1000000000 then some (unitBase e.stack + wsBase s (intakeDesc s) + e.off) else none
  else if e.off + outLen e ≤ out ∧ destOk s (rd s Reg.HDB.ADAPTER_DEST) out then some (rd s Reg.HDB.ADAPTER_DEST + e.off) else none

/-- The entry is legal (DEDUCED, log entry 34). -/
def entryOk (s : Block) (kind out last i : Nat) (e : Entry) : Bool :=
  entryFormats e && decide (1 ≤ e.stored) && decide (e.stored ≤ 1048576) && (i == last || e.stored == 1048576) && e.off % 256 == 0 &&
  (target s kind out e).isSome

/-- The enrolled key of a KEY_ID. -/
def keyOf (s : Block) (id : List Byte) : Option (List Byte) := (s.mgmt.pubKeys.find? (fun k => sha256 k.2 == id)).map (fun k => k.2)

/-- Whether the manifest area may lie at a base (DEDUCED, log entry 34). -/
def manBaseOk (s : Block) (a : Nat) : Bool := destOk s a manArea

/-- The first check that the manifest fails, 0 for none. -/
def manifestCode (s : Block) (h m : List Byte) : Nat :=
  let n := manChunks h
  if !manHeaderOk h || manKind h != intakeKind s then 1
  else match keyOf s (manKeyId h) with
    | none => 2
    | some k =>
      let ents := (List.range n).map (fun i => entryOf (slice m (0x100 + 64 * i) 64))
      if !(beNat (k.drop 384) == 65537 && pssVerify (beNat (k.take 384)) (m.take (0x100 + 64 * n)) (slice m (0x100 + 64 * n) 384)) then 3
      else if merkle 21 (ents.map (fun e => e.leaf)) ≠ manRoot h then 4
      else if manKind h = 1 ∧ !destOk s (rd s Reg.HDB.ADAPTER_DEST) (manOut h) then 9
      else if !((ents.zip (List.range n)).all (fun p => entryOk s (manKind h) (manOut h) (n - 1) p.2 p.1)) then 5
      else 0

/-! ### Commands (R294, R300) -/

/-- The sticky bit of a failure code. -/
def failBit (code : Nat) : Option Nat :=
  if 1 ≤ code ∧ code ≤ 5 then some ErrBit.HDB.SIG_FAIL else if code = 6 then some ErrBit.HDB.CHUNK_HASH_FAIL
  else if code = 7 then some ErrBit.HDB.DECODE_FAIL else if code = 8 then some ErrBit.HDB.NONFINITE else if code = 9 then some ErrBit.HDB.RANGE else none

/-- DEDUCED, log entry 34. -/
def failIntake (s : Block) (code : Nat) (chunk : Option Nat) : Block :=
  let s := match chunk with
    | some i => incSat (wr (wr s Reg.HDB.FAIL_CHUNK_INDEX i) Reg.HDB.FAIL_CHUNK_VALID 1) Reg.HDB.CHUNK_FAILS 1
    | none => s
  let s := match failBit code with
    | some b => raisePage s hdbPg b
    | none => s
  endIntake s code

def refuseHdb (s : Block) : Block := raisePage s hdbPg ErrBit.HDB.CMD_REFUSED
def intakeBusy (s : Block) : Bool := intakeState s == 1 || intakeState s == 2 || s.hdb.aborting

/-- A guarded HDB command names its descriptor in CMD.DESC. -/
def hdbCmd (s : Block) (rq : Requester) (d : Nat) (f : Block → Block) : Block := guardedCmd s rq hdbPg (fun t => f (wr t Reg.HDB.CMD_DESC d))

/-- The KIND that OPEN finds in the manifest's header (DEDUCED, log entry 34). -/
def openKind (s : Block) : Nat := manKind (hostRead s (rd s Reg.HDB.MAN_ADDR) 0x100) % 2

def doOpen (s : Block) (d : Nat) : Block :=
  let kind := openKind s
  let held := (List.range 4).any (fun i => i != d && wsState s i != wsEMPTY && wsSet s i == wsSet s d)
  if intakeBusy s || wsState s d != wsEMPTY || (kind == 0 && held) then refuseHdb s
  else
    let s := wr (wr (wr s Reg.HDB.HDB_STATUS_INTAKE 1) Reg.HDB.HDB_STATUS_DESC d) Reg.HDB.HDB_STATUS_KIND kind
    let s := wr (wr (wr s Reg.HDB.HDB_STATUS_FAIL 0) Reg.HDB.HDB_STATUS_FAIL_CODE 0) Reg.HDB.CHUNKS_DONE 0
    let s := wr (wr s Reg.HDB.FAIL_CHUNK_VALID 0) Reg.HDB.FAIL_CHUNK_INDEX 0
    let s := { s with hdb := { s.hdb with next := 0, chunks := 0, aborting := false, copying := false } }
    if kind = 0 then setWs s d wsLOADING else s

def doIntakeOpen (s : Block) (rq : Requester) (d : Nat) : Block := hdbCmd s rq d (fun t => doOpen t d)

/-- Intake pauses while the job is halted, until its teardown, and in a stretch quantum (R301). -/
def intakePaused (s : Block) : Bool := inJob s && ((s.plan.halted && decide (jobState s < 5)) || s.plan.inQuantum)

/-- Bytes for the headbox's region go to their stack: at once outside a job, in HEADBOX slots within one, having crossed in carriage slots (R170, R209)
(DEDUCED, log entry 34). -/
def writeOut (s : Block) (i a : Nat) (d : List Byte) : Block :=
  if mapped s then
    let u := a / 0x1000000000
    setUnit s u { unit s u with headbox := (unit s u).headbox ++ [⟨5, a, d.length, i, false, [], d, d.length⟩] }
  else devWrite s a d

/-- What the manifest's copy carries in place of a chunk's index. -/
def manifestTag : Nat := 2 ^ 32

/-- The manifest is copied and checked: in a job the copy takes HEADBOX slots first, and the checks follow on what was copied. -/
def doManifest (s : Block) : Block :=
  if intakeState s ≠ 1 ∨ s.hdb.aborting ∨ intakePaused s then s
  else
    let src := rd s Reg.HDB.MAN_ADDR
    let base := rd s Reg.HDB.MAN_BASE
    let h := hostRead s src 0x100
    if s.hdb.copying ∧ queuedChunks s ≠ [] then s
    else if !s.hdb.copying ∧ !manBaseOk s base then failIntake s 9 none
    else if !s.hdb.copying ∧ !manHeaderOk h then failIntake s 1 none
    else if !s.hdb.copying ∧ mapped s then
      writeOut { s with hdb := { s.hdb with copying := true } } manifestTag base (hostRead s src (manLen (manChunks h)))
    else
      let h := if s.hdb.copying then devRead s base 0x100 else h
      let m := if s.hdb.copying then devRead s base (manLen (manChunks h)) else hostRead s src (manLen (manChunks h))
      let s := if s.hdb.copying then { s with hdb := { s.hdb with copying := false } } else devWrite s base m
      let code := manifestCode s h m
      if code ≠ 0 then failIntake s code none
      else
        let dig := sha256 (manRoot h ++ manKeyId h)
        let s := if manKind h = 0 then { s with hdb := { s.hdb with keyRoots := Tab.put s.hdb.keyRoots [] (intakeDesc s) dig } } else s
        wr { s with hdb := { s.hdb with next := 0, chunks := manChunks h } } Reg.HDB.HDB_STATUS_INTAKE 2

/-! ### Decoding (R297) -/

/-- Nibbles of bytes, low nibble first. -/
def nibbles : List Byte → List Nat
  | [] => []
  | b :: r => b.toNat % 16 :: b.toNat / 16 :: nibbles r

/-- The smallest b with c ≤ 2^b. -/
def bitsFor (c : Nat) : Nat := if c ≤ 1 then 0 else Nat.log2 (c - 1) + 1

/-- n fields of b bits, least significant first. -/
def fieldsOf (b : Nat) : Nat → Nat → List Nat
  | 0, _ => []
  | n + 1, v => v % 2 ^ b :: fieldsOf b n (v / 2 ^ b)

/-- One plane of k nibbles, and the rest of the stream. -/
def plane (k : Nat) (bs : List Byte) : Option (List Nat × List Byte) :=
  match bs with
  | [] => none
  | m :: r =>
    if m = 0 then
      let n := (k + 1) / 2
      if r.length < n then none else some ((nibbles (r.take n)).take k, r.drop n)
    else if m = 1 then
      match r with
      | [] => none
      | v :: r => some (List.replicate k (v.toNat % 16), r)
    else if m = 2 then
      if r.length < 2 then none
      else
        let mask := leNat (r.take 2)
        let vals := (List.range 16).filter (bit mask)
        let c := vals.length
        let b := bitsFor c
        let n := (k * b + 7) / 8
        let r := r.drop 2
        if c < 2 ∨ r.length < n then none
        else
          let ix := fieldsOf b k (leNat (r.take n))
          if ix.any (fun i => decide (c ≤ i)) then none else some (ix.map (fun i => vals.getD i 0), r.drop n)
    else none

/-- Blocks of 4,096 decoded bytes until k bytes are there; the stream must then end (DEDUCED, log entry 34). -/
def unplane : Nat → Nat → List Byte → Option (List Byte)
  | 0, k, bs => if k = 0 ∧ bs = [] then some [] else none
  | f + 1, k, bs =>
    if k = 0 then (if bs = [] then some [] else none)
    else
      let n := min k 4096
      match plane n bs with
      | none => none
      | some (hi, r) =>
        match plane n r with
        | none => none
        | some (lo, r) =>
          (unplane f (k - n) r).map (fun t => List.zipWith (fun h l => BitVec.ofNat 8 (16 * h + l)) hi lo ++ t)

/-- The decoded bytes of a chunk: exactly those its UNITS call for. -/
def decodeChunk (e : Entry) (stored : List Byte) : Option (List Byte) :=
  let k := decodedLen e
  if e.compressed then unplane (ceilDiv k 4096 + 1) k stored
  else if stored.length = k then some stored else none

/-! ### Re-layout and quantisation (R298) -/

/-- Rows from columns: column j holds elements of n bytes. -/
def relayPlain (n : Nat) (t : Array Byte) : List Byte :=
  (List.range 128).flatMap (fun i => (List.range 128).flatMap (fun j => (List.range n).map (fun b => t.getD ((j * 128 + i) * n + b) 0)))

/-- The rows of an MX tile: w-bit codes by column and element, scale bytes by column and block. -/
def mxRows (w : Nat) (code : Nat → Nat → Nat) (scale : Nat → Nat → Byte) : List Byte :=
  (List.range 128).flatMap (fun i =>
    packCodes w ((List.range 128).flatMap (fun j => [code j (2 * i), code j (2 * i + 1)])) ++
    (List.range 8).map (fun x => scale (8 * (i % 16) + x) (i / 16)))

/-- w bits at a bit position of an array of bytes. -/
def bitsAt (t : Array Byte) (pos w : Nat) : Nat := bits ((t.getD (pos / 8) 0).toNat + 256 * (t.getD (pos / 8 + 1) 0).toNat) (pos % 8) w

/-- An MX tile of the same format. -/
def relayMx (c : Nat) (t : Array Byte) : List Byte :=
  let w := elemBits c
  let col := if c = 5 then 200 else 136
  mxRows w (fun j x => bitsAt t (8 * col * j + w * x) w) (fun j b => t.getD (col * j + col - 8 + b) 0)

/-- A BF16 element times 2^(127 − S) as a code of the target format; none where it is not finite. -/
def quantCode (c : Nat) (w : Nat) (sc : Nat) : Option Nat :=
  let f := fmtOf c
  match unpack fmtBF16 w with
  | .fin neg m e => if sc = 0xFF then none else some (signBit f neg + min f.maxCode (magCode f m (e + 127 - sc) false))
  | _ => none

/-- A BF16 element of an array. -/
def bfAt (t : Array Byte) (pos : Nat) : Nat := (t.getD pos 0).toNat + 256 * (t.getD (pos + 1) 0).toNat

/-- A quantised FP8 tile: its rows and its column scales; none for a non-finite input. -/
def quantFp8 (c : Nat) (t : Array Byte) : Option (List Byte × List Byte) :=
  let q := fun (i j : Nat) => quantCode c (bfAt t (128 + 2 * (128 * j + i))) (t.getD j 0).toNat
  let rows := (List.range 128).flatMap (fun i => (List.range 128).map (fun j => q i j))
  if rows.any (fun x => x.isNone) || (List.range 128).any (fun j => t.getD j 0 == 0xFF) then none
  else some (rows.map (fun x => BitVec.ofNat 8 (x.getD 0)), (List.range 128).map (fun j => t.getD j 0))

/-- A quantised MX tile. -/
def quantMx (c : Nat) (t : Array Byte) : Option (List Byte) :=
  let sc := fun (j b : Nat) => t.getD (8 * j + b) 0
  let q := fun (j x : Nat) => quantCode c (bfAt t (1024 + 2 * (256 * j + x))) (sc j (x / 32)).toNat
  if (List.range 128).any (fun j => (List.range 256).any (fun x => (q j x).isNone) || (List.range 8).any (fun b => sc j b == 0xFF)) then none
  else some (mxRows (elemBits c) (fun j x => (q j x).getD 0) sc)

/-- The tiles of a chunk in turn. -/
def tilesOf (n : Nat) (d : List Byte) : Nat → List (Array Byte)
  | 0 => []
  | k + 1 => (d.take n).toArray :: tilesOf n (d.drop n) k

/-- The bytes a chunk writes; none for a non-finite value it would quantise. -/
def outputOf (e : Entry) (d : List Byte) : Option (List Byte) :=
  if e.raw then some d
  else
    let ts := tilesOf (decodedTile e) d e.units
    if !e.quantise then
      some (ts.flatMap (fun t => if e.src ≤ 4 then relayPlain (elemBits e.src / 8) t else relayMx e.src t))
    else if e.dst = 5 ∨ e.dst = 6 then
      let qs := ts.map (quantMx e.dst)
      if qs.any (fun x => x.isNone) then none else some (qs.flatMap (fun x => x.getD []))
    else
      let qs := ts.map (quantFp8 e.dst)
      if qs.any (fun x => x.isNone) then none
      else some (qs.flatMap (fun x => (x.getD ([], [])).1) ++ qs.flatMap (fun x => (x.getD ([], [])).2))

/-! ### A chunk (R295, R296) -/

def doChunk (s : Block) : Block :=
  let i := s.hdb.next
  if intakeState s ≠ 2 ∨ intakePaused s then s
  else if s.hdb.aborting ∨ s.hdb.chunks ≤ i ∨ rd s Reg.HDB.CHUNKS_AVAIL ≤ i then settleIntake s
  else
    let ea := rd s Reg.HDB.MAN_BASE + 0x100 + 64 * i
    let e := entryOf (devRead s ea 64)
    let out := devNum s (rd s Reg.HDB.MAN_BASE + 0x10) 8
    let stored := hostRead s (rd s Reg.HDB.CHUNK_ADDR + 1048576 * i) e.stored
    if poisoned s ea 64 then failIntake s 10 (some i)
    else if sha256 (0 :: stored) ≠ e.leaf then failIntake s 6 (some i)
    else match decodeChunk e stored with
      | none => failIntake s 7 (some i)
      | some d =>
        match outputOf e d, target s (intakeKind s) out e with
        | none, _ => failIntake s 8 (some i)
        | some _, none => failIntake s 9 (some i)
        | some o, some a => settleIntake (writeOut { s with hdb := { s.hdb with next := i + 1 } } i a o)

/-! ### The other commands (R296, R299, R300) -/

def doChunksAvail (s : Block) (rq : Requester) (v : Nat) : Block := writeWord s rq 0x6058 v (fun _ t => t)

def doAbort (s : Block) (rq : Requester) (d : Nat) : Block :=
  hdbCmd s rq d (fun t =>
    if !intakeBusy t || intakeDesc t != d then refuseHdb t else settleIntake { t with hdb := { t.hdb with aborting := true } })

def doActivate (s : Block) (rq : Requester) (d : Nat) : Block :=
  hdbCmd s rq d (fun t =>
    if inJob t then refuseHdb t
    else if wsState t d = wsVERIFIED ∨ wsState t d = wsSTANDBY then wsActivate t d else t)

/-- The switch that the window in force carries names a set (R300): as the record has it, and from the window's first tick as it was announced (DESIGN CHOICE, log entry 17; DEDUCED, log entry 34). -/
def switchNames (s : Block) (set_ : Nat) : Bool :=
  let w := recSwitch s.plan.held
  inJob s && !s.plan.halted &&
  ((bit w 57 && bits w 48 8 == set_) || (s.plan.windowOpen && announcedSet s (fieldLe s.plan.contribution 4 6 + 1) == some set_))

def releaseRefused (s : Block) (d : Nat) : Bool :=
  let st := wsState s d
  st == wsACTIVE ||
  (st == wsSTANDBY && jobState s == 3 && s.serv.drainSet == some (wsSet s d) && !flag s Reg.SES.SES_STATUS_OTHER_FREE) ||
  (st != wsEMPTY && switchNames s (wsSet s d))

/-- DEDUCED, log entry 34. -/
def doSetRelease (s : Block) (rq : Requester) (d : Nat) : Block :=
  hdbCmd s rq d (fun t =>
    if releaseRefused t d then refuseHdb t
    else if wsState t d = wsVERIFIED ∨ wsState t d = wsSTANDBY ∨ wsState t d = wsFAILED then
      wr (setWs t d wsEMPTY) (Reg.HDB.WS_CTRL_DAMAGED d) 0
    else t)

/-! ### Regions (R294, R300) -/

/-- The bytes of the HBM page pool in a stack: page p lies in stack p mod 12 (R176). -/
def poolSpan (s : Block) (u : Nat) : Nat × Nat := (rd s (Reg.HBM.POOL_OFFSET (hbmPage 0)), 65536 * ((hbmPool s + 11 - u) / 12))

/-- Ranges of a stack meet, what passes its end counting from the next stack's beginning. -/
def meetsWrapped (a n b m : Nat) : Bool :=
  let z := 0x1000000000
  meets a n b m || meets a n (b + z) m || meets (a + z) n b m

/-- A region of each stack meets another region, the manifest area or the pool. -/
def regionClash (s : Block) (d lo len : Nat) : Bool :=
  let mb := rd s Reg.HDB.MAN_BASE % 0x1000000000
  (List.range 4).any (fun i => i != d && meetsWrapped lo len (wsBase s i) (wsLen s i)) || meetsWrapped lo len mb manArea ||
  meetsWrapped lo len (poolSpan s 0).1 (poolSpan s 0).2

def doWsWrite (s : Block) (rq : Requester) (d reg v : Nat) : Block :=
  if !pageResponds s hdbPg || wsState s d != wsEMPTY then s
  else
    let t := writeWord s rq (0x6080 + 16 * d + 4 * reg) v (fun _ u => u)
    if reg ≠ 0 ∧ regionClash t d (wsBase t d) (wsLen t d) then raisePage s hdbPg ErrBit.HDB.RANGE else t

/-- The session table of a serving job (R264): its first byte and its length. -/
def sessionTable (s : Block) : Nat × Nat := (rd s Reg.SES.TABLE_BASE, 64 * rd s Reg.SES.SESSIONS)

/-- Where the manifest area may not lie. -/
def manClash (s : Block) (a : Nat) : Bool :=
  !manBaseOk s a || meets (a % 0x1000000000) manArea (poolSpan s (a / 0x1000000000)).1 (poolSpan s (a / 0x1000000000)).2 || meets a manArea (sessionTable s).1 (sessionTable s).2

def doManBase (s : Block) (rq : Requester) (hi : Bool) (v : Nat) : Block :=
  if !pageResponds s hdbPg || intakeState s != 0 then s
  else
    let t := writeWord s rq (if hi then 0x6074 else 0x6070) v (fun _ u => u)
    if manClash t (rd t Reg.HDB.MAN_BASE) then raisePage s hdbPg ErrBit.HDB.RANGE else t

/-! ### Meanings -/

def execIntakeOpen (rq : Requester) (desc : Fin 4) := run (fun s => doIntakeOpen s rq desc)
def execManifestCheckComplete := run doManifest
def execChunkComplete := run doChunk
def execChunksAvailWrite (rq : Requester) (v : BitVec 32) := run (fun s => doChunksAvail s rq v.toNat)
def execHdbAbort (rq : Requester) (desc : Fin 4) := run (fun s => doAbort s rq desc)
def execHdbActivate (rq : Requester) (desc : Fin 4) := run (fun s => doActivate s rq desc)
def execSetRelease (rq : Requester) (desc : Fin 4) := run (fun s => doSetRelease s rq desc)
def execWsDescriptorWrite (rq : Requester) (desc : Fin 4) (reg : Fin 3) (v : BitVec 32) := run (fun s => doWsWrite s rq desc reg v.toNat)
def execManBaseWrite (rq : Requester) (hi : Bool) (v : BitVec 32) := run (fun s => doManBase s rq hi v.toNat)

end Sys2Proof.Machine
end

