-- ==== Sys2Proof/Machine/Resets.lean ====
section
/-! DEFINITION. Host halts and the resets below the module: engine, mesh engine, core, cluster (R112, R118, R329–R332). -/

namespace Sys2Proof.Machine

/-! ### Domains -/

/-- A reset domain by numbers. -/
inductive Dom where
  | engine (n : Nat)
  | core (c k : Nat)
  | cluster (c : Nat)
deriving DecidableEq, Repr

def domOf : Domain → Dom
  | .engine e => .engine (engNum e)
  | .core c k => .core c k
  | .cluster c => .cluster c

/-- The engines that a domain holds: a cluster's mesh engines stay outside (R118). -/
def Dom.engines : Dom → List Nat
  | .engine n => [n]
  | .core c k => (List.range 8).map (engCore c k)
  | .cluster c => (List.range 48).map (fun i => engCore c (i / 8) (i % 8))

def Dom.scope : Dom → Nat
  | .engine _ => 1
  | .core _ _ => 2
  | .cluster _ => 3
def Dom.eng : Dom → Nat
  | .engine n => n
  | .core c k => engCore c k 0
  | .cluster c => engCore c 0 0
def Dom.cl : Dom → Nat
  | .engine n => engClusterByte n
  | .core c _ => c
  | .cluster c => c
def Dom.co : Dom → Nat
  | .core _ k => k
  | _ => 0
/-- The page whose guarded command asks for the reset. -/
def Dom.page : Dom → Nat
  | .engine n => if n < 768 then corPage (engCluster n) (engCoreOf n) else engPage n
  | .core c k => corPage c k
  | .cluster c => cluPage c

/-- The command bit that stays 1 until the reset completes (R113, R118). -/
def setCtrl (s : Block) (d : Dom) (b : Bool) : Block :=
  match d with
  | .engine n =>
    if n < 768 then
      let f := Reg.COR.RESET_CTRL_ENGINE_RESET (corPage (engCluster n) (engCoreOf n))
      wr s f (setBit (rd s f) (engKind n) b)
    else if engIsMe n then
      let f := Reg.CLU.RESET_CTRL_ME_RESET (cluPage (engCluster n))
      wr s f (setBit (rd s f) (n % 2) b)
    else s
  | .core c k => wr s (Reg.COR.RESET_CTRL_CORE_RESET (corPage c k)) (b2n b)
  | .cluster c => wr s (Reg.CLU.RESET_CTRL_CLUSTER_RESET (cluPage c)) (b2n b)

/-- A reset of the domain, or of one that holds it, is already under way. -/
def resetting (s : Block) (d : Dom) : Bool :=
  match d with
  | .engine n => (eng s n).resetBy != 0
  | .core c k => flag s (Reg.COR.RESET_CTRL_CORE_RESET (corPage c k)) || flag s (Reg.CLU.RESET_CTRL_CLUSTER_RESET (cluPage c))
  | .cluster c => flag s (Reg.CLU.RESET_CTRL_CLUSTER_RESET (cluPage c))

/-! ### Status -/

/-- RESET_STATUS of a domain. -/
def setStatus (s : Block) (d : Dom) (b : Bool) : Block :=
  match d with
  | .engine n =>
    if n < 768 then
      let f := Reg.COR.RESET_STATUS_ENGINES (corPage (engCluster n) (engCoreOf n))
      wr s f (setBit (rd s f) (engKind n) b)
    else if engIsMe n then
      let f := Reg.CLU.RESET_STATUS_ME (cluPage (engCluster n))
      wr s f (setBit (rd s f) (n % 2) b)
    else s
  | .core c k => wr (wr s (Reg.COR.RESET_STATUS_ENGINES (corPage c k)) (if b then 0xFF else 0)) (Reg.COR.RESET_STATUS_CORE (corPage c k)) (b2n b)
  | .cluster c =>
    overN 6 (fun k t => wr (wr t (Reg.COR.RESET_STATUS_ENGINES (corPage c k)) (if b then 0xFF else 0)) (Reg.COR.RESET_STATUS_CORE (corPage c k)) (b2n b))
      (wr s (Reg.CLU.RESET_STATUS_CLUSTER (cluPage c)) (b2n b))

/-! ### The course of a reset (R330, R331) -/

/-- Bytes to be written at an address, as writes of 256 bytes. -/
def lines (a : Nat) (d : List Byte) : List (Nat × List Byte) :=
  (List.range (ceilDiv d.length 256)).map (fun i => (a + 256 * i, (d.drop (256 * i)).take 256))

/-- An abandoned operation leaves some prefix of its writes, which the spec does not fix (DESIGN CHOICE, log entry 7) (DESIGN CHOICE, log entry 27). -/
def partialWrites (s : Block) (x : InFlight) : Block :=
  let go := fun (ws : List (Nat × List Byte)) =>
    applyWrites { s with free := s.free + 1 } (ws.take (Config.freeValue s.free % (ws.length + 1)))
  match x.effect with
  | .writes ws _ => go ws
  | .copy _ dst data => go (lines dst data)
  | .race _ dst data _ => go (lines dst data)
  | .drain _ ws _ => go ws
  | .gather _ _ dst data _ => go (lines dst data)
  | _ => s

/-- DESIGN CHOICE, log entry 7 and DESIGN CHOICE, log entry 27. -/
def abandon (n : Nat) (s : Block) : Block :=
  setEng ((eng s n).inflight.foldl partialWrites s) n { eng ((eng s n).inflight.foldl partialWrites s) n with inflight := [] }

/-- The sample is taken and the reset applied; the engines lie in RESET. -/
def applyReset (s : Block) (d : Dom) (abandoned : Bool) : Block :=
  let by_ := (eng s d.eng).resetBy
  let s := sample s d.scope by_ d.eng d.cl d.co (eng s d.eng).resetAt abandoned
  let s := overL d.engines (fun n t => capture t n abandoned) s
  let s := logEntry s 3 0 (pageId d.page) (d.scope + 256 * by_)
  let s := match d with
    | .engine n => resetEngine n s
    | .core c k => resetCore c k s
    | .cluster c => resetCluster c s
  setStatus (setCtrl s d true) d true

/-- No operation of the domain is in flight. -/
def drained (s : Block) (d : Dom) : Bool := d.engines.all (fun n => (eng s n).inflight.isEmpty)

/-- A core, a cluster or a core engine of a module held forward-only (R204). -/
def heldForward (s : Block) (d : Dom) : Bool :=
  inJob s && flag s Reg.GLB.MODULE_STATE_FWD_ONLY && (match d with
    | .engine n => decide (n < 768)
    | _ => true)

/-- A reset request. Of a selected engine in a running job it is ENGINE_HUNG (R331). -/
def requestReset (s : Block) (d : Dom) (by_ : Nat) : Block :=
  if resetting s d || heldForward s d then s
  else
    let s := overL d.engines (fun n t =>
      if jobState t = 3 ∧ engInJob t n ∧ (n < 768 ∨ selected t n) then faultEng t clsHung n 0 0 else t) s
    let s := overL d.engines (fun n t => setEng t n { eng t n with resetBy := by_, resetAt := now t }) s
    let s := setCtrl s d true
    if drained s d then applyReset s d false else s

/-- Ten microseconds have passed with operations incomplete (R330). -/
def doAbandon (s : Block) (d : Dom) : Block :=
  let e := eng s d.eng
  if resetting s d ∧ e.resetBy ≠ 0 ∧ e.resetAt + 10000 ≤ now s ∧ !drained s d then
    applyReset (overL d.engines abandon s) d true
  else s

/-- A reset of a larger domain that holds this one is under way: its engines leave RESET with it (R330). -/
def inLarger (s : Block) (d : Dom) : Bool :=
  match d with
  | .engine n => decide (n < 768) && (flag s (Reg.COR.RESET_CTRL_CORE_RESET (corPage (engCluster n) (engCoreOf n))) ||
      flag s (Reg.CLU.RESET_CTRL_CLUSTER_RESET (cluPage (engCluster n))))
  | .core c _ => flag s (Reg.CLU.RESET_CTRL_CLUSTER_RESET (cluPage c))
  | .cluster _ => false

/-- The engines of a domain go from RESET to IDLE (R85). -/
def doResetComplete (s : Block) (d : Dom) : Block :=
  if resetting s d && drained s d && !inLarger s d then
    let s := if d.engines.all (fun n => engState s n == 0) then s else applyReset s d false
    let s := overL d.engines (fun n t => setEng (wr t (Reg.ENG.STATE_STATE (engBlock n)) 1) n { eng t n with resetBy := 0 }) s
    setStatus (setCtrl s d false) d false
  else s

/-! ### Requests -/

def doHaltReqCmd (s : Block) (rq : Requester) (n : Nat) : Block := guardedCmd s rq (engPage n) (fun t => doHaltReq t n)

/-- Die-level engines other than mesh engines are reset by management firmware (R329). -/
def doEngineReset (s : Block) (rq : Requester) (n : Nat) : Block :=
  if n < 768 ∨ engIsMe n then guardedCmd s rq (Dom.engine n).page (fun t => requestReset t (.engine n) (rqCode rq))
  else match rq with
    | .host => s
    | .mgt => requestReset s (.engine n) rqMgt

def doCoreReset (s : Block) (rq : Requester) (c k : Nat) : Block :=
  guardedCmd s rq (corPage c k) (fun t => requestReset t (.core c k) (rqCode rq))
def doClusterReset (s : Block) (rq : Requester) (c : Nat) : Block :=
  guardedCmd s rq (cluPage c) (fun t => requestReset t (.cluster c) (rqCode rq))
def doMeReset (s : Block) (rq : Requester) (c i : Nat) : Block :=
  guardedCmd s rq (cluPage c) (fun t => requestReset t (.engine (engME c i)) (rqCode rq))

/-! ### Meanings -/

def execHaltReq (rq : Requester) (e : EngineId) := run (fun s => doHaltReqCmd s rq (engNum e))
def execEngineReset (rq : Requester) (e : EngineId) := run (fun s => doEngineReset s rq (engNum e))
def execCoreReset (rq : Requester) (cl : Fin 16) (k : Fin 6) := run (fun s => doCoreReset s rq cl k)
def execClusterReset (rq : Requester) (cl : Fin 16) := run (fun s => doClusterReset s rq cl)
def execMeReset (rq : Requester) (cl : Fin 16) (i : Fin 2) := run (fun s => doMeReset s rq cl i)
def execResetAbandonTimeout (d : Domain) := run (fun s => doAbandon s (domOf d))
def execResetComplete (d : Domain) := run (fun s => doResetComplete s (domOf d))

end Sys2Proof.Machine
end

