-- ==== Sys2Proof/Machine/Link.lean ====
section
/-! DEFINITION. The link layer of a port: transmitting and receiving flits, sequence, acknowledgement and replay, link down,
training, lanes and width changes (R185, R214–R238, R342). -/

namespace Sys2Proof.Machine

/-! ### Sequence numbers (R221) -/

def seqSub (a b : Nat) : Nat := (a + 4096 - b % 4096) % 4096
/-- a is after b. -/
def seqAfter (a b : Nat) : Bool := decide (1 ≤ seqSub a b) && decide (seqSub a b < 2048)

def linkUp (s : Block) (p : Nat) : Bool := flag s (Reg.LNK.LINK_STATUS_UP (lnkPage p))
def trainState (s : Block) (p : Nat) : Nat := rd s (Reg.LNK.LINK_STATUS_TRAIN_STATE (lnkPage p))
def txWidth (s : Block) (p : Nat) : Nat := rd s (Reg.LNK.LINK_STATUS_TX_WIDTH (lnkPage p))
def rxWidth (s : Block) (p : Nat) : Nat := rd s (Reg.LNK.LINK_STATUS_RX_WIDTH (lnkPage p))
def txMask (s : Block) (p : Nat) : Nat := rd s (Reg.LNK.LINK_STATUS_TX_MASK (lnkPage p))
def rxMask (s : Block) (p : Nat) : Nat := rd s (Reg.LNK.LINK_STATUS_RX_MASK (lnkPage p))
def flightOf (s : Block) (p : Nat) : Nat := rd s (Reg.PRT.FLIGHT_CAL (prtPage p))

/-- The counts that the LNK page shows of the port's tables. -/
def showLink (s : Block) (p : Nat) : Block :=
  let pg := lnkPage p
  let x := prt s p
  let s := wr (wr s (Reg.LNK.REPLAY_OUTSTANDING pg) x.replayBuf.length) (Reg.LNK.REPLAY_QUEUED pg) x.replayQ.length
  let s := wr s (Reg.LNK.REPLAY_HIGH pg) (max (rd s (Reg.LNK.REPLAY_HIGH pg)) x.replayBuf.length)
  let s := wr (wr s (Reg.LNK.RX_SEQ_MISSING pg) x.missing.length) (Reg.LNK.SVC_OUTSTANDING pg) x.outstanding.length
  let s := showXoff s p
  wr s (Reg.LNK.LINK_STATUS_CHANGE_PENDING pg) (b2n (x.txPend.isSome || x.rxPend.isSome || x.reqPend.isSome))

/-! ### Transmitting (R218–R220, R223, R225, R232, R238) -/

/-- What a flit carries apart from the fields written afresh. -/
structure FlitBody where
  type : Nat
  epoch : Bool
  hollow : Bool
  slot : Nat
  vc : Nat
  payload : List Byte
deriving DecidableEq, Repr

def blankBody : FlitBody := ⟨0, false, false, 0, 0, zeros 256⟩

/-- The 128-bit header (R217). -/
def headerOf (b : FlitBody) (seqValid replay : Bool) (seq tag : Nat) : Nat :=
  b.type + 4 * b2n seqValid + 8 * b2n replay + 2 ^ 4 * seq + 2 ^ 41 * b2n b.epoch + 2 ^ 42 * b2n b.hollow + 2 ^ 44 * (b.slot % 4096) +
  2 ^ 56 * tag + 2 ^ 72 * b.vc + 2 ^ 120

/-- A stamp whose fraction lies below the model's tick and is free: that of an arrival, and of a departure at five lanes or fewer (R219,
DESIGN CHOICE, log entry 7). -/
def stampNow (s : Block) : Block × Nat := ({ s with free := s.free + 1 }, now s % 2 ^ 26 * 64 + Config.freeValue s.free % 64)
/-- A departure stamp, whose fraction the wire position fixes (R193, R219). -/
def departStamp (s : Block) (p pos : Nat) : Block × Nat :=
  if txWidth s p < 6 then stampNow s else (s, now s % 2 ^ 26 * 64 + positionFrac (txWidth s p) pos)

/-- The timing word of an index. -/
def timingWord (s : Block) (p i dep : Nat) : Nat :=
  if i = 0 then dep
  else if i = 1 then (prt s p).arrStamp
  else if i = 2 then rd s Reg.TBS.STATE_DEPTH + 128 * lockState s + 1024 * b2n (isRoot s) + 2048 * myRoot s
  else selfCoord s + 2 ^ 18 * p

/-- The timing fields of the next flit: a stamped flit opens the exchange of each 1,024 pt, three more carry its words. -/
def timingFields (s : Block) (p pos : Nat) : Block × Nat :=
  let x := prt s p
  if x.stampPeriod ≠ now s / 1024 + 1 then
    let r := departStamp s p pos
    (setPort r.1 p { x with stampPeriod := now s / 1024 + 1, txWord := 1 }, 2 ^ 84 + 2 ^ 88 * r.2)
  else if 1 ≤ x.txWord ∧ x.txWord ≤ 3 then
    (setPort s p { x with txWord := x.txWord + 1 }, 2 ^ 85 * x.txWord + 2 ^ 88 * timingWord s p x.txWord 0)
  else (s, 0)

/-- The NAK of the next flit: the first number that waits to be asked for. -/
def nakFields (s : Block) (p : Nat) : Block × Nat :=
  let x := prt s p
  match x.nakQ with
  | [] => (s, 0)
  | q :: r =>
    let s := setPort s p { x with nakQ := r, missing := x.missing.map (fun m => if m.1 = q then (q, now s, m.2.2 + 1) else m) }
    (telAdd (incSat s (Reg.LNK.NAKS_SENT (lnkPage p)) 1) p 9 1, 2 ^ 28 * q + 2 ^ 40)

/-- A flit leaves in a wire position: every field of R218 afresh, the CRC over the header as sent. -/
def sendFlit (s : Block) (p pos hdr : Nat) (payload : List Byte) : Block :=
  let pg := lnkPage p
  let n := nakFields (showXoff s p) p
  let t := timingFields n.1 p pos
  let s := t.1
  let h := hdr + 2 ^ 16 * rd s (Reg.LNK.RX_SEQ_ACK_SENT pg) + n.2 + 2 ^ 76 * rd s (Reg.LNK.XOFF_STATE_LOCAL pg) + t.2
  let body := natLe 16 h ++ slice payload 0 256
  let s := setPort s p { prt s p with txLast := body ++ natLe 8 (crc64 body) }
  showLink (telAdd s p (bits h 0 2) 1) p

def jobTag (s : Block) (p : Nat) : Nat := rd s (Reg.PRT.JOB_TAG_TAG (prtPage p))

/-- A blank without a number. -/
def sendBlank (s : Block) (p pos : Nat) : Block := sendFlit s p pos (headerOf blankBody false false 0 (jobTag s p)) (zeros 256)

/-- A queued replay, or a blank. -/
def sendReplay (s : Block) (p pos : Nat) : Block :=
  let x := prt s p
  match x.replayQ with
  | [] => sendBlank s p pos
  | q :: r =>
    let s := setPort s p { x with replayQ := r }
    match x.replayBuf.find? (fun e => e.1 == q) with
    | none => sendBlank s p pos
    | some (_, d) =>
      let s := telAdd (incSat s (Reg.LNK.REPLAYS_SENT (lnkPage p)) 1) p 8 1
      sendFlit s p pos (leNat (d.take 16) + 8) (d.drop 16)

/-- A new flit with the next number, kept for replay. -/
def sendNew (s : Block) (p pos : Nat) (b : FlitBody) : Block :=
  let pg := lnkPage p
  let q := rd s (Reg.LNK.TX_SEQ_NEXT pg)
  let h := headerOf b true false q (jobTag s p)
  let s := setPort s p { prt s p with replayBuf := (prt s p).replayBuf ++ [(q, natLe 16 h ++ slice b.payload 0 256)] }
  sendFlit (incMod s (Reg.LNK.TX_SEQ_NEXT pg) 1) p pos h b.payload

/-- The port is in a deckle slot of its job. -/
def inDeckleSlot (s : Block) : Bool := slotsRun s && !s.plan.halted && isDeckleSlot s (slotNow s)

/-- An IDLE action names the present slot of the port. -/
def idleHere (s : Block) (p : Nat) : Bool := (List.range 12).any (fun n => (txOp s (engPE n) opIDLE ((p + 12 - n) % 12)).isSome)

/-- Service flits may use the position (R238); a halted job sends no scheduled payload and its ports carry service traffic (R199). -/
def serviceHere (s : Block) (p : Nat) : Bool :=
  !flag s (Reg.PRT.PORT_STATUS_IN_JOB (prtPage p)) || flag s (Reg.PRT.PORT_STATUS_FENCED (prtPage p)) || decide (portWidth s p ≤ 5) ||
  s.plan.inQuantum || s.plan.halted || idleHere s p

/-- VCs in the order of R232, from the round-robin positions on. -/
def vcOrder (x : PortSt) : List Nat :=
  [7, 3] ++ (List.range 3).map (fun i => 4 + (x.rrRsp + i) % 3) ++ (List.range 3).map (fun i => (x.rrReq + i) % 3)

/-- A VC has a flit that may leave now: not turned off, let through a fence, and with room in the outstanding table. -/
def vcReady (s : Block) (p v : Nat) : Bool :=
  let x := prt s p
  match Tab.get x.txVc [] v with
  | [] => false
  | f :: _ =>
    !bit (rd s (Reg.LNK.XOFF_STATE_REMOTE (lnkPage p))) v &&
    (!flag s (Reg.PRT.PORT_STATUS_FENCED (prtPage p)) || v == 3 || v == 7) &&
    !(f.first && decide (v < 4) && decide (512 ≤ x.outstanding.length))

/-- The service flit that leaves next; a request is recorded in the outstanding table (R234). -/
def popService (s : Block) (p : Nat) : Option (Block × FlitBody) :=
  let x := prt s p
  match (vcOrder x).find? (vcReady s p) with
  | none => none
  | some v =>
    match Tab.get x.txVc [] v with
    | [] => none
    | f :: r =>
      let out := if f.first ∧ v < 4 then x.outstanding ++ [⟨hToken f.payload, f.input, now s, slice f.payload 0 48⟩] else x.outstanding
      let x := { x with
        txVc := Tab.put x.txVc [] v r, outstanding := out,
        rrReq := if v < 3 then (v + 1) % 3 else x.rrReq, rrRsp := if 4 ≤ v ∧ v < 7 then (v - 3) % 3 else x.rrRsp }
      some (setPort s p x, ⟨2, false, false, 0, v, f.payload⟩)

/-- What a slot position carries. -/
def nextBody (s : Block) (p : Nat) : Block × FlitBody :=
  let x := prt s p
  let epoch := activeBank s (engPE p) == 1
  if inDeckleSlot s then
    match x.deckleQ with
    | d :: r => (setPort s p { x with deckleQ := r }, ⟨3, epoch, false, jobSlot s, 0, d⟩)
    | [] => (s, blankBody)
  else match x.txSlot with
    | some (d, m) => (setPort s p { x with txSlot := none }, ⟨1, bits m 1 1 == 1, bit m 0, m / 4, 0, d⟩)
    | none =>
      if serviceHere s p then
        match popService s p with
        | some r => r
        | none => (s, blankBody)
      else (s, blankBody)

/-- The wire position begins in the present tick (R193) (DEDUCED, log entry 31). -/
def positionNow (s : Block) (p pos : Nat) : Bool :=
  let w := txWidth s p
  let f := (prt s p).frameStart
  decide (w < 6) || (decide (pos < framePositions w) && decide (f ≤ now s) && (now s - f) % frameLen w == positionTick w pos)

/-- One wire position. At five lanes or fewer a queued replay goes first; above, it waits for a replay position (R193, R223). -/
def doTransmit (s : Block) (p pos : Nat) : Block :=
  if !linkUp s p || !positionNow s p pos then s
  else
    let wide := decide (6 ≤ txWidth s p)
    if (wide && (positionSlot (txWidth s p) pos).isNone) || (!wide && !(prt s p).replayQ.isEmpty) then sendReplay s p pos
    else if 768 ≤ (prt s p).replayBuf.length then
      let s := raisePage (setPort s p { prt s p with txSlot := none }) (lnkPage p) ErrBit.LNK.REPLAY_FULL
      sendBlank s p pos
    else
      let r := nextBody s p
      sendNew r.1 p pos r.2

/-! ### Receiving (R216, R221–R225) -/

/-- A number is asked for: lowest first. One beyond the 768 after the ACK now sent cannot have been assigned (R221, R222). -/
def askFor (s : Block) (p q : Nat) : Block :=
  let x := prt s p
  if x.missing.any (fun m => m.1 == q) || decide (768 < seqSub q (rd s (Reg.LNK.RX_SEQ_ACK_SENT (lnkPage p)))) then s
  else
    let before := x.nakQ.filter (fun n => !seqAfter n q)
    setPort s p { x with missing := x.missing ++ [(q, now s, 0)], nakQ := before ++ q :: x.nakQ.filter (fun n => seqAfter n q) }

/-- Every number from a to b, b excluded, is asked for (DEDUCED, log entry 31). -/
def askRange (s : Block) (p a b : Nat) : Block := overN (seqSub b a) (fun i t => askFor t p ((a + i) % 4096)) s

/-- The flit of a position is lost: a slot position asks again for its predicted number. -/
def discardFlit (s : Block) (p : Nat) (slotPos : Bool) : Block :=
  let s := incSat s (Reg.LNK.CRC_ERRORS (lnkPage p)) 1
  if slotPos ∧ 6 ≤ rxWidth s p then
    let q := (prt s p).predicted
    let s := askFor s p q
    showLink (setPort s p { prt s p with predicted := (q + 1) % 4096 }) p
  else s

/-- ACK = h (R221). -/
def applyAck (s : Block) (p h : Nat) : Block :=
  let pg := lnkPage p
  let a := rd s (Reg.LNK.TX_SEQ_ACKED pg)
  let newest := (rd s (Reg.LNK.TX_SEQ_NEXT pg) + 4095) % 4096
  if seqSub newest a < seqSub h a then raisePage s pg ErrBit.LNK.ACK_RANGE
  else
    let live_ := fun (q : Nat) => decide (seqSub h a < seqSub q a)
    let x := prt s p
    wr (setPort s p { x with replayBuf := x.replayBuf.filter (fun e => live_ e.1), replayQ := x.replayQ.filter live_ }) (Reg.LNK.TX_SEQ_ACKED pg) h

/-- NAK = q (R223). -/
def applyNak (s : Block) (p q : Nat) : Block :=
  let x := prt s p
  if x.replayBuf.any (fun e => e.1 == q) ∧ !x.replayQ.contains q then setPort s p { x with replayQ := x.replayQ ++ [q] } else s

/-- A service flit enters its buffer, or is lost to a full one. -/
def enterVc (s : Block) (p v : Nat) (d : List Byte) : Block :=
  let x := prt s p
  let l := Tab.get x.rxVc [] v
  if 256 ≤ l.length then raisePage s (lnkPage p) ErrBit.LNK.SVC_OVERFLOW
  else telHigh (setPort s p { x with rxVc := Tab.put x.rxVc [] v (l ++ [d]) }) p (12 + v) (l.length + 1)

/-- A waiting flit among others in sequence order. -/
def insSeq (w : Nat × Nat × List Byte) : List (Nat × Nat × List Byte) → List (Nat × Nat × List Byte)
  | [] => [w]
  | x :: r => if seqAfter x.1 w.1 then w :: x :: r else x :: insSeq w r

/-- Service flits whose predecessors have all arrived pass to their VC in order. -/
def releaseService (s : Block) (p h : Nat) : Block :=
  let x := prt s p
  let go := x.svcWait.filter (fun w => !seqAfter w.1 h)
  (go.foldl (fun l w => insSeq w l) []).foldl (fun t w => enterVc t p w.2.1 w.2.2) (setPort s p { x with svcWait := x.svcWait.filter (fun w => seqAfter w.1 h) })

/-- The cumulative acknowledgement moves over the numbers marked. -/
def advanceAck (p : Nat) : Nat → Block → Block
  | 0, s => s
  | n + 1, s =>
    let pg := lnkPage p
    let h := (rd s (Reg.LNK.RX_SEQ_ACK_SENT pg) + 1) % 4096
    if (prt s p).got.contains h then
      advanceAck p n (wr (setPort s p { prt s p with got := (prt s p).got.erase h }) (Reg.LNK.RX_SEQ_ACK_SENT pg) h)
    else s

/-- A service flit's fence: the management class passes (R203). -/
def svcFenced (s : Block) (p v tag : Nat) : Bool := v != 3 && v != 7 && (fenceDrops s p tag || flag s Reg.GLB.MODULE_STATE_MINIMAL)

/-- Which flit of its line multicast a deckle flit is: flits of a line are told apart by their slots, each hop's in turn (R36). A stream
flit has come from where rank 0's coordinate stands on the axis, another flit after those of its half in earlier slots (DESIGN CHOICE, log
entry 6) (DESIGN CHOICE, log entry 6). -/
def hopsOf (s : Block) (p h : Nat) (d : List Byte) : Nat :=
  let echo := fun (js : Nat) => decide (s.plan.sheetStart + deckleLen s / 2 ≤ 2 * js)
  let js := slotOfHeader s (bits h 44 12)
  let stream := fun (x : List Byte) (j : Nat) => !echo j && isStream s x
  if stream d js then
    let a := p / 4
    let r := max 1 (ringOf s a)
    let me := axisOf (selfCoord s) a
    let z := axisOf (rankCoord s (activeTable s) 0) a
    if 2 ≤ p % 4 then (me + r - z) % r else (z + r - me) % r
  else 1 + ((prt s p).couch.filter (fun e =>
    bits e.2.header 0 2 == 3 && decide (e.2.slot < js) && echo e.2.slot == echo js && !stream e.2.payload e.2.slot)).length

/-- The flit is passed on by its type (R224). -/
def passOn (s : Block) (p h seq retx : Nat) (d : List Byte) : Block :=
  let t := bits h 0 2
  if t = 1 then scheduledArrival s p h retx d
  else if t = 3 then
    deckleArrival s p h (hopsOf s p h d) d
  else if t = 2 then
    let v := bits h 72 3
    if svcFenced s p v (bits h 56 16) then fenceDrop s p
    else setPort s p { prt s p with svcWait := (prt s p).svcWait ++ [(seq, v, d)] }
  else s

/-- The sequence number of an intact flit. -/
def takeSeq (s : Block) (p h : Nat) (slotPos : Bool) (d : List Byte) : Block :=
  let pg := lnkPage p
  let q := bits h 4 12
  let replay := bit h 3
  let dist := seqSub q (rd s (Reg.LNK.RX_SEQ_ACK_SENT pg))
  let wide := decide (6 ≤ rxWidth s p)
  let s :=
    if (wide && slotPos) || (!wide && !replay) then
      let pr := (prt s p).predicted
      -- numbers predicted at or after q were never assigned; those before it are missing
      let s := if seqAfter q pr then askRange s p pr q else s
      let x := prt s p
      let gone := fun (n : Nat) => n == q || seqAfter n q
      setPort s p { x with predicted := (q + 1) % 4096, missing := x.missing.filter (fun m => !gone m.1), nakQ := x.nakQ.filter (fun n => !gone n) }
    else s
  if dist = 0 ∨ 768 < dist ∨ (prt s p).got.contains q then incSat s (Reg.LNK.DUPLICATES pg) 1
  else
    let x := prt s p
    let naks := ((x.missing.find? (fun m => m.1 == q)).map (fun m => m.2.2)).getD 0
    let s := setPort s p { x with
      got := q :: x.got, missing := x.missing.filter (fun m => m.1 != q), nakQ := x.nakQ.filter (fun n => n != q) }
    let s := passOn s p h q (if replay then max 1 naks else 0) d
    let s := advanceAck p 768 s
    releaseService s p (rd s (Reg.LNK.RX_SEQ_ACK_SENT pg))

/-- An intact flit. -/
def intact (s : Block) (p h : Nat) (slotPos : Bool) (d : List Byte) : Block :=
  let pg := lnkPage p
  let s := telAdd (setPort s p { prt s p with lastGood := now s }) p (4 + bits h 0 2) 1
  let s := applyAck s p (bits h 16 12)
  let s := if bit h 40 then applyNak s p (bits h 28 12) else s
  let s := noteTag (wr s (Reg.LNK.XOFF_STATE_REMOTE pg) (bits h 76 8)) p (bits h 56 16)
  let s := if bit h 84 then (let r := stampNow s; setPort r.1 p { prt r.1 p with arrStamp := r.2 }) else s
  showLink (if bit h 2 then takeSeq s p h slotPos d else s) p

def doFlitReceive (s : Block) (p : Nat) (slotPos : Bool) (f : WireFlit) : Block :=
  if !linkUp s p then s
  else match f with
    | .uncorrectable => discardFlit s p slotPos
    | .bytes b =>
      let h := leNat (b.take 16)
      if crc64 (b.take 272) ≠ fieldLe b 272 8 then discardFlit s p slotPos
      else if bits h 120 4 ≠ 1 then discardFlit (raisePage s (lnkPage p) ErrBit.LNK.HDR_VERSION) p slotPos
      else intact s p h slotPos (slice b 16 256)

/-- A number still missing one retry cycle after its last NAK (R222). -/
def doNakRepeat (s : Block) (p q : Nat) : Block :=
  let x := prt s p
  match x.missing.find? (fun m => m.1 == q) with
  | none => s
  | some m =>
    if linkUp s p ∧ !x.nakQ.contains q ∧ m.2.1 + retryCycle (flightOf s p) (rxWidth s p) ≤ now s then
      let before := x.nakQ.filter (fun n => !seqAfter n q)
      setPort s p { x with nakQ := before ++ q :: x.nakQ.filter (fun n => seqAfter n q) }
    else s

/-! ### Link down (R226, R234) -/

/-- An outstanding entry completes with LINK_LOST. -/
def loseEntry (e : OutEntry) (s : Block) : Block := respond s e.input e.header stLINKLOST []

def loseAll (s : Block) (p : Nat) : Block :=
  let l := (prt s p).outstanding
  let pg := lnkPage p
  let s := setPort s p { prt s p with outstanding := [] }
  let s := overL l loseEntry s
  if l.isEmpty then s else raisePage (incSat s (Reg.LNK.LINK_LOST_COUNT pg) l.length) pg ErrBit.LNK.LINK_LOST_ISSUED

/-- The port no longer carries flits; its link goes to a training state (DEDUCED, log entry 31). -/
def leaveActive (s : Block) (p st : Nat) : Block :=
  let pg := lnkPage p
  let s := wr (wr s (Reg.LNK.LINK_STATUS_UP pg) 0) (Reg.LNK.LINK_STATUS_TRAIN_STATE pg) st
  let s := wr (wr s (Reg.LNK.LINK_STATUS_TX_WIDTH pg) 0) (Reg.LNK.LINK_STATUS_RX_WIDTH pg) 0
  let s := wr (wr s (Reg.LNK.LINK_STATUS_TX_MASK pg) 0) (Reg.LNK.LINK_STATUS_RX_MASK pg) 0
  let s := wr (wr (wr s (Reg.LNK.LANE_STATE pg) 0) (Reg.LNK.XOFF_STATE_REMOTE pg) 0) (Reg.LNK.LANE_CMD_RETRAIN_LANE pg) 0
  let s := wr (wr s (Reg.PRT.PORT_STATUS_TRAINED (prtPage p)) 0) (Reg.PRT.PORT_STATUS_WIDTH (prtPage p)) 0
  let x := prt s p
  let s := setPort s p { x with
    replayBuf := [], replayQ := [], got := [], missing := [], nakQ := [], svcWait := [], txPend := none, rxPend := none, reqPend := none,
    txVc := x.txVc.filter (fun q => q.1 < 4), trainSince := now s, arrStamp := 0xFFFFFFFF, txWord := 4, stampPeriod := 0 }
  showLink (updateMargin (loseAll s p) p) p

/-- What a link that has left ACTIVE is to the timebase: the upstream lost (R67), or no neighbour there any more (R60, R79) (DEDUCED, log entry 30). -/
def timebaseWithout (s : Block) (p : Nat) : Block := if upstream s = p then doUpstreamLost s else refreshTbs s

/-- The link is declared down (R226). -/
def linkDown (s : Block) (p : Nat) : Block :=
  if !linkUp s p then s
  else
    let pg := lnkPage p
    let s := leaveActive s p (if flag s (Reg.LNK.CTRL_AUTO_RETRAIN pg) then 1 else 0)
    let s := wr (incSat s (Reg.LNK.DOWN_COUNT pg) 1) (Reg.LNK.LAST_DOWN pg) (now s)
    timebaseWithout (linkEvent (raisePage s pg ErrBit.LNK.LINK_DOWN) p 9) p

def doDownTimeout (s : Block) (p : Nat) : Block :=
  if linkUp s p ∧ (prt s p).lastGood + 1000 * rd s (Reg.LNK.DOWN_TIMEOUT (lnkPage p)) ≤ now s then linkDown s p else s

def doRetrainLink (s : Block) (rq : Requester) (p : Nat) : Block := guardedCmd s rq (lnkPage p) (fun t => linkDown t p)

/-! ### Lane messages (R230) -/

/-- n bits of a CRC-8, bit 31 of the message first (DEDUCED, log entry 31). -/
def crc8 (m : Nat) : Nat := (List.range 32).foldl (fun c i =>
  let fb := xor (c / 128 % 2) (m / 2 ^ (31 - i) % 2)
  xor (2 * c % 256) (if fb = 1 then 7 else 0)) 0

def laneMsg (op mask seq : Nat) : Nat :=
  let m := op + 16 * mask + 4096 * (seq % 4096)
  m + 2 ^ 32 * crc8 m

/-- A lane message leaves on every locked lane. -/
def sendLane (s : Block) (p op mask seq : Nat) : Block := setPort s p { prt s p with laneTx := (prt s p).laneTx ++ [laneMsg op mask seq] }

/-- The first copy of a received lane message whose CRC-8 checks, if it carries the code; other codes are ignored (DEDUCED, log entry 31). -/
def goodCopy (copies : List (BitVec 40)) (op : Nat) : Option (BitVec 40) :=
  match copies.find? (fun c => crc8 (c.toNat % 2 ^ 32) == c.toNat / 2 ^ 32) with
  | some c => if c.toNat % 16 = op then some c else none
  | none => none
/-- The effect of a message with that code; with no such copy nothing happens (DEDUCED, log entry 31). -/
def onMessage (copies : List (BitVec 40)) (op : Nat) (k : Nat → Nat → Block → Block) (s : Block) : Block :=
  match goodCopy copies op with
  | some c => k (bits c.toNat 4 8) (bits c.toNat 12 12) s
  | none => s

def opDROP : Nat := 1
def opADD : Nat := 2
def opCHANGE : Nat := 3
def opCHANGEACK : Nat := 4
def opLINKOFF : Nat := 6

/-! ### Training (R185, R227) -/

def enterState (s : Block) (p st : Nat) : Block :=
  wr (setPort s p { prt s p with trainSince := now s }) (Reg.LNK.LINK_STATUS_TRAIN_STATE (lnkPage p)) st

/-- The supply of a port's cable, CBL_3V3, is on while ENABLE is 1 (R433). -/
def cableSupply (s : Block) (p : Nat) : Bool := flag s (Reg.LNK.CTRL_ENABLE (lnkPage p))

/-- ENABLE follows a write: 0 takes the link to DISABLED from any state, telling the peer; 1 lets it leave DISABLED. -/
def enableEffect (p : Nat) (s : Block) : Block :=
  if !flag s (Reg.LNK.CTRL_ENABLE (lnkPage p)) then
    (if linkUp s p then
      timebaseWithout (leaveActive (sendLane s p opLINKOFF 0 0) p 0) p
     else if trainState s p = 0 then s else enterState s p 0)
  else if trainState s p = 0 ∧ !flag s Reg.PCI.PCI_STATUS_MODULE_RESET then enterState s p 1
  else s

/-- DEDUCED, log entry 31. -/
def doEnableWrite (s : Block) (rq : Requester) (p v : Nat) : Block :=
  writeWord s rq (lnkPage p + 0x48) v (fun ok t => if ok then enableEffect p t else t)

def doSignal (s : Block) (p : Nat) : Block := if trainState s p = 1 then enterState s p 2 else s

def doEqualise (s : Block) (p tx rx : Nat) : Block :=
  if trainState s p = 2 then enterState (setPort s p { prt s p with eqTx := tx, eqRx := rx }) p 3 else s

/-- Codeword lock on the equalised lanes: those not locked stay out of the link. -/
def doAlign (s : Block) (p locked : Nat) : Block :=
  let m := (prt s p).eqRx &&& locked
  if trainState s p = 3 ∧ m ≠ 0 then enterState (setPort s p { prt s p with eqRx := m }) p 4 else s

/-- The neighbour that R185 names for a port: its coordinate and its port. -/
def expectedNeighbour (s : Block) (p : Nat) : Nat × Nat :=
  (stepCoord s (selfCoord s) (p / 4) (decide (p % 4 < 2)), p / 4 * 4 + (p % 4 + 2) % 4)

/-- The widths of a port follow its masks. -/
def showWidths (s : Block) (p : Nat) : Block :=
  let pg := lnkPage p
  let t := popcount 8 (txMask s p)
  let r := popcount 8 (rxMask s p)
  let s := wr (wr s (Reg.LNK.LINK_STATUS_TX_WIDTH pg) t) (Reg.LNK.LINK_STATUS_RX_WIDTH pg) r
  updateMargin (wr s (Reg.PRT.PORT_STATUS_WIDTH (prtPage p)) (min t r)) p

def slotTick (s : Block) : Nat := (now s + 1) / 2 * 2

/-- MISCABLED of a trained port: its neighbour is not the one R185 names. It is judged as the link trains and as COORD is written. -/
def judgeCabling (p : Nat) (s : Block) : Block :=
  let pt := prtPage p
  let c := coordOf (rd s (Reg.PRT.NEIGHBOUR_X pt)) (rd s (Reg.PRT.NEIGHBOUR_Y pt)) (rd s (Reg.PRT.NEIGHBOUR_Z pt))
  let wrong := flag s Reg.GLB.COORD_LO_VALID && (c, rd s (Reg.PRT.NEIGHBOUR_PORT pt)) != expectedNeighbour s p
  if linkUp s p then when wrong (fun t => raisePage t pt ErrBit.PRT.MISCABLED) (wr s (Reg.PRT.PORT_STATUS_MISCABLED pt) (b2n wrong)) else s

/-- The link becomes ACTIVE with the lanes that equalised and locked at both ends, as the identities say. -/
def activate (s : Block) (p x y z pp peerTx peerRx : Nat) : Block :=
  let pg := lnkPage p
  let pt := prtPage p
  let st := prt s p
  let s := wr (wr (enterState s p 5) (Reg.LNK.LINK_STATUS_UP pg) 1) (Reg.PRT.PORT_STATUS_TRAINED pt) 1
  let s := wr (wr s (Reg.LNK.LINK_STATUS_TX_MASK pg) (st.eqTx &&& peerRx)) (Reg.LNK.LINK_STATUS_RX_MASK pg) (st.eqRx &&& peerTx)
  let s := wr s (Reg.LNK.LANE_STATE pg) ((List.range 8).foldl (fun v l => v + b2n (bit (st.eqRx &&& peerTx) l) * 4 ^ l) 0)
  let s := wr (wr (wr s (Reg.LNK.TX_SEQ_NEXT pg) 0) (Reg.LNK.TX_SEQ_ACKED pg) 0xFFF) (Reg.LNK.RX_SEQ_ACK_SENT pg) 0xFFF
  let s := wr (wr (wr s (Reg.PRT.NEIGHBOUR_X pt) x) (Reg.PRT.NEIGHBOUR_Y pt) y) (Reg.PRT.NEIGHBOUR_Z pt) z
  let s := wr (wr s (Reg.PRT.NEIGHBOUR_PORT pt) pp) (Reg.PRT.NEIGHBOUR_VALID pt) 1
  let s := setPort s p { prt s p with
    predicted := 0, got := [], missing := [], nakQ := [], replayBuf := [], replayQ := [], svcWait := [], lastGood := now s,
    arrStamp := 0xFFFFFFFF, txWord := 4, stampPeriod := 0, frameStart := slotTick s, offsets := [], delays := [],
    peerLock := 0, peerDepth := 0x7F, peerRoot := false, peerRootId := 0 }
  refreshTbs (showLink (showWidths (judgeCabling p s) p) p)

/-- The peer's identity: coordinates, ring sizes, port number, lane masks, header version. The link opens at a width from 1 to 8 each way.
The ring sizes are kept: no rule acts on a neighbour's. -/
def doIdentify (s : Block) (p x y z rx ry rz pp peerTx peerRx version : Nat) : Block :=
  if trainState s p = 4 ∧ version = 1 ∧ (prt s p).eqTx &&& peerRx ≠ 0 ∧ (prt s p).eqRx &&& peerTx ≠ 0 then
    activate (setPort s p { prt s p with peerRings := [rx, ry, rz] }) p x y z pp peerTx peerRx
  else s

/-- The limit of a training state, in ticks. -/
def trainLimit (st : Nat) : Option Nat := if st = 2 then some 20000000 else if st = 3 then some 2000000 else if st = 4 then some 1000000 else none

def doTrainTimeout (s : Block) (p : Nat) : Block :=
  match trainLimit (trainState s p) with
  | none => s
  | some l =>
    if (prt s p).trainSince + l ≤ now s then
      raisePage (incSat (enterState s p 1) (Reg.LNK.TRAIN_FAILS (lnkPage p)) 1) (lnkPage p) ErrBit.LNK.TRAIN_FAIL
    else s

/-! ### Width changes (R228–R231) -/

/-- Lanes of a mask in rising order. -/
def lanesOf (m : Nat) : List Nat := (List.range 8).filter (bit m)

/-- The mask without lost lanes, and without degraded ones, one at a time while more than six work (DEDUCED, log entry 31). -/
def dropWanted (s : Block) (p : Nat) : Nat :=
  let kept := (lanesOf (rxMask s p)).foldl (fun m l => if laneCode s p l = 0 then setBit m l false else m) (rxMask s p)
  (lanesOf kept).foldl (fun m l => if laneCode s p l = 2 ∧ 6 < popcount 8 m then setBit m l false else m) kept

/-- The mask with the lanes that are ready. -/
def addReady (s : Block) (p : Nat) : Nat := (List.range 8).foldl (fun m l => if laneCode s p l = 3 then setBit m l true else m) (rxMask s p)

/-- The mask a request asks for now. -/
def wantedMask (s : Block) (p op : Nat) : Nat := if op = opDROP then dropWanted s p else addReady s p

/-- The receiver asks for a mask, where another than the present one is wanted; while a change it has committed to waits for its switch
point the sender lets the request pass, and the repetition brings it again (DEDUCED, log entry 31). -/
def askMask (s : Block) (p op : Nat) : Block :=
  let mask := wantedMask s p op
  if mask = 0 ∨ mask = rxMask s p then s
  else showLink (sendLane (setPort s p { prt s p with reqPend := some (op, mask, now s) }) p op mask 0) p

/-- A lane's counts of the closed window. -/
def publishLane (p l sym sb : Nat) (s : Block) : Block :=
  wr (wr s (Reg.LNK.FEC_CORR (lnkPage p) l) (min sym (2 ^ 32 - 1))) (Reg.LNK.SB_ERRORS (lnkPage p) l) (min sb 65535)

/-- The judgement of one lane at the end of a window (DEDUCED, log entry 31). -/
def judgeLane (p l sym sb : Nat) (held : Bool) (s : Block) : Block :=
  let pg := lnkPage p
  let bad := decide (rd s (Reg.LNK.DEGRADE_SYM_LIMIT pg) ≤ sym) || decide (rd s (Reg.LNK.DEGRADE_SB_LIMIT pg) ≤ sb)
  if bit (rxMask s p) l then
    (if bad ∧ laneCode s p l = 1 then linkEvent (raisePage (setLane s p l 2) pg ErrBit.LNK.LANE_DEGRADED) p 12 else s)
  else if held ∧ !bad then
    let f := Reg.LNK.LANE_CMD_RETRAIN_LANE pg
    wr (setLane s p l 3) f (setBit (rd s f) l false)
  else setLane s p l 0

/-- The end of a window of plan time: the counts are published, whether or not the link is still up, and the lanes of a link judged. -/
def doDegradeWindow (s : Block) (p : Nat) (sym sb : List Nat) (uncorr held : Nat) : Block :=
  let pg := lnkPage p
  if now s % 2 ^ 20 ≠ 0 then s
  else
    let s := incSat (wr s (Reg.LNK.FEC_UNCORR pg) (min uncorr (2 ^ 32 - 1))) (Reg.LNK.FEC_UNCORR_TOTAL pg) uncorr
    let s := overN 8 (fun l t => publishLane p l (sym.getD l 0) (sb.getD l 0) t) s
    if !linkUp s p then s
    else
      let s := overN 8 (fun l t => judgeLane p l (sym.getD l 0) (sb.getD l 0) (bit held l) t) s
      let s := updateMargin s p
      if flag s (Reg.LNK.CTRL_AUTO_DROP pg) ∧ dropWanted s p ≠ rxMask s p then askMask s p opDROP
      else if flag s (Reg.LNK.CTRL_AUTO_ADD pg) then askMask s p opADD
      else s

/-- A lane loses clock recovery or alignment. -/
def doLaneLost (s : Block) (p l : Nat) : Block :=
  let pg := lnkPage p
  if linkUp s p ∧ bit (rxMask s p) l ∧ laneCode s p l ≠ 0 then
    let s := linkEvent (raisePage (setLane s p l 0) pg ErrBit.LNK.LANE_LOST) p 11
    if flag s (Reg.LNK.CTRL_AUTO_DROP pg) then askMask s p opDROP else s
  else s

/-- RETRAIN_LANE of dropped lanes stays 1 until they hold lock (DEDUCED, log entry 31). -/
def doRetrainLane (s : Block) (rq : Requester) (p lanes : Nat) : Block :=
  let f := Reg.LNK.LANE_CMD_RETRAIN_LANE (lnkPage p)
  guardedCmd s rq (lnkPage p) (fun t =>
    if linkUp t p then wr t f ((lanesOf lanes).foldl (fun v l => if bit (rxMask t p) l then v else setBit v l true) (rd t f)) else t)

/-- The switch point of a change that begins now (R231): the number of the flit that ends the first frame ending at least 2F + 256 pt on. At
five lanes or fewer every flit stands for a frame of its own. -/
def switchPoint (s : Block) (p : Nat) : Nat :=
  let w := txWidth s p
  let next := rd s (Reg.LNK.TX_SEQ_NEXT (lnkPage p))
  let span := 2 * flightOf s p + 256
  let len := frameLen w
  if len = 0 then (next + ceilDiv (span * w * 10) 112 + 4095) % 4096
  else
    let f0 := (prt s p).frameStart
    let fin := f0 + len * ceilDiv (now s + span - f0) len
    (next + (fin - slotTick s) / 2 + 4095) % 4096

/-- The sender announces a change. -/
def announceChange (s : Block) (p mask : Nat) : Block :=
  let q := switchPoint s p
  showLink (sendLane (setPort s p { prt s p with txPend := some ⟨mask, q, false⟩ }) p opCHANGE mask q) p

/-- A received request for a mask: for fewer of the working lanes, or for more. One that comes while a CHANGE stands unacknowledged
brings a new CHANGE: the old one may be lost (DEDUCED, log entry 31). -/
def doMaskReq (s : Block) (p mask : Nat) (add : Bool) : Block :=
  let m := txMask s p
  let fits := if add then m &&& mask == m else m &&& mask == mask
  let free := match (prt s p).txPend with
    | none => true
    | some c => !c.acked
  if linkUp s p ∧ free = true ∧ mask ≠ 0 ∧ mask ≠ m ∧ fits then announceChange s p mask else s

/-- A received CHANGE: the receiver commits and acknowledges. It answers the request that asked for its mask. -/
def doChange (s : Block) (p mask q : Nat) : Block :=
  let x := prt s p
  let answered := match x.reqPend with
    | some r => r.2.1 == mask
    | none => true
  if linkUp s p ∧ mask ≠ 0 then
    showLink (sendLane (setPort s p { x with rxPend := some ⟨mask, q, true⟩, reqPend := if answered then none else x.reqPend }) p
      opCHANGEACK mask q) p
  else s

/-- A received CHANGE_ACK, so many pt before flit S begins: in time, or the change begins again. -/
def doChangeAck (s : Block) (p early mask q : Nat) : Block :=
  let x := prt s p
  if linkUp s p ∧ x.txPend = some ⟨mask, q, false⟩ then
    if 16 ≤ early then setPort s p { x with txPend := some ⟨mask, q, true⟩ }
    else announceChange (raisePage s (lnkPage p) ErrBit.LNK.CHANGE_CANCELLED) p mask
  else s

/-- A request that brought no CHANGE within 1,024 pt is sent again, for the mask that is wanted now (DEDUCED, log entry 31). -/
def doResend (s : Block) (p : Nat) : Block :=
  match (prt s p).reqPend with
  | none => s
  | some (op, _, t) =>
    if linkUp s p ∧ t + 1024 ≤ now s then askMask (showLink (setPort s p { prt s p with reqPend := none }) p) p op else s

/-- A change counts. -/
def countChange (s : Block) (p : Nat) : Block :=
  let s := telAdd (incSat s (Reg.LNK.WIDTH_CHANGES (lnkPage p)) 1) p 11 1
  showLink (showWidths (raisePage s (lnkPage p) ErrBit.LNK.WIDTH_CHANGED) p) p

/-- The boundary after flit S, in one direction. -/
def doWidthSwitch (s : Block) (p : Nat) (tx : Bool) : Block :=
  let x := prt s p
  let pg := lnkPage p
  if !linkUp s p then s
  else if tx then
    match x.txPend with
    | some c =>
      if c.acked ∧ seqAfter (rd s (Reg.LNK.TX_SEQ_NEXT pg)) c.s then
        countChange (wr (setPort s p { x with txPend := none, frameStart := slotTick s }) (Reg.LNK.LINK_STATUS_TX_MASK pg) c.mask) p
      else s
    | none => s
  else
    match x.rxPend with
    | some c =>
      if seqAfter x.predicted c.s then
        let s := overN 8 (fun l t =>
          if !bit c.mask l then (if bit (rxMask t p) l then setLane t p l 0 else t)
          else if bit (rxMask t p) l then t else setLane t p l 1) (setPort s p { x with rxPend := none })
        countChange (wr s (Reg.LNK.LINK_STATUS_RX_MASK pg) c.mask) p
      else s
    | none => s

/-! ### Notices from the peer (R342): kinds 0 link down, 1 margin lost, 2 lane lost, 3 lane degraded -/

/-- DEDUCED, log entry 31. -/
def doNotice (s : Block) (p kind : Nat) : Block := charge s (9 + kind) p 10000000

/-! ### Meanings -/

def execFlitTransmit (port : Fin 12) (pos : Fin 16) := run (fun s => doTransmit s port pos)
def execFlitReceive (port : Fin 12) (slotPos : Bool) (f : WireFlit) :=
  runIf (match f with | .bytes b => b.length == 280 | .uncorrectable => true) "FLIT_RECEIVE" (fun s => doFlitReceive s port slotPos f)
def execNakRepeat (port : Fin 12) (seq : Fin 4096) := run (fun s => doNakRepeat s port seq)
def execLinkDownTimeout (port : Fin 12) := run (fun s => doDownTimeout s port)
def execRetrainLink (rq : Requester) (port : Fin 12) := run (fun s => doRetrainLink s rq port)
/-- A lane message comes as its copies, one from each lane that carried one (R230). -/
def laneMessage (port : Fin 12) (copies : List (BitVec 40)) (op : Nat) (k : Nat → Nat → Nat → Block → Block) (s : State) :=
  run (onMessage copies op (k port)) s
def execLinkOff (port : Fin 12) (copies : List (BitVec 40)) := laneMessage port copies opLINKOFF (fun p _ _ s => linkDown s p)
def execEnableWrite (rq : Requester) (port : Fin 12) (v : BitVec 32) := run (fun s => doEnableWrite s rq port v.toNat)
def execSignalDetected (port : Fin 12) := run (fun s => doSignal s port)
def execEqualiseComplete (port : Fin 12) (tx rx : BitVec 8) := run (fun s => doEqualise s port tx.toNat rx.toNat)
def execAlignComplete (port : Fin 12) (locked : BitVec 8) := run (fun s => doAlign s port locked.toNat)
def execIdentifyComplete (port : Fin 12) (x y z : Fin 64) (rx ry rz : Fin 128) (peerPort : Fin 12) (peerTx peerRx : BitVec 8)
    (version : Fin 16) :=
  run (fun s => doIdentify s port x y z rx ry rz peerPort peerTx.toNat peerRx.toNat version)
def execTrainTimeout (port : Fin 12) := run (fun s => doTrainTimeout s port)
def execDegradeWindowEnd (port : Fin 12) (sym sb : List Nat) (uncorr : Nat) (lockHeld : BitVec 8) :=
  run (fun s => doDegradeWindow s port sym sb uncorr lockHeld.toNat)
def execLaneLost (port : Fin 12) (lane : Fin 8) := run (fun s => doLaneLost s port lane)
def execRetrainLane (rq : Requester) (port : Fin 12) (lanes : BitVec 8) := run (fun s => doRetrainLane s rq port lanes.toNat)
def execDropReq (port : Fin 12) (copies : List (BitVec 40)) :=
  laneMessage port copies opDROP (fun p mask _ s => doMaskReq s p mask false)
def execAddReq (port : Fin 12) (copies : List (BitVec 40)) :=
  laneMessage port copies opADD (fun p mask _ s => doMaskReq s p mask true)
def execChange (port : Fin 12) (copies : List (BitVec 40)) :=
  laneMessage port copies opCHANGE (fun p mask q s => doChange s p mask q)
def execChangeAck (port : Fin 12) (copies : List (BitVec 40)) (early : Nat) :=
  laneMessage port copies opCHANGEACK (fun p mask q s => doChangeAck s p early mask q)
def execLaneRequestResend (port : Fin 12) := run (fun s => doResend s port)
def execWidthSwitch (port : Fin 12) (tx : Bool) := run (fun s => doWidthSwitch s port tx)
def execLinkEventNotice (port : Fin 12) (kind : Fin 4) (_time : Nat) := run (fun s => doNotice s port kind)

end Sys2Proof.Machine
end

