-- ==== Sys2Proof/Machine/Service.lean ====
section
/-! DEFINITION. The service plane and the management channel: packets at a hop, requests executed here, responses, timeouts, the rank
table, telemetry windows, SPDM sessions (R232–R257, R360). -/

namespace Sys2Proof.Machine

def niPg : Nat := 0x8000

/-! ### Packets at a hop (R240, R246, R247) -/

def malformed (s : Block) : Block := raisePage s niPg ErrBit.NI.SVC_MALFORMED

/-- The flits of a packet leave the port's receive buffer, if they stand at its head. -/
def popRx (s : Block) (p v : Nat) (flits : List (List Byte)) : Block :=
  let x := prt s p
  let l := Tab.get x.rxVc [] v
  if l.take flits.length = flits then showLink (setPort s p { x with rxVc := Tab.put x.rxVc [] v (l.drop flits.length) }) p else s

/-- A response that came in by a port: it clears its entry there, and goes on by the entry's input port or completes the request. -/
def takeResponse (s : Block) (port : Option (Fin 12)) (pkt : List Byte) : Block :=
  let h := pkt
  let finish := fun (t : Block) =>
    completeRequest (when (hStatus h == stNOROUTE) (fun u => incSat u Reg.NI.NO_ROUTES 1) t) (hToken h) (hStatus h) (slice pkt 48 (hLength h))
  match port with
  | none => finish s
  | some p =>
    match (prt s p).outstanding.find? (fun e => e.token == hToken h) with
    | none => s
    | some e =>
      let s := showLink (setPort s p { prt s p with outstanding := (prt s p).outstanding.erase e }) p
      match e.input with
      | none => finish s
      | some q => if linkUp s q then forwardTo s port q (vcOf h) none pkt else s

/-- An opcode of R241. -/
def knownOp (op : Nat) : Bool := op == svREAD || op == svWRITE || op == svMAILBOX || op == svTELREAD || op == svMCTP

/-- A request at this hop. -/
def takeRequest (s : Block) (port : Option (Fin 12)) (pkt : List Byte) : Block :=
  if hCoord pkt ∧ hOpcode pkt ≠ svMCTP then respond s port pkt stDENIED []
  else match route s pkt with
    | .deliver =>
      if knownOp (hOpcode pkt) then { s with ni := { s.ni with inbox := s.ni.inbox ++ [(port, pkt)] } } else respond s port pkt stDENIED []
    | .forward q pkt' => forwardTo s port q (vcOf pkt') port pkt'
    | .noRoute => respond s port pkt stNOROUTE []

/-- A packet to be passed on waits in its receive buffer while there is no room where it goes (DEDUCED, log entry 32). -/
def mustWait (s : Block) (port : Option (Fin 12)) (pkt : List Byte) : Bool :=
  match port with
  | none => false
  | some p =>
    if hResponse pkt then
      match ((prt s p).outstanding.find? (fun e => e.token == hToken pkt)).bind (fun e => e.input) with
      | some q => linkUp s q && !roomTo s port q (vcOf pkt) (hFlits pkt)
      | none => false
    else match route s pkt with
      | .forward q pkt' => !roomTo s port q (vcOf pkt') (hFlits pkt)
      | _ => false

def doPacket (s : Block) (port : Option (Fin 12)) (vc : Nat) (flits : List (List Byte)) : Block :=
  if headerOk flits.flatten ∧ hFlits flits.flatten = flits.length ∧ mustWait s port flits.flatten then s
  else
  let s := match port with
    | some p => popRx s p vc flits
    | none => s
  let pkt := flits.flatten
  if !headerOk pkt || hFlits pkt != flits.length then malformed s
  else if hResponse pkt then takeResponse s port pkt else takeRequest s port pkt

/-- The request leaves the packets delivered here. -/
def takeInbox (s : Block) (src : Option (Fin 12)) (header : List Byte) : Block :=
  match s.ni.inbox.find? (fun e => e.1 == src && e.2.take 48 == header) with
  | some e => { s with ni := { s.ni with inbox := s.ni.inbox.erase e } }
  | none => s

/-! ### The recent-request table (R235) -/

def recentOf (s : Block) (token : Nat) : Option Recent := s.ni.recent.find? (fun r => r.token == token)
/-- All 256 entries are younger than 1 ms. -/
def recentFull (s : Block) : Bool := decide (256 ≤ (s.ni.recent.filter (fun r => decide (now s < r.time + 1000000))).length)
/-- The executed request and its response; the oldest entry makes room. -/
def remember (s : Block) (token : Nat) (response : List Byte) : Block :=
  let l := if 256 ≤ s.ni.recent.length then s.ni.recent.drop 1 else s.ni.recent
  { s with ni := { s.ni with recent := l ++ [⟨token, now s, response⟩] } }

/-- A non-idempotent request passes the table: `body` executes it and gives its status; none means that it waits for memory slots. What is turned away was not executed, and leaves no entry. -/
def once (s : Block) (src : Option (Fin 12)) (h : List Byte) (body : Block → Block × Option Nat) : Block :=
  match recentOf s (hToken h) with
  | some r => respond (takeInbox s src h) src h (r.response.getD 0 0).toNat []
  | none =>
    if recentFull s then respond (takeInbox s src h) src h stBUSY []
    else
      let b := body s
      match b.2 with
      | none => b.1
      | some st =>
        let t := takeInbox b.1 src h
        respond (if st = stBUSY ∨ st = stDENIED then t else remember t (hToken h) (natLe 1 st)) src h st []

/-! ### Requests executed here (R241, R249, R250) -/

/-- A remote access crosses as side traffic and waits for its HOST slots, under its token (R208, R249). -/
def remoteAccess (s : Block) (write : Bool) (a n token : Nat) (d : List Byte) : Block × Option (List Byte) :=
  sideAccess s true write a n (2 ^ 40 + token) d

/-- An uncorrectable block met by a host access (R174). -/
def noteHostUe (s : Block) (a : Nat) : Block :=
  match unitOf s a with
  | some u => noteUe s u ErrBit.HBM.UE_MOVE a
  | none => s

def doSvcRead (s : Block) (src : Option (Fin 12)) (h : List Byte) : Block :=
  let a := hAddr h
  let n := hLength h
  if hCoord h then respond (takeInbox s src h) src h stDENIED []
  else if n < 32 ∨ 2048 < n ∨ n % 32 ≠ 0 ∨ !devIn s a n then respond (takeInbox s src h) src h stRANGE []
  else
    let g := remoteAccess s false a n (hToken h) []
    match g.2 with
    | none => g.1
    | some d =>
      let bad := badBlocks g.1 a (ceilDiv (a % 64 + n) 64)
      let s := when (!mapped g.1) (overL bad (fun b t => noteHostUe t b)) (takeInbox g.1 src h)
      respond s src h (if bad.isEmpty then stOK else stUNCORRECTABLE) d

/-- The bytes lie in a service window that the ream declares for this module (DEDUCED, log entry 32). -/
def inWindow (s : Block) (a n : Nat) : Bool :=
  inJob s && (ream s).ranges.any (fun r => r.use == 7 && decide (r.base ≤ a) && decide (a + n ≤ r.base + r.len))

def doSvcWrite (s : Block) (src : Option (Fin 12)) (h data : List Byte) : Block :=
  if hCoord h then respond (takeInbox s src h) src h stDENIED []
  else once s src h (fun t =>
    let a := hAddr h
    if !inWindow t a data.length then (t, some stDENIED)
    else
      let g := remoteAccess t true a data.length (hToken h) data
      (g.1, g.2.map (fun _ => stOK)))

/-- An entry of the host mailbox ring (R360) (DESIGN CHOICE, log entry 12; DEDUCED, log entry 32). -/
def mailbox (s : Block) (h data : List Byte) : Block × Option Nat :=
  let n := 2 ^ min 12 (max 4 (rd s Reg.PCI.MBX_CTRL_LOG2_ENTRIES))
  let w := rd s Reg.PCI.MBX_WRITTEN
  if !flag s Reg.PCI.MBX_CTRL_ENABLE then (s, some stBUSY)
  else if n ≤ dist32 w (rd s Reg.PCI.MBX_CONSUMED) then (raisePage s 0x4000 ErrBit.PCI.MBX_FULL, some stBUSY)
  else
    let e := natLe 2 (hSrc h) ++ natLe 1 (w / n % 2) ++ zeros 1 ++ natLe 4 (hToken h) ++ natLe 2 data.length ++ zeros 6 ++ data
    (msix (incMod (hostWrite s (rd s Reg.PCI.MBX_BASE + 2304 * (w % n)) e) Reg.PCI.MBX_WRITTEN 1) 2, some stOK)

def doSvcMailbox (s : Block) (src : Option (Fin 12)) (h data : List Byte) : Block :=
  if hCoord h then respond (takeInbox s src h) src h stDENIED [] else once s src h (fun t => mailbox t h data)

/-- DEDUCED, log entry 32. -/
def doTelRead (s : Block) (src : Option (Fin 12)) (h : List Byte) : Block :=
  let s := takeInbox s src h
  let p := hAddr h % 16
  if hCoord h then respond s src h stDENIED []
  else if 12 ≤ p then respond s src h stRANGE []
  else respond s src h stOK (readWords s (telPage p + 0x40) 48)

/-! ### Management packets (R251, R253) -/

/-- An MCTP packet among the packets delivered here. -/
def mctpOf (s : Block) (data : List Byte) : Option (Option (Fin 12) × List Byte) :=
  s.ni.inbox.find? (fun e => hOpcode e.2 == svMCTP && slice e.2 48 (hLength e.2) == data)

/-- MCTP control messages have type 0 and SPDM messages type 5 (the family's numbers, PRESUMED, log entry 19). -/
def openType (t : Nat) : Bool := t == 0 || t == 5

/-- The message of firmware as MCTP packets of at most 1,024 bytes after their header (R251) (PRESUMED, log entry 19). -/
def fragments (dst src : Nat) (owner : Bool) (d : List Byte) : List (List Byte) :=
  let n := max 1 (ceilDiv d.length 1024)
  (List.range n).map (fun i => mctpHeader dst src (i == 0) (i + 1 == n) i owner ++ slice d (1024 * i) (min 1024 (d.length - 1024 * i)))

/-- A message leaves firmware: to the module whose message it answers, as packets on VC 7 addressed by its coordinate, or to the host
(PRESUMED, log entry 19). -/
def reply (s : Block) (d : List Byte) : Block :=
  match s.mgmt.askers with
  | c :: r =>
    overL (fragments c (selfCoord s) false d) (fun m t => (originate t svMCTP 0 0 m.length m 0 (some c)).1)
      { s with mgmt := { s.mgmt with askers := r } }
  | [] => { s with mgmt := { s.mgmt with outbox := s.mgmt.outbox ++ [d] } }

def sess (s : Block) (i : Nat) : Session := Tab.get s.mgmt.sessions ⟨false, 0, 0, 0, 0⟩ i
def setSess (s : Block) (i : Nat) (x : Session) : Block :=
  let s := { s with mgmt := { s.mgmt with sessions := Tab.put s.mgmt.sessions ⟨false, 0, 0, 0, 0⟩ i x } }
  wr s Reg.NI.SESSIONS ((List.range 16).filter (fun k => (sess s k).opened)).length

/-- A session whose records in one direction reach 2^32 gets new keys from the responder (R252). -/
def renewed (x : Session) : Session :=
  if 2 ^ 32 ≤ x.records ∨ 2 ^ 32 ≤ x.recordsIn then { x with keys := x.keys + 1, records := 0, recordsIn := 0 } else x

/-- A record received in a session: it is heard. -/
def hearRecord (s : Block) (i : Nat) : Block :=
  let x := sess s i
  setSess s i (renewed { x with heard := s.mgmt.clock, recordsIn := x.recordsIn + 1 })

/-- The answers of the responder to what needs no session (R252), by the family's request codes and layouts (PRESUMED, log entry 19): version
1.2; the capabilities of R252, and its algorithms SHA-256, RSASSA-3072, FFDHE-3072, AES-256-GCM and the SPDM key schedule. What
the table leaves open (timing exponent, transfer sizes) is free. -/
def spdmAnswer (code : Nat) : Option (List Byte) :=
  if code = 0x84 then some (natLe 1 0x10 ++ natLe 1 4 ++ zeros 3 ++ natLe 1 1 ++ natLe 2 0x1200)
  else if code = 0xE1 then
    some (natLe 1 0x12 ++ natLe 1 0x61 ++ zeros 2 ++ (Config.signed (natLe 1 0x61)).take 4 ++ natLe 4 0x62D6 ++
      (Config.signed (natLe 2 0x61)).take 8)
  else if code = 0xE3 then
    some (natLe 1 0x12 ++ natLe 1 0x63 ++ natLe 2 3 ++ natLe 2 48 ++ natLe 1 1 ++ natLe 1 0 ++ natLe 4 2 ++ natLe 4 4 ++ natLe 4 1 ++ zeros 16 ++
      natLe 2 0x2002 ++ natLe 2 2 ++ natLe 2 0x2003 ++ natLe 2 2 ++ natLe 2 0x2005 ++ natLe 2 1)
  else none

/-- The message comes to firmware, which owes its sender an answer if it asks for one. -/
def deliverMgmt (s : Block) (from_ : Option Nat) (data : List Byte) : Block :=
  let ask := match from_ with
    | some c => if tagOwner data then [c] else []
    | none => []
  { s with mgmt := { s.mgmt with inbox := s.mgmt.inbox ++ [data], askers := s.mgmt.askers ++ ask } }

/-- An open message: version, capabilities and algorithms are answered at once, the rest when firmware comes to it. -/
def openMessage (s : Block) (from_ : Option Nat) (msgType : Nat) (data : List Byte) : Block :=
  match (if msgType = 5 then spdmAnswer (fieldLe data 6 1) else none), from_ with
  | some d, some c => reply { s with mgmt := { s.mgmt with askers := c :: s.mgmt.askers } } (natLe 1 5 ++ d)
  | some d, none => { s with mgmt := { s.mgmt with outbox := s.mgmt.outbox ++ [natLe 1 5 ++ d] } }
  | none, _ => deliverMgmt s from_ data

/-- What management does with a message, and whether it takes it (R253): secured messages name their session in the four bytes after the
message type (PRESUMED, log entry 19). -/
def mctpMessage (s : Block) (from_ : Option Nat) (secured tagOk : Bool) (msgType : Nat) (data : List Byte) : Block × Bool :=
  let i := fieldLe data 5 4 % 16
  if secured then
    if !tagOk then (logEntry (raisePage (incSat s Reg.NI.AUTH_FAILS 1) niPg ErrBit.NI.AUTH_FAIL) 6 3 0 0, false)
    else if !(sess s i).opened then (incSat s Reg.NI.UNAUTH_DROPS 1, false)
    else (deliverMgmt (hearRecord s i) from_ data, true)
  else if openType msgType then (openMessage s from_ msgType data, true)
  else (incSat s Reg.NI.UNAUTH_DROPS 1, false)

/-- An MCTP packet: a request passes the recent-request table and is acknowledged in one flit once it is taken (R235, R241); what is dropped
is not answered (R253); a packet longer than the binding allows is refused (R251) (PRESUMED, log entry 19; DEDUCED, log entry 32). -/
def doMctp (s : Block) (secured tagOk : Bool) (msgType : Nat) (data : List Byte) : Block :=
  match mctpOf s data with
  | none => (mctpMessage s none secured tagOk msgType data).1
  | some e =>
    let s := { s with ni := { s.ni with inbox := s.ni.inbox.erase e } }
    let h := e.2.take 48
    let answer := fun (t : Block) (st : Nat) => if tagOwner data then respond t e.1 h st [] else t
    match recentOf s (hToken h) with
    | some r => answer s (r.response.getD 0 0).toNat
    | none =>
      if recentFull s then answer s stBUSY
      else if 1028 < data.length then answer s stRANGE
      else
        let m := mctpMessage s (some (hSrcCoord h)) secured tagOk msgType data
        if m.2 then answer (remember m.1 (hToken h) (natLe 1 stOK)) stOK else m.1

/-! ### Responses and timeouts (R234, R248) -/

def doResponse (s : Block) (port : Option (Fin 12)) (header data : List Byte) : Block := takeResponse s port (header ++ data)

def doNiTimeout (s : Block) (token : Nat) : Block :=
  match s.ni.requests.find? (fun r => r.token == token && r.done == none) with
  | none => s
  | some r =>
    if r.since + 1000 * rd s Reg.NI.NI_REQ_TIMEOUT ≤ now s then
      let s := overN 12 (fun p t =>
        showLink (setPort t p { prt t p with outstanding := (prt t p).outstanding.filter (fun e => e.token != token || e.input != none) }) p) s
      completeRequest (incSat s Reg.NI.TIMEOUTS 1) token stTIMEOUT []
    else s

/-- DEDUCED, log entry 32. -/
def doStaleFree (s : Block) (p token : Nat) : Block :=
  match (prt s p).outstanding.find? (fun e => e.token == token) with
  | none => s
  | some e =>
    if e.since + 2000000 ≤ now s then
      incSat (showLink (setPort s p { prt s p with outstanding := (prt s p).outstanding.erase e }) p) Reg.NI.STALE_FREED 1
    else s

/-! ### The rank table (R243, R244) -/

/-- The coordinates of the valid entries of a version. -/
def validCoords (s : Block) (ver n : Nat) : List Nat :=
  (List.range n).filterMap (fun r => if rankValid s ver r then some (rankCoord s ver r) else none)

/-- The three conditions of a check, over a job size in its range (DEDUCED, log entry 32). -/
def tableOk (s : Block) (ver : Nat) : Bool :=
  let n := rd s Reg.NI.NI_RT_LEN
  let cs := validCoords s ver n
  1 ≤ n && n ≤ 65536 && crc32c (rankRead s (ver * 0x40000) (4 * n)) == rd s Reg.NI.NI_RT_REF &&
  decide cs.Nodup && cs.all (fun c => (List.range 3).all (fun a => decide (axisOf c a < ringOf s a)))

def doRtCheck (s : Block) : Block :=
  if !pageResponds s niPg then s
  else
    let v := 1 - activeTable s
    if tableOk s v then
      let m := validCoords s v (rd s Reg.NI.NI_RT_LEN)
      let s := wr s Reg.NI.NI_TABLE_READY 1
      { s with ni := if v = 0 then { s.ni with members0 := m } else { s.ni with members1 := m } }
    else raisePage (wr s Reg.NI.NI_TABLE_READY 0) niPg ErrBit.NI.RT_CHECK_FAIL

def doFlip (s : Block) (rq : Requester) : Block :=
  guardedCmd s rq niPg (fun t =>
    if !flag t Reg.NI.NI_TABLE_READY then t
    else if inJob t then { wr t Reg.NI.NI_CMD_FLIP 1 with ni := { t.ni with flipPending := true } }
    else applyRtFlip t)

def doRtTailEnd (s : Block) : Block :=
  if flag s Reg.NI.NI_TABLE_TAIL ∧ s.ni.tailEnd ≤ now s then wr s Reg.NI.NI_TABLE_TAIL 0 else s

/-! ### Telemetry (R254, R255) -/

/-- A window ends at the next multiple of its length; a new length takes effect there, on its own grid. -/
def doTelWindow (s : Block) (p : Nat) : Block :=
  let x := prt s p
  let pg := telPage p
  let fin := (x.winStart / 2 ^ x.winLog2 + 1) * 2 ^ x.winLog2
  if now s < fin then s
  else
    let c := fun (k : Nat) => Tab.get x.counts 0 k
    let s := overN 4 (fun i t => wr (wr t (Reg.TEL.TX_FLITS pg i) (c i)) (Reg.TEL.RX_FLITS pg i) (c (4 + i))) s
    let s := wr (wr (wr s (Reg.TEL.REPLAYS pg) (c 8)) (Reg.TEL.NAKS pg) (c 9)) (Reg.TEL.COUCH_HIGH pg) (c 10)
    let s := wr (wr s (Reg.TEL.LANES_LANE_STATE pg) (rd s (Reg.LNK.LANE_STATE (lnkPage p)))) (Reg.TEL.LANES_CHANGES pg) (min 255 (c 11))
    let s := wr (wr s (Reg.TEL.LANES_TX_WIDTH pg) (txWidth s p)) (Reg.TEL.LANES_RX_WIDTH pg) (rxWidth s p)
    let s := overN 8 (fun v t =>
      wr (wr (wr t (Reg.TEL.VC_DEPTH_HIGH_RX_HIGH pg v) (c (12 + v))) (Reg.TEL.VC_DEPTH_HIGH_TX_HIGH pg v) (c (20 + v))) (Reg.TEL.VC_STALL pg v) (c (28 + v))) s
    let s := incMod (wr s (Reg.TEL.TEL_START pg) x.winStart) (Reg.TEL.TEL_SEQ pg) 1
    -- the next window: occupancies start from what stands there
    let s := setPort s p { prt s p with counts := [], winStart := max fin (now s / 2 ^ x.winLog2 * 2 ^ x.winLog2), winLog2 := rd s (Reg.TEL.TEL_CTRL pg) }
    overN 8 (fun v t => telHigh (telHigh t p (12 + v) (vcDepth t p v)) p (20 + v) (min 256 (Tab.get (prt t p).txVc [] v).length)) (telHigh s p 10 (couchUsed s p))

/-! ### SPDM (R252, R411, R412) -/

/-- The ERROR response with code Busy, as SPDM 1.2 numbers it (PRESUMED, log entry 19). -/
def spdmBusy : List Byte := natLe 1 0x12 ++ natLe 1 0x7F ++ natLe 1 3 ++ zeros 1
/-- Request codes of SPDM 1.2 (PRESUMED, log entry 19): what a signed or sealed response is the response to. -/
def spGETCERT : Nat := 0x82
def spCHALLENGE : Nat := 0x83
def spMEAS : Nat := 0xE0
def spKEYEX : Nat := 0xE4
def spHEARTBEAT : Nat := 0xE8
def spKEYUPD : Nat := 0xE9

/-- A session is heard, and its answer is one more record. -/
def heard (s : Block) (i code : Nat) : Block :=
  let x := sess s i
  reply (setSess s i (renewed { x with heard := s.mgmt.clock, records := x.records + 1 })) (Config.signed (natLe 1 code ++ natLe 1 i ++ natLe 8 x.records))

def doKeyExchange (s : Block) (accepted : Bool) : Block :=
  match (List.range 16).find? (fun i => !(sess s i).opened) with
  | none => reply s spdmBusy
  | some i =>
    if accepted then
      logEntry (heard (setSess s i ⟨true, s.mgmt.clock, 0, 1, 0⟩) i spKEYEX) 6 1 0 i
    else logEntry s 6 3 0 i

def doGetCertificate (s : Block) : Block := reply s (Config.signed (natLe 1 spGETCERT ++ natLe 8 (rd s Reg.MGT.MODULE_ID)))
def doChallenge (s : Block) (nonce : List Byte) : Block := reply s (Config.signed (natLe 1 spCHALLENGE ++ nonce))

/-- A measurement block of R411: 1 to 5 are digests over images and stores whose byte layouts are open (PRESUMED, log entry 19). -/
def measurementBlock (s : Block) (i : Nat) : List Byte :=
  if i = 6 then natLe 1 (rd s Reg.MGT.BEHAVIOUR_PHYSICAL) ++ natLe 1 (rd s Reg.MGT.BEHAVIOUR_IN_FORCE)
  else if i = 7 then natLe 1 (rd s Reg.MGT.SVN_FLOOR) ++ natLe 1 s.mgmt.svnStage1 ++ natLe 1 (rd s Reg.MGT.SVN_RUNNING) ++ zeros 1
  else if i = 8 then slice (if s.plan.ream.isSome then (ream s).digest else []) 0 32
  else if i = 9 then slice s.hdb.activeDigest 0 32
  else if i = 5 then Config.measurement 5 (s.mgmt.rootKey ++ s.mgmt.pubKeys.flatMap (fun k => k.2))
  else Config.measurement i (natLe 1 s.mgmt.stage1Copy ++ natLe 1 (rd s Reg.MGT.MGT_STATUS_SLOT) ++ natLe 4 (rd s Reg.MGT.BOOT_COUNT))

def measurements (s : Block) : List Byte := (List.range 9).flatMap (fun i => measurementBlock s (i + 1))
def doGetMeasurements (s : Block) (nonce : List Byte) : Block :=
  reply s (measurements s ++ Config.signed (natLe 1 spMEAS ++ nonce ++ measurements s))

def doHeartbeat (s : Block) (i : Nat) : Block := if (sess s i).opened then heard s i spHEARTBEAT else s

/-- New keys in both directions; the count of records starts again. -/
def doKeyUpdate (s : Block) (i : Nat) : Block :=
  if (sess s i).opened then
    let s := heard s i spKEYUPD
    setSess s i { sess s i with keys := (sess s i).keys + 1, records := 0, recordsIn := 0 }
  else s

/-- Three heartbeat periods of silence end a session. -/
def doSessionTimeout (s : Block) (i : Nat) : Block :=
  if (sess s i).opened ∧ (sess s i).heard + 90000000000 ≤ s.mgmt.clock then logEntry (setSess s i ⟨false, 0, 0, 0, 0⟩) 6 2 0 i else s

/-! ### Meanings -/

def execServicePacketReceive (port : Option (Fin 12)) (vc : Fin 8) (flits : List (List Byte)) :=
  runIf (!flits.isEmpty && flits.all (fun f => f.length == 256)) "SERVICE_PACKET_RECEIVE" (fun s => doPacket s port vc flits)
def execSvcRead (src : Option (Fin 12)) (header : List Byte) := runIf (header.length == 48) "READ" (fun s => doSvcRead s src header)
def execSvcWrite (src : Option (Fin 12)) (header data : List Byte) :=
  runIf (header.length == 48 && data.length == hLength header) "WRITE" (fun s => doSvcWrite s src header data)
def execSvcMailbox (src : Option (Fin 12)) (header data : List Byte) :=
  runIf (header.length == 48 && data.length == hLength header) "MAILBOX" (fun s => doSvcMailbox s src header data)
def execTelRead (src : Option (Fin 12)) (header : List Byte) := runIf (header.length == 48) "TEL_READ" (fun s => doTelRead s src header)
def execMctp (secured tagOk : Bool) (msgType : Fin 256) (data : List Byte) := run (fun s => doMctp s secured tagOk msgType data)
def execServiceResponse (port : Option (Fin 12)) (header data : List Byte) :=
  runIf (header.length == 48 && data.length == hLength header) "SERVICE_RESPONSE" (fun s => doResponse s port header data)
def execNiRequestTimeout (token : BitVec 32) := run (fun s => doNiTimeout s token.toNat)
def execStaleEntryFree (port : Fin 12) (token : BitVec 32) := run (fun s => doStaleFree s port token.toNat)
def execRtCheck := run doRtCheck
def execRtFlip (rq : Requester) := run (fun s => doFlip s rq)
def execRtTailEnd := run doRtTailEnd
def execTelemetryWindowEnd (port : Fin 12) := run (fun s => doTelWindow s port)
def execKeyExchange (accepted : Bool) := run (fun s => doKeyExchange s accepted)
def execGetCertificate := run doGetCertificate
def execChallenge (nonce : List Byte) := run (fun s => doChallenge s nonce)
def execGetMeasurements (nonce : List Byte) := run (fun s => doGetMeasurements s nonce)
def execHeartbeat (session : Fin 16) := run (fun s => doHeartbeat s session)
def execKeyUpdate (session : Fin 16) := run (fun s => doKeyUpdate s session)
def execSessionHeartbeatTimeout (session : Fin 16) := run (fun s => doSessionTimeout s session)

end Sys2Proof.Machine
end

