-- ==== Sys2Proof/Machine/ModuleReset.lean ====
section
/-! DEFINITION. Module reset and recovery, the reset pins, the supply and 112 °C resets, power-on, management restart, FLR and D3hot
(R306, R321, R329–R336, R351, R396, R402, R404, R431, R435, R436). -/

namespace Sys2Proof.Machine

def mgtPg : Nat := 0x5000
def pciPg : Nat := 0x4000

/-! ### The PCIe function (R351) -/

/-- The tag of a descriptor's wait for HOST slots (R179): its queue and ring index. -/
def dmaTag (q i : Nat) : Nat := 2 ^ 41 + q * 65536 + i

/-- Descriptors in progress stop, and wait for nothing more (DEDUCED, log entry 44). -/
def dropDma (s : Block) : Block :=
  overN 20 (fun u t => setUnit t u { unit t u with hostq := (unit t u).hostq.filter (fun m => decide (m.tag < 2 ^ 41)) })
    { s with pcie := { s.pcie with dma := [] } }

/-- DMA queues disabled, descriptors dropped. -/
def stopDma (s : Block) : Block := overN 8 (fun q t => wr t (Reg.PCI.Q_CTRL_ENABLE q) 0) (dropDma s)

/-- An FLR: windows, queues and rings; MSI-X masked; a load abandoned; the results ring stopped; the host guard closed. -/
def flrReset (s : Block) : Block :=
  let s := if rd s Reg.PCI.LOAD_STATUS_STATE = 1 then
      wr (wr { s with plan := { s.plan with ream := none } } Reg.PCI.LOAD_STATUS_STATE 3) Reg.PCI.LOAD_STATUS_CODE 0xFF
    else s
  let s := resetRange s 0x4080 0x4340
  let s := dropDma (wr (wr s Reg.PCI.LOAD_CMD_START 0) Reg.SES.RING_ENTRIES 0)
  { s with
    hostGuard := {}
    pcie := { s.pcie with unmasked := 0, image := [] } }

def doFlr (s : Block) : Block := { flrReset s with pcie := { (flrReset s).pcie with flrBusy := true } }

/-- FLR_DONE is written, or waits for the event ring. -/
def doFlrComplete (s : Block) : Block :=
  if !s.pcie.flrBusy then s
  else
    let s := { s with pcie := { s.pcie with flrBusy := false } }
    if flag s Reg.PCI.EVT_CTRL_ENABLE then event s 8 0 0 0 else { s with pcie := { s.pcie with flrDone := true } }

/-- The endpoint trains with its partner (R349): speed 1 to 7, width, FLIT mode at 64 GT/s and above or where the partner has it; which they are,
the partner decides (DESIGN CHOICE, log entry 13). Less than x16 at 128 GT/s is LINK_DOWNTRAIN. -/
def trainPcie (s : Block) : Block :=
  let v := Config.freeValue s.free
  let speed := 1 + v % 7
  let width := [1, 4, 8, 16].getD (v / 7 % 4) 16
  let s := wr (wr { s with free := s.free + 1 } Reg.PCI.PCI_STATUS_SPEED speed) Reg.PCI.PCI_STATUS_WIDTH width
  let s := wr s Reg.PCI.PCI_STATUS_FLIT (if 6 ≤ speed then 1 else v / 28 % 2)
  when (speed != 7 || width != 16) (fun t => raisePage t pciPg ErrBit.PCI.LINK_DOWNTRAIN) s

def doD3hotEntry (s : Block) : Block := wr (flrReset s) Reg.PCI.PCI_STATUS_D3HOT 1
def doD3hotExit (s : Block) : Block := wr s Reg.PCI.PCI_STATUS_D3HOT 0

/-! ### The reset of the module (R329, R331, R336, R393) -/

/-- A kept range across a module reset: RELEASING becomes KEPT again; a name that no teardown accepted is gone (DEDUCED, log entry 45). -/
def keptAcross (old : Block) (r : Nat) (s : Block) : Block :=
  if keptBusy old r then
    wr (wr (wr (wr s (Reg.GLB.KEPT_BASE r) (rd old (Reg.GLB.KEPT_BASE r))) (Reg.GLB.KEPT_LEN r) (rd old (Reg.GLB.KEPT_LEN r)))
      (Reg.GLB.KEPT_STATE_STATE r) 2) (Reg.GLB.KEPT_STATE_TAG r) (rd old (Reg.GLB.KEPT_STATE_TAG r))
  else s

/-- Every page but MGT's and PCI's at its Reset columns, but for what the part is: its stepping and its harvest map. -/
def resetPages (s : Block) : Block :=
  let t := overL (allPages.filter (fun b => b != mgtPg && b != pciPg)) (fun b t => resetPage t b) s
  keepFields s t (Reg.GLB.IDENT_STEPPING :: Reg.HARV.HARVEST_SRC_RECORD_VERSION :: (List.range 16).map Reg.HARV.HARVEST_MAP_DISABLED_PHYS)

/-- Words of DDR5 in error stay so while the tier keeps its contents. -/
def ddrWords (l : List (Nat × Nat)) : List (Nat × Nat) := l.filter (fun p => 0x10000000000 ≤ p.1 * 8 && p.1 * 8 < 0x30000000000)

/-- The PCI page: all of it on the fundamental reset, the queues and the ream otherwise (R351, R364, R367). -/
def resetPci (s : Block) (fundamental : Bool) : Block :=
  let s := if fundamental then
      let t := flrReset s
      { keepFields s (resetPage t pciPg) [Reg.PCI.PCI_STATUS_MGT_READY, Reg.PCI.PCI_STATUS_MINIMAL] with
        pcie := { t.pcie with flrBusy := false, flrDone := false, pba := 0, bar2Log := 32 } }
    else stopDma s
  let s := wr (wr (wr s Reg.PCI.LOAD_STATUS_STATE 0) Reg.PCI.LOAD_STATUS_CODE 0) Reg.PCI.LOAD_STATUS_DETAIL 0
  wr { s with pcie := { s.pcie with image := [], stagingQ := [] } } Reg.PCI.PCI_STATUS_MODULE_RESET 1

/-- SPDM sessions end with the keys of the network interface's page (R252). -/
def endSessions (s : Block) : Block :=
  overN 16 (fun i t => if (sess t i).opened then logEntry (setSess t i ⟨false, 0, 0, 0, 0⟩) 6 2 0 i else t) s

/-- Everything but the management subsystem and flash goes to reset. `loseDdr`: a supply reset. Plan time starts anew at a value
that the spec leaves open (DESIGN CHOICE, log entry 7). -/
def resetModule (s : Block) (loseDdr fundamental : Bool) : Block :=
  let s := if s.mgmt.modReset then s else { s with mgmt := { s.mgmt with endedTag := if inJob s then some (ream s).tag else none } }
  let s := endSessions s
  let t := wrFree (resetPages (volatileReset (resetPci s fundamental) loseDdr)) Reg.TBS.PLAN_TIME
  let t := if loseDdr then t else overN 16 (keptAcross s) t
  let t := wr (wr t Reg.GLB.MODULE_STATE_MODULE_RESET 1) Reg.GLB.MODULE_STATE_MINIMAL (rd s Reg.GLB.MODULE_STATE_MINIMAL)
  { t with
    latches := [], hostGuard := {}, mgtGuard := {}
    poison := if loseDdr then [] else ddrWords t.poison
    soft := if loseDdr then [] else ddrWords t.soft
    imemPoison := [], imemSoft := []
    engines := [], cores := [], clusters := [], ports := [], units := [], mesh := [], heldReleases := [], releases := []
    side := [], sideIn := [], sideWait := [], sramScrub := []
    cfgParity := [], cfgSnapshot := [], cfgPassAt := 0, cfgAdoptAt := 0, keptAt := [], mgtAt := 0, mgtWrites := [], plan := {}, power := {}
    time := { refPresent := t.time.refPresent, refAtReset := t.time.refPresent }
    ni := {}, serv := {}, hdb := {}
    mgmt := { t.mgmt with modReset := true, calOk := false, inbox := [], askers := [] }
    reply := [], rises := [], captures := [] }

/-- A module reset with its log entry; `take` asks for the sample first (DEDUCED, log entry 33; DEDUCED, log entry 39). -/
def moduleReset (s : Block) (by_ : Nat) (take loseDdr fundamental : Bool) : Block :=
  let s := when take (fun t => sample t 4 by_ 0 0 0 (now t) false) s
  resetModule (logEntry s 3 0 0 (4 + 256 * by_)) loseDdr fundamental

/-- A reset request for a domain already in reset is ignored (R330) (DEDUCED, log entry 39). -/
def requestModuleReset (s : Block) (by_ : Nat) : Block := if s.mgmt.modReset then s else moduleReset s by_ true false false

def doModuleReset (s : Block) : Option Requester → Block
  | some rq => guardedCmd s rq 0 (fun t => requestModuleReset t (rqCode rq))
  | none => requestModuleReset s rqMgt

/-! ### Management restart (R396, R404, R413, R414) -/

/-- What the MGT page draws from flash. -/
def flashFields : List Field :=
  [Reg.MGT.FW_VERSION_A, Reg.MGT.FW_VERSION_B, Reg.MGT.SVN_RUNNING, Reg.MGT.SVN_FLOOR, Reg.MGT.BOOT_COUNT, Reg.MGT.BOOT_FAILS_CONSECUTIVE,
   Reg.MGT.BOOT_FAILS_TOTAL, Reg.MGT.MODULE_ID, Reg.MGT.BEHAVIOUR_IN_FORCE, Reg.MGT.BEHAVIOUR_REQUESTED, Reg.MGT.BEHAVIOUR_PHYSICAL,
   Reg.MGT.LOG_WRITTEN, Reg.MGT.LOG_OLDEST] ++
  (List.range 3).flatMap (fun a => [Reg.MGT.BOOT_REPORT_LO_STAGE a, Reg.MGT.BOOT_REPORT_LO_REASON a, Reg.MGT.BOOT_REPORT_LO_COPY a, Reg.MGT.BOOT_REPORT_HI a])

/-- The behaviour level requested takes effect (R413) (DEDUCED, log entry 40). -/
def takeLevel (s : Block) : Block :=
  let v := rd s Reg.MGT.BEHAVIOUR_REQUESTED
  if v = rd s Reg.MGT.BEHAVIOUR_IN_FORCE then s
  else
    let s := { s with mgmt := { s.mgmt with levelHeld := true } }
    raisePage (logEntry (wr s Reg.MGT.BEHAVIOUR_IN_FORCE v) 10 0 0 v) mgtPg ErrBit.MGT.BEHAVIOUR_CHANGED

/-- A stage of the boot begins. -/
def setStage (s : Block) (st : Nat) : Block := { s with mgmt := { s.mgmt with stage := st, since := s.mgmt.clock } }

/-- The boot starts again from the boot ROM; a restart out of minimal mode clears n first (R404). -/
def bootAgain (s : Block) : Block :=
  let s := if s.mgmt.stage = 4 then wr s Reg.MGT.BOOT_FAILS_CONSECUTIVE 0 else s
  let s := incMod (keepFields s (resetPage s mgtPg) flashFields) Reg.MGT.BOOT_COUNT 1
  let s := wr (wr (wr s Reg.GLB.MODULE_STATE_MINIMAL 0) Reg.PCI.PCI_STATUS_MINIMAL 0) Reg.PCI.PCI_STATUS_MGT_READY 0
  let s := { s with mgmt := { s.mgmt with romMinimal := false, update := none, inbox := [], askers := [], outbox := [], railBad := [] } }
  let s := when (rd s Reg.MGT.BOOT_FAILS_CONSECUTIVE != 0) (fun t => raisePage t mgtPg ErrBit.MGT.BOOT_FAILED) s
  setStage (takeLevel s) 0

/-- A management restart: a module reset, unless one is in progress, and the boot sequence from the boot ROM. -/
def managementRestart (s : Block) (by_ : Nat) (take : Bool) : Block :=
  bootAgain (if s.mgmt.modReset then resetModule s false false else moduleReset s by_ take false false)

/-- A boot report (R405): the newest first. -/
def pushReport (s : Block) (stage reason copy detail : Nat) : Block :=
  let move := fun (a : Nat) (t : Block) =>
    wr (wr (wr (wr t (Reg.MGT.BOOT_REPORT_LO_STAGE (a + 1)) (rd t (Reg.MGT.BOOT_REPORT_LO_STAGE a)))
      (Reg.MGT.BOOT_REPORT_LO_REASON (a + 1)) (rd t (Reg.MGT.BOOT_REPORT_LO_REASON a)))
      (Reg.MGT.BOOT_REPORT_LO_COPY (a + 1)) (rd t (Reg.MGT.BOOT_REPORT_LO_COPY a)))
      (Reg.MGT.BOOT_REPORT_HI (a + 1)) (rd t (Reg.MGT.BOOT_REPORT_HI a))
  let s := move 0 (move 1 s)
  wr (wr (wr (wr s (Reg.MGT.BOOT_REPORT_LO_STAGE 0) stage) (Reg.MGT.BOOT_REPORT_LO_REASON 0) reason) (Reg.MGT.BOOT_REPORT_LO_COPY 0) copy)
    (Reg.MGT.BOOT_REPORT_HI 0) detail

/-- A failed boot (R402, R405): the report, the counts, the log, and a management restart (DEDUCED, log entry 40). -/
def failedBoot (s : Block) (stage reason copy detail : Nat) : Block :=
  let s := pushReport s stage reason copy detail
  let s := wr (incSat s Reg.MGT.BOOT_FAILS_TOTAL 1) Reg.MGT.BOOT_FAILS_CONSECUTIVE (min 3 (rd s Reg.MGT.BOOT_FAILS_CONSECUTIVE + 1))
  let s := charge (logEntry s 2 reason 0 (rd s Reg.MGT.BOOT_COUNT)) 3 0 0
  managementRestart s rqMgt true

/-- The restart itself, whatever caused it; asked for by no edge connector (DEDUCED, log entry 40). -/
def doManagementRestart (s : Block) : Block := managementRestart s rqMgt true

/-- Contact with a live busbar: nothing volatile survives, and the boot begins (R396, R436). -/
def doPowerOn (s : Block) : Block := trainPcie (bootAgain (resetModule s true true))

/-! ### The supply and 112 °C (R306, R321) -/

/-- The last-gasp record (DEDUCED, log entry 9). -/
def lastGasp (s : Block) (mv cause : Nat) : Block :=
  let job := inJob s
  let n := s.mgmt.gaspCount
  let body := natLe 4 0x47534150 ++ natLe 4 (n + 1) ++ natLe 8 (now s) ++ natLe 8 (rd s Reg.TBS.WALL_TIME) ++
    natLe 6 (if job then sheet s else 0) ++ natLe 2 (if job then (ream s).tag else 0) ++ natLe 2 (if job then (ream s).rank else 0) ++
    natLe 2 mv ++ natLe 2 (rd s Reg.PWR.DRAW_AVG) ++ natLe 1 cause ++ natLe 1 (rd s Reg.PWR.TEMP_MAX_POINT) ++ natLe 1 (rd s Reg.PWR.TEMP_MAX_DEGC) ++
    zeros 7 ++ (if job then slice s.plan.committed 0 64 else zeros 64) ++ zeros 140
  let s := flashWrite s (0x3600000 + 256 * (n % 4096)) (body ++ natLe 4 (crc32c body))
  { s with mgmt := { s.mgmt with gaspCount := n + 1 } }

/-- The newest record still unreported, at the start of firmware (DEDUCED, log entry 9). -/
def reportGasp (s : Block) : Block :=
  if s.mgmt.gaspCount ≤ s.mgmt.gaspReported then s
  else
    let n := s.mgmt.gaspCount - 1
    let cause := leNat (flashRead s (0x3600000 + 256 * (n % 4096) + 0x26) 1)
    let s := { s with mgmt := { s.mgmt with gaspReported := s.mgmt.gaspCount } }
    let s := wr (wr (logEntry s 9 cause 0 (n + 1)) Reg.PWR.LAST_GASP_VALID 1) Reg.PWR.LAST_GASP_CAUSE cause
    when (cause == 1) (fun t => raisePage t pwr ErrBit.PWR.SAG_RESET) s

def doSupplyReset (s : Block) (mv : Nat) : Block :=
  if mv < 38500 then bootAgain (moduleReset (charge (lastGasp s mv 1) 2 0 0) rqItden false true false) else s

def doThermalReset (s : Block) (p d : Nat) : Block :=
  if 112 ≤ d ∧ !s.mgmt.modReset then
    let s := notePoint s p d
    moduleReset (charge (lastGasp s (rd s Reg.PWR.INPUT_MV) 2) 2 0 0) rqItden false false false
  else s

/-! ### The reset inputs (R431): 0 MGT_RST_N, 1 PERST_N, 2 MOD_RST_N, in the order of their precedence -/

/-- The effect of the lows that stand, the first in precedence (DEDUCED, log entry 39). -/
def actPin (s : Block) : Block :=
  if s.mgmt.pinsLow.contains 0 then managementRestart s rqItden false
  else if s.mgmt.pinsLow.contains 1 then moduleReset s rqItden false false true
  else if s.mgmt.pinsLow.contains 2 then moduleReset s rqItden false false false
  else s

def doPinLow (s : Block) (pin ns : Nat) : Block :=
  if ns < 500 ∨ s.mgmt.pinsLow.contains pin then s
  else
    let first := s.mgmt.pinsLow.all (fun q => decide (pin < q))
    let s := { s with mgmt := { s.mgmt with pinsLow := pin :: s.mgmt.pinsLow } }
    if first then actPin s else s

/-- An input returns high; one that it outranked acts now, and PERST_N lets the endpoint train. -/
def doPinRelease (s : Block) (pin : Nat) : Block :=
  if !s.mgmt.pinsLow.contains pin then s
  else
    let first := s.mgmt.pinsLow.all (fun q => decide (pin ≤ q))
    let s := { s with mgmt := { s.mgmt with pinsLow := s.mgmt.pinsLow.filter (· != pin), since := s.mgmt.clock } }
    let s := if first then actPin s else s
    if pin = 1 then trainPcie s else s

def pinNum : ResetPin → Nat
  | .mgt => 0
  | .perst => 1
  | .mod => 2

/-! ### Recovery (R22, R23, R71, R180, R331, R336, R402, R435) -/

/-- The crossing class whose measurement lies above its bound. -/
def xingOver (s : Block) (r : Recovery) : Option Nat :=
  (List.range 7).find? (fun i => decide (rd s (Reg.TBS.XING_LAT_BOUND i) < r.xing.getD i 0))

/-- The calibrated latencies; that of class 6 is the behaviour level's (R440) (DEDUCED, log entry 49). -/
def calibrate (s : Block) (r : Recovery) : Block :=
  let s := overN 7 (fun i t => wr t (Reg.TBS.XING_LAT_CAL i) (r.xing.getD i 0)) s
  wr s (Reg.TBS.XING_LAT_CAL 6) (if rd s Reg.MGT.BEHAVIOUR_IN_FORCE = 0xB0 then 3 else 5)

/-- The tier comes up only if every channel is populated and all capacities match. -/
def tierComesUp (r : Recovery) : Bool :=
  (List.range 8).all (fun c => r.pop.getD c 2 == 1 && r.caps.getD c 0 == r.caps.getD 0 0)

def bringDimm (r : Recovery) (c : Nat) (s : Block) : Block :=
  let b := ddrPage c
  let pop := r.pop.getD c 2
  let s := wr (wr s (Reg.DDR.DIMM_STATUS_POP b) pop) (Reg.DDR.DIMM_STATUS_CAP b) (r.caps.getD c 0)
  let s := wr (wr s (Reg.DDR.DIMM_STATUS_RANKS b) (b2n (r.ranks.getD c false))) (Reg.DDR.DIMM_STATUS_TIER_UP b) (b2n (tierComesUp r))
  when (pop != 1) (fun t => raisePage t b ErrBit.DDR.POP_FAULT) s

/-- The slots of enrolled publisher keys and their KEY_ID values (R293). -/
def showKeys (s : Block) : Block :=
  let s := wr s Reg.HDB.KEY_VALID ((List.range 8).foldl (fun m k => if s.mgmt.pubKeys.any (fun p => p.1 == k) then setBit m k true else m) 0)
  overN 8 (fun k t => wr t (Reg.HDB.KEY_ID k) (match t.mgmt.pubKeys.find? (fun p => p.1 == k) with
    | some p => leNat (sha256 p.2)
    | none => 0)) s

/-- The crash directory at the end of recovery: rewritten where it does not hold, and PENDING after a reset that ended a job. -/
def bringDirectory (s : Block) : Block :=
  let s := if !tierUp s then s
    else
      let s := if dirOk s then s else dirFresh s
      match s.mgmt.endedTag with
      | some t => dirPut (dirPut s 8 2 1) 0xA 2 t
      | none => s
  wr { s with mgmt := { s.mgmt with endedTag := none } } Reg.GLB.MODULE_STATE_PENDING
    (b2n (tierUp s && crashNum s 0 8 2 != 0))

/-- DESIGN CHOICE, log entry 5. -/
def bringUp (s : Block) (r : Recovery) : Block :=
  let s := calibrate s r
  let s := wr (wr s Reg.HARV.HARVEST_SRC_SIG_OK 1) Reg.HARV.HARVEST_SRC_BIST_OK 1
  let s := overN 16 (fun c t => wr t (Reg.HARV.HARVEST_MAP_VALID c) 1) s
  let s := overN 12 (fun n t => wr (wr t (Reg.HBM.STACK_STATUS_TRAINED (hbmPage n)) 1) (Reg.HBM.STACK_STATUS_ONLINE (hbmPage n)) 1) s
  let s := overN 8 (bringDimm r) s
  let s := overN 16 (fun c t => wr (wr t (Reg.CLK.FREQ_NOW_NOW (clkPage c)) 130) (Reg.CLK.FREQ_TARGET (clkPage c)) 130) s
  let s := overN 66 (fun n t => wr t (Reg.ENG.STATE_STATE (engBlock (768 + n))) 1) (holdCores s false)
  let s := overN 16 (fun c t => wr t (Reg.CLU.RESET_STATUS_ME (cluPage c)) 0) s
  let s := { wr s Reg.TBS.STATE_SYSREF_PRESENT (b2n r.sysref) with time := { s.time with refPresent := r.refPresent, refAtReset := r.refPresent } }
  let s := bringDirectory (showCap (showKeys s))
  let s := wr (wr (wr s Reg.GLB.MODULE_STATE_MODULE_RESET 0) Reg.GLB.MODULE_STATE_COMPUTE_IN_RESET 0) Reg.PCI.PCI_STATUS_MODULE_RESET 0
  let s := { s with mgmt := { s.mgmt with modReset := false, calOk := true } }
  event (overN 12 enableEffect s) 7 0 0 0

/-- Recovery ends. A measurement over its bound, a failed self-test, a disagreement with the record, a rail or sensor that
cannot be trimmed and an abort of firmware's own are failed boots (R405; DEDUCED, log entry 39) (DEDUCED, log entry 49). -/
def doResetDone (s : Block) (r : Recovery) : Block :=
  if !s.mgmt.modReset ∨ s.mgmt.pinsLow ≠ [] ∨ (s.mgmt.stage ≠ 2 ∧ s.mgmt.stage ≠ 3) then s
  else
    let slot := rd s Reg.MGT.MGT_STATUS_SLOT
    match xingOver s r with
    | some c => failedBoot (raisePage s tbs ErrBit.TBS.XING_CAL_FAIL) 2 0x22 slot c
    | none =>
      if !r.bistOk then failedBoot s 2 0x20 slot r.bistCluster
      else if !r.harvestOk then failedBoot s 2 0x21 slot r.bistCluster
      else match r.trimFail, r.abort with
        | some n, _ => failedBoot s 2 0x23 slot n
        | none, some d => failedBoot s 2 0x31 slot d.toNat
        | none, none => bringUp s r

/-! ### Meanings -/

def execSupplyReset (mv : Nat) := run (fun s => doSupplyReset s mv)
def execThermalReset (point : Fin 64) (degc : Nat) := run (fun s => doThermalReset s point degc)
def execFlr := run doFlr
def execD3hotEntry := run doD3hotEntry
def execPerstN (ns : Nat) := run (fun s => doPinLow s 1 ns)
def execModRstN (ns : Nat) := run (fun s => doPinLow s 2 ns)
def execMgtRstN (ns : Nat) := run (fun s => doPinLow s 0 ns)
def execModuleReset (rq : Option Requester) := run (fun s => doModuleReset s rq)
def execModuleResetDone (r : Recovery) := run (fun s => doResetDone s r)
def execPowerOn := run doPowerOn
def execManagementRestart := run doManagementRestart
def execResetInputRelease (pin : ResetPin) := run (fun s => doPinRelease s (pinNum pin))
def execFlrComplete := run doFlrComplete
def execD3hotExit := run doD3hotExit

end Sys2Proof.Machine
end

