-- ==== Sys2Proof/Machine/HostIf.lean ====
section
/-! DEFINITION. BAR2 windows, staging memory, DMA queues (R353–R358, R97, R100, R179, R243, R244, R334). -/

namespace Sys2Proof.Machine

def pci : Nat := 0x4000
def answer (s : Block) (d : List Byte) : Block := { s with reply := d.map (fun b => b.toNat) }

/-! ### Windows (R353) -/

/-- One sixteenth of BAR2 (R352, R353) (DESIGN CHOICE, log entry 13). -/
def winSize (s : Block) : Nat := 2 ^ (s.pcie.bar2Log - 4)
def winKind (s : Block) (w : Nat) : Nat := rd s (Reg.PCI.WIN_CTRL_KIND w)
def winBase (s : Block) (w : Nat) : Nat := rd s (Reg.PCI.WIN_BASE w)
def winRange (s : Block) : Block := raisePage s pci ErrBit.PCI.WIN_RANGE
def winDenied (s : Block) : Block := raisePage s pci ErrBit.PCI.WIN_DENIED

/-- The engine that WIN_BASE or a descriptor names. -/
def engNamed (v : Nat) : Option Nat := engOfCode (bits v 0 8) (bits v 8 4) (bits v 12 3)

/-- Step table and input area exist on rank 0 only (R356). -/
def stagingLead (s : Block) : Bool := !inJob s || (ream s).rank == 0
def stagingHidden (s : Block) (a : Nat) : Bool := !stagingLead s && (decide (a < 0x21000) || decide (0x400000 ≤ a))

/-- Couch entries, then replay entries, 512 bytes each (R353) (DEDUCED, log entry 43). -/
def linkImage (s : Block) (p off len : Nat) : List Byte :=
  let one := fun (i : Nat) =>
    if i < 1024 then (match (prt s p).couch.find? (fun e => e.1 == i) with
      | some e => slice (Config.linkEntryImage e.2.payload e.2.header) 0 512
      | none => zeros 512)
    else match (prt s p).replayBuf.find? (fun e => e.1 % 1024 == i - 1024) with
      | some e => slice (Config.linkEntryImage e.2 e.1) 0 512
      | none => zeros 512
  slice ((List.range ((off + len + 511) / 512 - off / 512)).flatMap (fun i => one (off / 512 + i))) (off % 512) len

/-- The tag of a window read that crosses the compute die (DEDUCED, log entry 43). -/
def windowTag (a n : Nat) : Nat := 2 ^ 60 + a * 4096 + n

/-- What a host access read: an uncorrectable block is reported, on its unit's page where the access was done at once, for a unit notes what its own
slots meet (R174). -/
def noteRead (s : Block) (a n : Nat) (note : Block → Nat → Block) : Block × Bool :=
  let bad := badBlocks s a (ceilDiv (a % 64 + n) 64)
  (overL bad (fun b t => wsDamage (if mapped t then t else note t b) b) s, !bad.isEmpty)

/-- A read of device memory by read-back: in a job through the reserve, its answer given when the read is asked for again and is back; an
uncorrectable block reads as zeros and is reported (R174, R354, R355; DEDUCED, log entry 43). -/
def readBack (s : Block) (a n : Nat) : Block :=
  let r := sideAccess s false false a n (windowTag a n) []
  match r.2 with
  | none => r.1
  | some d =>
    let t := noteRead r.1 a n (fun t b => match unitOf t b with
      | some u => noteUe t u ErrBit.HBM.UE_SCRUB b
      | none => t)
    answer (when t.2 (fun u => raisePage u pci ErrBit.PCI.WIN_UE) t.1) (cachedView s a d)

/-- DEDUCED, log entry 43. -/
def doWindowRead (s : Block) (off n : Nat) : Block :=
  let w := off / winSize s
  let o := off % winSize s
  let k := winKind s w
  let b := winBase s w
  let within := fun (size : Nat) (d : List Byte) => if o + n ≤ size then answer s d else answer (winRange s) (zeros n)
  if 16 ≤ w ∨ k = 0 ∨ k = 7 then answer s (zeros n)
  else if k = 1 then (if devIn s (b + o) n then readBack s (b + o) n else answer (winRange s) (zeros n))
  else if k = 2 then
    match engNamed b with
    | none => answer (winRange s) (zeros n)
    | some e => within 0x20000
        (slice (imemRead s ((2 * e + activeBank s e) * 65536) 65536 ++ imemRead s ((2 * e + inactiveBank s e) * 65536) 65536) o n)
  else if k = 3 then
    within 0x800000 ((List.range n).map (fun i => if stagingHidden s (o + i) then 0 else Memory.read (stagingAll s) (o + i)))
  else if k = 4 then (if b % 16 < 12 then within 0x100000 (linkImage s (b % 16) o n) else answer (winRange s) (zeros n))
  else if k = 5 then within 0x80000 (rankRead s o n)
  else match engNamed b with
    | none => answer (winRange s) (zeros n)
    | some e => within 2048 (slice (snapshotRead s e) o n)

/-! ### Where host writes may go (R355, R178, R334) -/

def inQuota (s : Block) (a n : Nat) : Bool := hbmPool s != 0 && meets a n (quotaBase s) 0x10000
def inKept (s : Block) (a n : Nat) : Bool := (List.range 16).any (fun r => keptBusy s r && meets a n (rd s (Reg.GLB.KEPT_BASE r)) (keptLen s r))
def inAnyWs (s : Block) (a n : Nat) : Bool := (List.range 4).any (fun d => wsState s d != wsEMPTY && inWs s d a n)

/-- The target permits a host write (DEDUCED, log entry 43). -/
def hostMayWrite (s : Block) (a n : Nat) : Bool :=
  if inJob s then inWindow s a n else !(inCrash s a n || inKept s a n || inAnyWs s a n)

/-- The sample slot whose STATE byte a write covers (DEDUCED, log entry 43). -/
def stateSlot (s : Block) (a n : Nat) : Option Nat :=
  ((List.range 7).map (· + 1)).find? (fun k => decide (a ≤ crashAddr s k 8) && decide (crashAddr s k 8 < a + n) && inCrash s (crashAddr s k 8) 1)

/-- A DEVICE write. Of the crash area it reaches the STATE byte of a sample slot only: 3 holds the slot, 0 frees it (R334) (DEDUCED, log entry 43). -/
def doDeviceWrite (s : Block) (off : Nat) (d : List Byte) : Block :=
  let w := off / winSize s
  let a := winBase s w + off % winSize s
  let n := d.length
  if 16 ≤ w ∨ winKind s w ≠ 1 then s
  else if !devIn s a n then winRange s
  else if !flag s (Reg.PCI.WIN_CTRL_WRITE w) then winDenied s
  else if inQuota s a n then raisePage s (hbmPage 0) ErrBit.HBM.QUOTA_WRITE
  else match stateSlot s a n with
    | some k =>
      let v := (d.getD (crashAddr s k 8 - a) 0).toNat
      let s := if (v = 0 ∨ v = 3) ∧ 2 ≤ slotState s k then devWrite s (crashAddr s k 8) (natLe 1 v) else s
      if n = 1 then s else winDenied s
    | none => if hostMayWrite s a n then outsideWrite s a d else winDenied s

/-- The alias of R97: the first 64 KiB of the window name the active bank. -/
def doImemWindow (s : Block) (e off : Nat) (d : List Byte) : Block :=
  if 0x20000 < off + d.length then winRange s
  else if off < 0x10000 then raise s (engRec e) ErrBit.ENG.IMEM_ACTIVE_WRITE
  else aliasWrite s e (off - 0x10000) d

def doStagingWrite (s : Block) (off : Nat) (d : List Byte) : Block :=
  if 0x800000 < off + d.length then winRange s
  else if stagingLead s then stagingHost s off d
  else
    let lo := max off 0x21000
    stagingHost s lo ((d.drop (lo - off)).take (0x400000 - lo))

/-- The inactive version of the rank table; for 1 ms after a flip it takes nothing. -/
def doNetifWrite (s : Block) (off : Nat) (d : List Byte) : Block :=
  let base := (1 - activeTable s) * 0x40000
  if 0x80000 < off + d.length then winRange s
  else
    let lo := max off base
    let part := (d.drop (lo - off)).take (base + 0x40000 - lo)
    if part = [] then s
    else if flag s Reg.NI.NI_TABLE_TAIL then raisePage s niPg ErrBit.NI.RT_TAIL_WRITE
    else wr (rankWrite s lo part) Reg.NI.NI_TABLE_READY 0

/-! ### DMA queues (R357, R358) -/

def qLen (s : Block) (q : Nat) : Nat := ringLen 6 (rd s (Reg.PCI.Q_CTRL_LOG2_ENTRIES q))
def dmaOf (s : Block) (q : Nat) : List Dma := Tab.get s.pcie.dma [] q
def setDma (s : Block) (q : Nat) (l : List Dma) : Block := { s with pcie := { s.pcie with dma := Tab.put s.pcie.dma [] q l } }

def Dma.op (x : Dma) : Nat := fieldLe x.desc 0 1
def Dma.flags (x : Dma) : Nat := fieldLe x.desc 1 1
def Dma.len (x : Dma) : Nat := fieldLe x.desc 4 4
def Dma.host (x : Dma) : Nat := fieldLe x.desc 8 8
def Dma.dev (x : Dma) : Nat := fieldLe x.desc 16 6

/-- An operation of the table; others complete with DENIED. -/
def knownDma (op : Nat) : Bool := decide (1 ≤ op) && decide (op ≤ 4)

/-- The descriptor at the head of the ring is read. -/
def fetchDma (s : Block) (q : Nat) : Dma :=
  let h := rd s (Reg.PCI.Q_HEAD q)
  let d := hostRead s (rd s (Reg.PCI.Q_BASE q) + 32 * h) 32
  ⟨h, d, if knownDma (fieldLe d 0 1) then none else some stDENIED, 0, none⟩

/-- The next descriptor starts: at most 16 at once, a FENCE after every earlier one. -/
def startOne (q : Nat) (s : Block) : Block :=
  let l := dmaOf s q
  let x := fetchDma s q
  if !flag s (Reg.PCI.Q_CTRL_ENABLE q) || rd s (Reg.PCI.Q_HEAD q) == rd s (Reg.PCI.Q_TAIL q) % qLen s q || decide (16 ≤ l.length) ||
      (bit x.flags 1 && !l.isEmpty) then s
  else wr (setDma s q (l ++ [x])) (Reg.PCI.Q_HEAD q) ((x.index + 1) % qLen s q)

def startDma (q : Nat) (s : Block) : Block := overN 16 (fun _ t => startOne q t) s

def doQTail (s : Block) (rq : Requester) (q v : Nat) : Block :=
  writeWord s rq (pci + 0x214 + 32 * q) v (fun _ t => startDma q t)

/-- The oldest descriptor of an operation whose data has not moved. -/
def nextDma (s : Block) (q op : Nat) : Option Dma := (dmaOf s q).find? (fun x => x.op == op && x.status == none)

def setOne (s : Block) (q : Nat) (x : Dma) : Block := setDma s q ((dmaOf s q).map (fun y => if y.index = x.index then x else y))

/-- The descriptor's data has moved, or it ends with an error. -/
def endDma (s : Block) (q : Nat) (x : Dma) (status moved : Nat) : Block := setOne s q { x with status := some status, moved := moved }

def lenOk (n : Nat) : Bool := n % 32 == 0 && decide (32 ≤ n) && decide (n ≤ 2 ^ 24)

/-- DEDUCED, log entry 44. -/
def doH2d (s : Block) (q : Nat) (fault_ : Bool) : Block :=
  match nextDma s q 1 with
  | none => s
  | some x =>
    let a := x.dev
    let n := x.len
    if !lenOk n || !devIn s a n then endDma s q x stRANGE 0
    else if fault_ then endDma s q x 8 0
    else if inQuota s a n then endDma (raisePage s (hbmPage 0) ErrBit.HBM.QUOTA_WRITE) q x stDENIED 0
    else if !hostMayWrite s a n then endDma s q x stDENIED 0
    else
      let g := hostAccess s true a n (dmaTag q x.index) (hostRead s x.host n)
      if g.2.isSome then endDma g.1 q x stOK n else g.1

/-- DEDUCED, log entry 44. -/
def doD2h (s : Block) (q : Nat) (fault_ : Bool) : Block :=
  match nextDma s q 2 with
  | none => s
  | some x =>
    let a := x.dev
    let n := x.len
    if !lenOk n || !devIn s a n then endDma s q x stRANGE 0
    else if fault_ then endDma s q x 8 0
    else
      let g := hostAccess s false a n (dmaTag q x.index) []
      match g.2 with
      | none => g.1
      | some d =>
        let t := noteRead g.1 a n noteHostUe
        endDma (hostWrite t.1 x.host d) q x (if t.2 then stUNCORRECTABLE else stOK) n

/-- The answer of a REMOTE_READ lands in host memory. -/
def settleRemote (s : Block) (q : Nat) (x : Dma) (token : Nat) : Block :=
  match answered s token with
  | none => s
  | some r =>
    let st := r.done.getD stOK
    let s := dropRequest s token
    if st = stOK ∨ st = stUNCORRECTABLE then endDma (hostWrite s x.host (slice r.data 0 x.len)) q x st x.len else endDma s q x st 0

/-- The service READ leaves; once answered, its data lands (DEDUCED, log entry 32; DEDUCED, log entry 44). -/
def doRemoteRead (s : Block) (q : Nat) : Block :=
  match nextDma s q 3 with
  | none => s
  | some x =>
    match x.token with
    | some t => settleRemote s q x t
    | none =>
      if x.len % 32 ≠ 0 ∨ x.len < 32 ∨ 2048 < x.len then endDma s q x stRANGE 0
      else
        let r := originate s svREAD (fieldLe x.desc 2 2) x.dev x.len [] (1000 + q) none
        setOne r.1 q { x with token := some r.2 }

def doImemH2d (s : Block) (q : Nat) (fault_ : Bool) : Block :=
  match nextDma s q 4 with
  | none => s
  | some x =>
    let off := bits x.dev 16 16
    match engNamed x.dev with
    | none => endDma s q x stRANGE 0
    | some e =>
      if !lenOk x.len || decide (65536 < off + x.len) then endDma s q x stRANGE 0
      else if fault_ then endDma s q x 8 0
      else endDma (aliasWrite s e off (hostRead s x.host x.len)) q x stOK x.len

/-- A completion entry is written: in ring order, with the phase of its lap. -/
def complete (s : Block) (q : Nat) (x : Dma) (status : Nat) : Block :=
  let n := qLen s q
  let c := rd s (Reg.PCI.Q_DONE q)
  let e := slice x.desc 24 8 ++ natLe 1 status ++ natLe 1 (c / n % 2) ++ zeros 2 ++ natLe 4 x.moved
  let s := incMod (hostWrite s (rd s (Reg.PCI.Q_CPL q) + 16 * (c % n)) e) (Reg.PCI.Q_DONE q) 1
  let s := when (status != stOK) (fun t => raisePage t pci ErrBit.PCI.DMA_ERROR) s
  let s := when (status == 8) (fun t => raisePage t pci ErrBit.PCI.HOST_FAULT) s
  when (bit x.flags 0) (fun t => msix t (3 + q)) s

/-- The oldest descriptor of a queue completes, if its data has moved; the next ones start. -/
def doDmaComplete (s : Block) (q : Nat) : Block :=
  match dmaOf s q with
  | [] => startDma q s
  | x :: r =>
    match x.status with
    | some st => startDma q (complete (setDma s q r) q x st)
    | none => s

/-- The unstarted descriptors of a queue: each completes with NOT_BEGUN, after those in progress. -/
def unstarted (q : Nat) : Nat → Block → Block
  | 0, s => s
  | n + 1, s =>
    if rd s (Reg.PCI.Q_HEAD q) = rd s (Reg.PCI.Q_TAIL q) % qLen s q then s
    else
      let x := fetchDma s q
      unstarted q n (wr (setDma s q (dmaOf s q ++ [{ x with status := some 9 }])) (Reg.PCI.Q_HEAD q) ((x.index + 1) % qLen s q))

/-- DEDUCED, log entry 44. -/
def disableQueue (s : Block) (q : Nat) : Block := unstarted q 65536 (wr s (Reg.PCI.Q_CTRL_ENABLE q) 0)

def doQDisable (s : Block) (q : Nat) : Block := if flag s (Reg.PCI.Q_CTRL_ENABLE q) then disableQueue s q else s

/-! ### Meanings -/

def execDeviceWindowRead (off len : Nat) := run (fun s => doWindowRead s off len)
def execDeviceWindowWrite (off : Nat) (data : List Byte) := run (fun s => doDeviceWrite s off data)
def execImemWindowWrite (e : EngineId) (off : Nat) (data : List Byte) := run (fun s => doImemWindow s (engNum e) off data)
def execStagingWrite (off : Nat) (data : List Byte) := run (fun s => doStagingWrite s off data)
def execNetifWindowWrite (off : Nat) (data : List Byte) := run (fun s => doNetifWrite s off data)
def execQTailWrite (rq : Requester) (q : Fin 8) (v : BitVec 32) := run (fun s => doQTail s rq q v.toNat)
def execH2d (q : Fin 8) (hostFault : Bool) := run (fun s => doH2d s q hostFault)
def execD2h (q : Fin 8) (hostFault : Bool) := run (fun s => doD2h s q hostFault)
def execRemoteRead (q : Fin 8) := run (fun s => doRemoteRead s q)
def execImemH2d (q : Fin 8) (hostFault : Bool) := run (fun s => doImemH2d s q hostFault)
def execDmaComplete (q : Fin 8) := run (fun s => doDmaComplete s q)
def execQDisable (rq : Requester) (q : Fin 8) := run (fun s => match rq with
  | .host => doQDisable s q
  | .mgt => doQDisable s q)

end Sys2Proof.Machine
end

