-- ==== Sys2Proof/Machine/Load.lean ====
section
/-! DEFINITION. Loading a ream: the container, the checks at load in code order, what a load writes, DISCARD (R364, R416–R421). -/

namespace Sys2Proof.Machine

/-! ### The container (R416, R417) -/

/-- A directory entry. -/
structure DirEnt where
  kind : Nat
  zeros : Nat
  off : Nat
  len : Nat
  crc : Nat
deriving DecidableEq, Repr

def dirEntAt (b : List Byte) (i : Nat) : DirEnt :=
  let a := 256 + 32 * i
  ⟨fieldLe b a 2, fieldLe b (a + 2) 2 + fieldLe b (a + 28) 4, fieldLe b (a + 8) 8, fieldLe b (a + 16) 8, fieldLe b (a + 24) 4⟩

def hdrFloor (b : List Byte) : Nat := fieldLe b 0x0A 1
def hdrDeckle (b : List Byte) : Nat := fieldLe b 0x0B 1
def hdrCycle (b : List Byte) : Nat := fieldLe b 0x0C 2
def hdrMode (b : List Byte) : Nat := fieldLe b 0x0E 1
def hdrVariants (b : List Byte) : Nat := fieldLe b 0x0F 1
def hdrTag (b : List Byte) : Nat := fieldLe b 8 2
def hdrJobSize (b : List Byte) : Nat := fieldLe b 0x10 4
def hdrRank (b : List Byte) : Nat := fieldLe b 0x14 4
def hdrSections (b : List Byte) : Nat := fieldLe b 0x18 4

/-- The entries that lie within the image. -/
def directory (b : List Byte) : List DirEnt := (List.range (min (hdrSections b) ((b.length - 256) / 32))).map (dirEntAt b)

/-- The bytes of a section. -/
def sectionBytes (b : List Byte) (x : DirEnt) : List Byte := (b.drop x.off).take x.len

/-- The section of a kind; empty where the image has none. -/
def part (b : List Byte) (kind : Nat) : List Byte :=
  match (directory b).find? (fun x => x.kind == kind) with
  | some x => sectionBytes b x
  | none => []

/-- The 0-based number of the first entry of a list that is bad. -/
def firstBad {α : Type} (l : List α) (bad : Nat → α → Bool) : Option Nat := (l.zipIdx.find? (fun p => bad p.2 p.1)).map (fun p => p.2)

/-- Records of n bytes. -/
def records (n : Nat) (b : List Byte) : List (List Byte) := (List.range (b.length / n)).map (fun i => (b.drop (n * i)).take n)

/-! ### The sections (R417–R420) -/

def sheetEnts (b : List Byte) : List SheetEnt :=
  (records 16 (part b 2)).map (fun e => ⟨fieldLe e 0 2, fieldLe e 2 1, fieldLe e 3 1⟩)
/-- The sheet cycle of each variant. -/
def cycles (b : List Byte) : List (List SheetEnt) :=
  (List.range (hdrVariants b)).map (fun v => ((sheetEnts b).drop (hdrCycle b * v)).take (hdrCycle b))
def cycle0 (b : List Byte) : List SheetEnt := (cycles b).getD 0 []
def shortestOf (b : List Byte) : Nat := ((cycle0 b).map (fun e => e.blocks)).foldl min 1024

def partFwdOnly (b : List Byte) : Bool := bit (fieldLe (part b 1) 2 2) 0
def partPorts (b : List Byte) : Nat := fieldLe (part b 1) 4 2
def partBudget (b : List Byte) (p : Nat) : Nat := fieldLe (part b 1) (8 + 2 * p) 2
def partN (b : List Byte) (p : Nat) : Nat := fieldLe (part b 1) (32 + p) 1
def partCores (b : List Byte) (c : Nat) : Nat := fieldLe (part b 1) (44 + c) 1
def partEngines (b : List Byte) (k : Nat) : Nat := fieldLe (part b 1) (60 + k) 1

def tokenMasks (b : List Byte) : List Nat := (records 48 (part b 3)).map leNat
/-- The move map's code of slot j of a unit in a cycle entry. -/
def moveCode (b : List Byte) (e u j : Nat) : Nat := bits (fieldLe (part b 4) (48 * (20 * e + u) + j / 4) 1) (2 * (j % 4)) 2

/-- An engine image (R418). -/
structure Image where
  code : Nat
  cl : Nat
  core : Nat
  bank : Nat
  ref : Nat
  deadline : Nat
  grace : Nat
  version : Nat
  ops : List Byte
deriving DecidableEq, Repr

def imageAt (b : List Byte) : Image :=
  ⟨fieldLe b 0 1, fieldLe b 1 1, fieldLe b 2 1, fieldLe b 3 1, fieldLe b 8 4, fieldLe b 12 4, fieldLe b 16 4, fieldLe b 20 4,
    (b.drop 32).take (fieldLe b 4 4)⟩

/-- The images of a section, one after another; none where the last does not end with the section. -/
def parseImages : Nat → List Byte → Option (List Image)
  | 0, b => if b.isEmpty then some [] else none
  | n + 1, b =>
    let size := 32 + fieldLe b 4 4
    if b.isEmpty then some []
    else if b.length < 32 ∨ b.length < size then none
    else (parseImages n (b.drop size)).map (fun r => imageAt b :: r)

def images? (b : List Byte) : Option (List Image) := parseImages ((part b 5).length / 32 + 1) (part b 5)
def images (b : List Byte) : List Image := (images? b).getD []
/-- The engine an image names, if one takes an image. -/
def Image.engine (i : Image) : Option Nat := if i.code = 0x20 ∨ i.code = 0x21 then none else engOfCode i.code i.cl i.core

/-- A DATA entry (R417). -/
structure DataEnt where
  range : Nat
  off : Nat
  bytes : List Byte
deriving DecidableEq, Repr

def parseData : Nat → List Byte → Option (List DataEnt)
  | 0, b => if b.isEmpty then some [] else none
  | n + 1, b =>
    let size := 16 + fieldLe b 12 4
    if b.isEmpty then some []
    else if b.length < 16 ∨ b.length < size then none
    else (parseData n (b.drop size)).map (fun r => ⟨fieldLe b 0 4, fieldLe b 4 8, (b.drop 16).take (fieldLe b 12 4)⟩ :: r)

def dataEnts? (b : List Byte) : Option (List DataEnt) := parseData ((part b 0x0B).length / 16 + 1) (part b 0x0B)
def dataEnts (b : List Byte) : List DataEnt := (dataEnts? b).getD []

/-- The unit of a range: HBM stacks 0–11, DDR5 channels 12–19. -/
def rangeUnit (r : Range) : Nat := if r.tier = 0 then r.unit else 12 + r.unit
def ranges (b : List Byte) : List Range :=
  (records 32 (part b 7)).map (fun r =>
    let u := fieldLe r 2 2
    ⟨fieldLe r 0 1, fieldLe r 1 1, u, unitBase (if fieldLe r 1 1 = 0 then u else 12 + u) + fieldLe r 4 8, fieldLe r 12 8⟩)
/-- The base offset a range gives within its unit. -/
def rangeOff (r : Range) : Nat := r.base - unitBase (rangeUnit r)

def powerGroups (b : List Byte) : Nat := fieldLe (part b 9) 2 2

/-- A REG_INIT entry: BAR0 offset, value, mask. -/
def regInits (b : List Byte) : List (Nat × Nat × Nat) :=
  (records 12 (part b 6)).map (fun e => (fieldLe e 0 4, fieldLe e 4 4, fieldLe e 8 4))

/-! ### What a load writes (R364, R417, R418) -/

/-- A field written under a mask. -/
structure Poke where
  f : Field
  v : Nat
  mask : Nat
deriving DecidableEq, Repr

def poke (p : Poke) (s : Block) : Block := wr s p.f (rd s p.f - (rd s p.f &&& p.mask) + (p.v &&& p.mask))
def whole (f : Field) (v : Nat) : Poke := ⟨f, v % 2 ^ f.width, 2 ^ f.width - 1⟩

/-- The masks, budgets, retransmission counts and droop budgets of the part, and the route seed (R195, R201, R316). -/
def partPokes (b : List Byte) : List Poke :=
  (List.range 16).flatMap (fun c =>
    [whole (Reg.CLU.CORE_MASK_CORES (cluPage c)) (partCores b c),
     whole (Reg.CLK.DROOP_BUDGET (clkPage c)) (fieldLe (part b 9) (12 + 2 * c) 2)]) ++
  (List.range 96).map (fun k => whole (Reg.COR.ENGINE_MASK_MASK (corPage (k / 6) (k % 6))) (partEngines b k)) ++
  (List.range 12).flatMap (fun p =>
    let fb := partBudget b p
    let a := partN b p * (2 * fb + 36)
    [whole (Reg.PRT.FLIGHT_BUDGET (prtPage p)) fb, whole (Reg.PRT.RELEASE_N (prtPage p)) (partN b p),
     whole (Reg.PRT.RELEASE_ALLOW (prtPage p)) a, whole (Reg.PRT.RELEASE_OFFSET (prtPage p)) (fb + a + 32),
     whole (Reg.SLT.SEED (sltPage p)) (fieldLe b 0x20 8)])

/-- The engine registers that an image sets (R418): a preloaded bank is READY, its CRC having passed the check of R98. -/
def imagePokes (i : Image) : List Poke :=
  match i.engine with
  | none => []
  | some n =>
    let e := engBlock n
    if i.bank = 0 then
      [whole (Reg.ENG.ACTIVE_LEN e) i.ops.length, whole (Reg.ENG.DEADLINE e) i.deadline, whole (Reg.ENG.GRACE e) i.grace]
    else
      [whole (Reg.ENG.IMEM_LEN e) i.ops.length, whole (Reg.ENG.IMEM_REF e) i.ref, whole (Reg.ENG.IMEM_VER e) i.version,
       whole (Reg.ENG.IMEM_CRC e) i.ref, whole (Reg.ENG.BANK_CTRL_FLIP_SEL e) 1, whole (Reg.ENG.BANK_CTRL_READY e) 1]

/-- The writes of a REG_INIT entry: the stored fields of the word it names. -/
def initPokes (e : Nat × Nat × Nat) : List Poke :=
  ((fieldsAt e.1).filter (fun p => p.1.kind == .rw)).map (fun p =>
    ⟨p.1, bits e.2.1 (wordLsb p.1) (wordWidth p.1 p.2) * 2 ^ (32 * p.2), bits e.2.2 (wordLsb p.1) (wordWidth p.1 p.2) * 2 ^ (32 * p.2)⟩)

def loadPokes (b : List Byte) : List Poke := partPokes b ++ (images b).flatMap imagePokes ++ (regInits b).flatMap initPokes

/-- Where an image's bank begins in instruction memory: BANK 0 is the bank active at T0. -/
def imageBank (s : Block) (i : Image) (n : Nat) : Nat := (2 * n + (rd s (Reg.ENG.STATE_ACTIVE_BANK (engBlock n)) + i.bank) % 2) * 65536

/-- DEDUCED, log entry 47. -/
def writeImage (i : Image) (s : Block) : Block :=
  match i.engine with
  | some n => imemWr s (imageBank s i n) i.ops
  | none => s

def rangeOf (b : List Byte) (i : Nat) : Range := (ranges b).getD i ⟨0, 0, 0, 0, 0⟩
def writeData (b : List Byte) (d : DataEnt) (s : Block) : Block := devWrite s ((rangeOf b d.range).base + d.off) d.bytes

/-- What load keeps of the ream. -/
def reamOf (b : List Byte) : Ream :=
  let pw := part b 9
  { tag := hdrTag b, floor := hdrFloor b, deckle := hdrDeckle b, mode := hdrMode b, variants := hdrVariants b, rank := hdrRank b,
    initialSet := fieldLe b 0x1C 1, portMask := partPorts b, jobSize := hdrJobSize b,
    budgets := (List.range 12).map (fun p => (partBudget b p, partN b p)), fwdOnly := partFwdOnly b, cycle := cycle0 b, copies := cycles b,
    tokens := tokenMasks b, moveMap := part b 4, ranges := ranges b, serving := part b 8, genSeed := fieldLe b 0x28 8,
    groups := fieldLe pw 2 2, loanGroup := fieldLe pw 0 2, critical := bit (fieldLe pw 4 1) 0, shelf := fieldLe pw 8 4,
    digest := sha256 b, loadsEngines := ((images b).filter (fun i => i.bank == 0)).filterMap Image.engine }

/-- The pages whose configuration fields a load writes keep their parity (R385). -/
def pokedPages (b : List Byte) : List Nat := ((loadPokes b).map (fun p => pageOf p.f.addr)).eraseDups

/-- A REG_INIT entry takes effect; one that would make a token region break its space or meet another is ignored as any write is (R88, R113). -/
def initWrite (e : Nat × Nat × Nat) (s : Block) : Block :=
  let old := readWord s e.1
  let v := old - (old &&& e.2.2) + (e.2.1 &&& e.2.2)
  match tableReg e.1 with
  | some (k, i) => if k < 2 ∧ regionRefused s e.1 k i v then raisePage s (pageOf e.1) ErrBit.COR.TOKEN_OVERLAP else overL (initPokes e) poke s
  | none => overL (initPokes e) poke s

def install (s : Block) (b : List Byte) : Block :=
  let s := { s with plan := { s.plan with ream := some (reamOf b), variant := 0 } }
  let s := overL (regInits b) initWrite (overL (partPokes b ++ (images b).flatMap imagePokes) poke s)
  let s := overL (dataEnts b) (writeData b) (overL (images b) writeImage s)
  overN 12 (fun p t => updateMargin t p) (overL (pokedPages b) (fun g t => reparity t g) s)

/-- Nothing of a refused image stays: banks, registers and DATA return to their reset values (R421). -/
def uninstall (s : Block) (b : List Byte) : Block :=
  let s := overL (loadPokes b) (fun p t => toReset t p.f) { s with plan := { s.plan with ream := none } }
  let s := overL (images b) (fun i t =>
    match i.engine with
    | some n => imemZero t (imageBank t i n) (imageBank t i n + 65536)
    | none => t) s
  let s := overL (dataEnts b) (fun d t => let a := (rangeOf b d.range).base + d.off; devZero t a (a + d.bytes.length)) s
  overN 12 (fun p t => updateMargin t p) s

/-! ### The checks of R421, each with the DETAIL of its failure -/

/-- 0x01 (DEDUCED, log entry 47). -/
def badHeader (b : List Byte) : Option Nat :=
  if fieldLe b 0 4 = 0x4D414552 ∧ fieldLe b 4 2 = 1 ∧ fieldLe b 6 1 = 2 ∧ 256 ≤ b.length ∧ fieldLe b 0xFC 4 = crc32c (b.take 0xFC) ∧
    fieldLe b 0x1D 3 = 0 ∧ allZero (slice b 0x50 172) = true ∧ hdrRank b < hdrJobSize b ∧ hdrJobSize b ≤ 65536 ∧ 1 ≤ hdrTag b ∧
    hdrMode b ≤ 2 ∧ 1 ≤ hdrVariants b ∧ hdrVariants b ≤ (if hdrMode b = 2 then 4 else 1)
  then none else some 0

/-- 0x02. -/
def badBehaviour (s : Block) (b : List Byte) : Option Nat :=
  if rd s Reg.MGT.BEHAVIOUR_IN_FORCE < fieldLe b 7 1 then some (fieldLe b 7 1) else none

/-- A section's LENGTH is the one its kind, the header and the cycle fix. -/
def sizeOk (b : List Byte) (x : DirEnt) : Bool :=
  let c := hdrCycle b
  match x.kind with
  | 1 => x.len == 156
  | 2 => x.len == 16 * c * hdrVariants b
  | 3 => x.len == 48 * c
  | 4 => x.len == 960 * c
  | 5 => (images? b).isSome
  | 6 => x.len % 12 == 0
  | 7 => x.len % 32 == 0
  | 8 => true
  | 9 => x.len == 44
  | 10 => x.len % 24 == 0
  | 11 => (dataEnts? b).isSome
  | _ => false

def badSection (b : List Byte) (i : Nat) (x : DirEnt) : Bool :=
  let before := (directory b).take i
  decide (x.kind = 0) || decide (0x0B < x.kind) || x.zeros != 0 || x.off % 256 != 0 || decide (b.length < x.off + x.len) ||
  decide (x.off < 256 + 32 * hdrSections b) || before.any (fun y => y.kind == x.kind || meets x.off x.len y.off y.len) || !sizeOk b x

/-- 0x03: a missing section has no entry, and shows the number of entries (DEDUCED, log entry 47). -/
def badSections (b : List Byte) : Option Nat :=
  let d := directory b
  match firstBad d (badSection b) with
  | some i => some i
  | none =>
    if d.length < hdrSections b then some d.length
    else if ([1, 2, 3, 4, 5, 7, 9] ++ (if hdrMode b = 0 then [] else [8])).all (fun k => d.any (fun x => x.kind == k)) then none
    else some d.length

/-- 0x04. -/
def badCrc (b : List Byte) : Option Nat := firstBad (directory b) (fun _ x => crc32c (sectionBytes b x) != x.crc)

/-- A relocation record's value lies in the range of its kind (R420) (DEDUCED, log entry 47). -/
def relocOk (b : List Byte) (r : List Byte) (v : Nat) : Bool :=
  let g := rangeOf b (fieldLe r 8 4)
  let known := decide (fieldLe r 8 4 < (ranges b).length)
  match fieldLe r 2 1 with
  | 1 => known && decide (g.base ≤ v) && decide (v < g.base + g.len)
  | 2 => known && decide (g.base ≤ 256 * v) && decide (256 * v < g.base + g.len)
  | 3 => v == hdrTag b && decide (1 ≤ v) && decide (v ≤ 65535)
  | 4 => decide (v < hdrJobSize b)
  | 5 => decide (v < powerGroups b)
  | 6 => decide (1 ≤ v) && decide (v ≤ 1048575)
  | _ => false

/-- 0x05. -/
def badReloc (b : List Byte) : Option Nat :=
  firstBad (records 24 (part b 0x0A)) (fun _ r =>
    let w := fieldLe r 3 1
    let o := fieldLe r 4 4
    match (directory b)[fieldLe r 0 2]? with
    | none => true
    | some x => !(w == 2 || w == 4 || w == 6 || w == 8) || decide (x.len < o + w) || !relocOk b r (fieldLe b (x.off + o) w))

/-- 0x06. -/
def badCycle (b : List Byte) : Option Nat :=
  if hdrCycle b = 0 ∨ 4096 < hdrCycle b then some 0
  else firstBad (cycle0 b) (fun i e => (cycles b).any (fun c =>
    let x := c.getD i ⟨0, 0, 0⟩
    decide (x.blocks < 4) || decide (1024 < x.blocks) || decide (64 < x.lightQ) || x.blocks != e.blocks || bit x.flags 0 != bit e.flags 0))

/-- 0x07. -/
def badFloor (b : List Byte) : Option Nat := if hdrFloor b < 80 ∨ 130 < hdrFloor b then some 0 else none

/-- How many members follow one another from a coordinate along an axis, until one is absent or the line closes. -/
def memberRun (s : Block) (ms : List Nat) (start a : Nat) : Nat → Nat → Nat
  | 0, _ => 0
  | f + 1, c => let n := stepCoord s c a true; if n != start && ms.contains n then 1 + memberRun s ms start a f n else 0

/-- The most hops of a line multicast on any line of an axis: half a closed ring; on an open line, its length. Before the rank table is loaded
the ring stands for the lines (DEDUCED, log entry 47). -/
def mostHops (s : Block) (a : Nat) : Nat :=
  let r := ringOf s a
  let ms := members s (activeTable s)
  if ms.isEmpty then r / 2
  else ((ms.map (fun c => memberRun s ms c a 64 c)).map (fun k => if k + 1 = r then r / 2 else k)).foldl max 0

/-- P of R37: over the axes, the most hops, each the largest calibrated flight of the axis's job ports and 16 pt (DEDUCED, log entry 47). -/
def propagation (s : Block) (b : List Byte) : Nat :=
  if hdrJobSize b = 1 then 0
  else ((List.range 3).map (fun a =>
    let fl := ((List.range 4).map (fun i => 4 * a + i)).filter (fun p => bit (partPorts b) p && flag s (Reg.PRT.FLIGHT_VALID (prtPage p)))
    if fl.isEmpty then 0 else mostHops s a * ((fl.map (fun p => rd s (Reg.PRT.FLIGHT_CAL (prtPage p)))).foldl max 0 + 16))).foldl (· + ·) 0

/-- 0x08. -/
def badDeckle (s : Block) (b : List Byte) : Option Nat :=
  let d := hdrDeckle b
  let p := propagation s b
  if d < 1 ∨ 16 < d ∨ shortestOf b < 4 * d ∨ 1024 * d < 2 * p then some (ceilDiv p 1024) else none

/-- A use may lie in a tier (R419). -/
def tierOk (use tier : Nat) : Bool :=
  (tier == 0 && [0, 1, 2, 3, 4, 6, 7, 8, 10].contains use) || (tier == 1 && [0, 5, 7, 9, 10].contains use)

/-- Ranges of use 1 are no device ranges, and an empty range meets none. -/
def rangesMeet (g h : Range) : Bool := g.use != 1 && h.use != 1 && g.len != 0 && h.len != 0 && meets g.base g.len h.base h.len

def badRange (s : Block) (b : List Byte) (i : Nat) (g : Range) : Bool :=
  !tierOk g.use g.tier || decide ((if g.tier = 0 then 12 else 8) ≤ g.unit) ||
  (g.use != 1 && (decide (unitSize s (rangeUnit g) < rangeOff g + g.len) || (g.len != 0 && inCrash s g.base g.len) ||
    ((ranges b).take i).any (fun h => h.use != g.use && rangesMeet g h)))

/-- The span a pool takes in a unit: its base, and its length there. -/
def poolSpanAt (pages off units u : Nat) : Nat × Nat := (unitBase (if units = 12 then u else 12 + u) + off, 65536 * ((pages + units - 1 - u) / units))

/-- A pool of R176: the range of another use that it meets, or 0xFFFF where it breaks the rule otherwise. -/
def badPool (s : Block) (b : List Byte) (pages off units use : Nat) : Option Nat :=
  let spans := (List.range units).map (poolSpanAt pages off units)
  match firstBad (ranges b) (fun _ g => g.use != use && spans.any (fun p => rangesMeet g ⟨use, 0, 0, p.1, p.2⟩)) with
  | some i => some i
  | none =>
    if pages ≠ 0 ∧ (off % 65536 ≠ 0 ∨ ((List.range units).zip spans).any (fun p => p.2.2 != 0 &&
      (decide (unitSize s (if units = 12 then p.1 else 12 + p.1) < off + p.2.2) || inCrash s p.2.1 p.2.2)) = true)
    then some 0xFFFF else none

/-- 0x09: the pools are those that REG_INIT leaves (DEDUCED, log entry 47). -/
def badRanges (s : Block) (b : List Byte) : Option Nat :=
  let t := overL ((regInits b).flatMap initPokes) poke s
  match firstBad (ranges b) (badRange s b) with
  | some i => some i
  | none =>
    match badPool s b (hbmPool t) (rd t (Reg.HBM.POOL_OFFSET (hbmPage 0))) 12 8 with
    | some d => some d
    | none => badPool s b (ddrPool t) (rd t (Reg.DDR.POOL_OFFSET (ddrPage 0))) 8 9

/-- 0x0A. -/
def badTier (s : Block) (b : List Byte) : Option Nat :=
  if (ranges b).any (fun g => g.tier == 1) ∧ flag s (Reg.DDR.DIMM_STATUS_TIER_UP (ddrPage 0)) = false then some 0 else none

/-- The operations of a list of bytes. -/
def opWords (b : List Byte) : List Nat := (records 16 b).map leNat
def imageOps (i : Image) : List SlotOp := expandFrom [] 0 0 (opWords i.ops)

/-- Some sheet with this cycle entry runs a tier engine's image: before the first instruction-bank flip the active bank, between the first
and the second the preloaded one. -/
def runsIn (b : List Byte) (i : Image) (e : Nat) : Bool :=
  let c := cycle0 b
  let preloaded := (images b).any (fun j => j.engine == i.engine && j.bank == 1)
  if !preloaded then true
  else (List.range (2 * c.length)).any (fun n => n % c.length == e &&
    ((List.range n).filter (fun m => bit (c.getD ((m + 1) % c.length) ⟨0, 0, 0⟩).flags 2)).length == i.bank)

/-- 0x0B: a slot both scheduled by a tier engine's image and given a class (DEDUCED, log entry 47). -/
def badMoveMap (b : List Byte) : Option Nat :=
  let tiers := (images b).filterMap (fun i => match i.engine with
    | some n => if engIsTier n then some (i, n - 782, imageOps i) else none
    | none => none)
  firstBad (cycle0 b) (fun e x => tiers.any (fun t => runsIn b t.1 e && (List.range (190 * x.blocks)).any (fun j =>
    moveCode b e t.2.1 (j % 190) != 0 && t.2.2.any (fun o => isTierOp o.word && o.names j))))

/-- 0x0C. -/
def badTokens (s : Block) (b : List Byte) : Option Nat :=
  firstBad (tokenMasks b) (fun _ m => decide (tokenPool (rd s Reg.PWR.CAP) < popcount 384 m))

/-- 0x0D: the first pass of the cycle binds, since schedule time only grows. -/
def badRamp (b : List Byte) : Option Nat :=
  firstBad (tokenMasks b) (fun i m =>
    decide ((((cycle0 b).take i).map (fun e => 1024 * e.blocks)).foldl (· + ·) 0 / 32500 < popcount 384 m))

/-- 0x0E. -/
def badImem (b : List Byte) : Option Nat :=
  firstBad (images b) (fun _ i => decide (65536 < i.ops.length) || i.ops.length % 16 != 0 || crc32c i.ops != i.ref)

/-- 0x0F. -/
def badEngine (b : List Byte) : Option Nat :=
  if partFwdOnly b = true ∧ (List.range 96).any (fun k => partEngines b k != 0) = true then some 0
  else firstBad (images b) (fun x i =>
    match i.engine with
    | none => true
    | some n => (engIsCore n && !bit (partEngines b (n / 8)) (n % 8)) || decide (1 < i.bank) ||
        ((images b).take x).any (fun j => j.engine == some n && j.bank == i.bank))

/-- 0x10: R260, R262, R263 and R274. -/
def badServing (s : Block) (b : List Byte) : Option Nat :=
  if hdrMode b = 0 then none
  else
    let f := fun v i => Config.servingField (part b 8) v i
    let c := cycle0 b
    let d := 1024 * hdrDeckle b
    let stack := f 0 11 / 0x1000000000
    firstBad (List.range (hdrVariants b)) (fun v _ =>
      (List.range c.length).any (fun e => bit (c.getD e ⟨0, 0, 0⟩).flags 0 &&
        decide (1024 * (c.getD ((e + 2 * c.length - 2) % c.length) ⟨0, 0, 0⟩).blocks < f v 4 + 4096)) ||
      decide (d / 2 < propagation s b + 16 * 33) ||
      (List.range c.length).any (fun e => decide (((List.range 190).filter (fun j => moveCode b e stack j == 1)).length < 8)) ||
      decide (f v 5 < d + 8192 + 8 * (f v 0 + f v 1)) ||
      decide (2097152 < 64 + 16 * f v 0 + 32 * f v 1 + 4 * f v 0 * f v 7))

/-- A field that REG_INIT may set (R421). -/
def settable (a : Nat) : Bool :=
  let o := a % 0x1000
  let ty := pageType (pageOf a)
  a % 4 == 0 && (fieldsAt a).any (fun p => p.1.kind == .rw) &&
  (if ty = 0x20 then o == 0x40 || (0x200 ≤ o && o < 0x280) || (0x400 ≤ o && o < 0x600)
   else if ty = 0x13 then 0x800 ≤ o && o < 0xC00
   else if ty = 0x12 then o == 0x54
   else if ty = 0x11 then o == 0x40 || o == 0x118 || o == 0x11C || o == 0x218 || o == 0x21C
   else if 0x21 ≤ ty then o == 0x58 || o == 0x5C || ((ty == 0x26 || ty == 0x27) && 0x100 ≤ o && o < 0x300)
   else if ty = 0x0A then o == 0x118 || o == 0x11C || (0x70 ≤ o && o < 0x88)
   else if ty = 0x0B then o == 0x118 || o == 0x11C || (0x70 ≤ o && o < 0x7C)
   else (ty == 0x08 || ty == 0x0C || ty == 0x0D) && (o == 0x118 || o == 0x11C))

/-- 0x11. -/
def badRegInit (b : List Byte) : Option Nat := firstBad (regInits b) (fun _ e => !settable e.1)

/-- 0x12. -/
def badData (b : List Byte) : Option Nat :=
  firstBad (dataEnts b) (fun _ d =>
    decide ((ranges b).length ≤ d.range) || (rangeOf b d.range).use == 1 || decide ((rangeOf b d.range).len < d.off + d.bytes.length))

/-- The checks that need nothing written, in code order (DEDUCED, log entry 47). -/
def checks (s : Block) (b : List Byte) : List (Nat × (Unit → Option Nat)) :=
  [(0x01, fun _ => badHeader b), (0x02, fun _ => badBehaviour s b), (0x03, fun _ => badSections b), (0x04, fun _ => badCrc b),
   (0x05, fun _ => badReloc b), (0x06, fun _ => badCycle b), (0x07, fun _ => badFloor b), (0x08, fun _ => badDeckle s b),
   (0x09, fun _ => badRanges s b), (0x0A, fun _ => badTier s b), (0x0B, fun _ => badMoveMap b), (0x0C, fun _ => badTokens s b),
   (0x0D, fun _ => badRamp b), (0x0E, fun _ => badImem b), (0x0F, fun _ => badEngine b), (0x10, fun _ => badServing s b),
   (0x11, fun _ => badRegInit b), (0x12, fun _ => badData b)]

/-- The first failure: its code and DETAIL (DEDUCED, log entry 47). -/
def firstFailure : List (Nat × (Unit → Option Nat)) → Option (Nat × Nat)
  | [] => none
  | c :: r => match c.2 () with
    | some d => some (c.1, d)
    | none => firstFailure r

/-- The ports whose slot y the transmit operations of port engine n's program name. -/
def sentAt (n : Nat) (l : List SlotOp) (y : Nat) : List Nat :=
  (l.filter (fun o => isTx o.word && o.names y)).flatMap (fun o => o.outs.map (outPort (n - 768)))

/-- Code 1 across engines: an earlier port-engine image of the same BANK names a slot of an output that this one names (DEDUCED, log entry 47). -/
def outputShared (b : List Byte) (x : Nat) (i : Image) (n : Nat) : Bool :=
  engIsPe n && ((images b).take x).any (fun j => match j.engine with
    | some m => engIsPe m && j.bank == i.bank && (List.range (min (slotBound (imageOps i)) (slotBound (imageOps j)))).any (fun y =>
        (sentAt n (imageOps i) y).any (sentAt m (imageOps j) y).contains)
    | none => false)

/-- The code of R198 of a port or mesh engine's image, once it is in its bank: a program runs after itself sheet by sheet, a preloaded one first
after the active bank's; an earlier slot image of the same BANK carries another VERSION (DEDUCED, log entry 47). -/
def slotCode (s : Block) (b : List Byte) (x : Nat) (i : Image) (n : Nat) : Nat :=
  let ops := imageOps i
  let before := if i.bank = 0 then [] else ((images b).filter (fun j => j.engine == some n && j.bank == 0)).map imageOps
  let other := ((images b).take x).any (fun j => (match j.engine with
    | some m => engIsSlot m
    | none => false) && j.bank == i.bank && j.version != i.version)
  if outputShared b x i n then 1 else slotRules s n (activeTable s) ops (ops :: before) other

/-- 0x21–0x29: the code, the DETAIL, the engine and the physical bank of the image (DEDUCED, log entry 47). -/
def slotFailure (s : Block) (b : List Byte) : Option (Nat × Nat × Nat × Nat) :=
  (images b).zipIdx.findSome? (fun p =>
    match p.1.engine with
    | none => none
    | some n =>
      if engIsSlot n then
        let c := slotCode s b p.2 p.1 n
        if c = 0 then none else some (0x20 + c, p.1.code + 256 * (if engIsMe n then p.1.cl else 0), n, imageBank s p.1 n / 65536 % 2)
      else none)

/-! ### The commands -/

/-- START: ignored with CMD_REFUSED in a job or during a load. A loaded ream not yet started is replaced. -/
def startLoad (s : Block) : Block :=
  if inJob s ∨ rd s Reg.PCI.LOAD_STATUS_STATE = 1 then raisePage s 0x4000 ErrBit.PCI.CMD_REFUSED
  else
    let s := { s with pcie := { s.pcie with image := hostRead s (rd s Reg.PCI.LOAD_ADDR) (rd s Reg.PCI.LOAD_LEN) } }
    let s := wr (wr (wr s Reg.PCI.LOAD_STATUS_STATE 1) Reg.PCI.LOAD_STATUS_CODE 0) Reg.PCI.LOAD_STATUS_DETAIL 0
    wr (wr s Reg.PCI.LOAD_CMD_START 1) Reg.GLB.JOB_STATUS_STATE 0

def doLoadStart (s : Block) (rq : Requester) : Block := guardedCmd s rq 0x4000 startLoad

def refuseLoad (s : Block) (code detail : Nat) : Block :=
  let s := { s with plan := { s.plan with ream := none } }
  let s := wr (wr (wr s Reg.PCI.LOAD_STATUS_STATE 3) Reg.PCI.LOAD_STATUS_CODE code) Reg.PCI.LOAD_STATUS_DETAIL detail
  event (raisePage (wr s Reg.SES.SES_STATUS_IN_JOB 0) 0x4000 ErrBit.PCI.LOAD_REFUSED) 5 code (pageId 0x4000) 0

def acceptLoad (s : Block) : Block :=
  let s := wr (wr s Reg.PCI.LOAD_STATUS_STATE 2) Reg.GLB.JOB_STATUS_STATE 1
  event (showServing (showReam s)) 5 0 (pageId 0x4000) 0

/-- DEDUCED, log entry 47. -/
def doLoadDone (s : Block) : Block :=
  if rd s Reg.PCI.LOAD_STATUS_STATE ≠ 1 then s
  else
    let b := s.pcie.image
    let s := { wr s Reg.PCI.LOAD_CMD_START 0 with pcie := { s.pcie with image := [] } }
    match firstFailure (checks s b) with
    | some (c, d) => refuseLoad s c d
    | none =>
      let t := install s b
      match slotFailure t b with
      | some (c, d, n, bank) => noteCheck (refuseLoad (uninstall t b) c d) n bank (c - 0x20)
      | none => acceptLoad t

/-- DISCARD: a ream that has not been started is unloaded (DEDUCED, log entry 47). -/
def discardReam (s : Block) : Block :=
  if rd s Reg.PCI.LOAD_STATUS_STATE = 2 then
    let s := { s with plan := { s.plan with ream := none } }
    wr (wr (wr s Reg.PCI.LOAD_STATUS_STATE 0) Reg.GLB.JOB_STATUS_STATE 0) Reg.SES.SES_STATUS_IN_JOB 0
  else s

def doDiscard (s : Block) (rq : Requester) : Block := guardedCmd s rq 0x4000 discardReam

def execLoadStart (rq : Requester) := run (fun s => doLoadStart s rq)
def execLoadDone := run doLoadDone
def execDiscard (rq : Requester) := run (fun s => doDiscard s rq)

end Sys2Proof.Machine
end

