-- ==== Sys2Proof/Machine/Mgmt.lean ====
section
/-! DEFINITION. Management firmware: boot stages, minimal mode, firmware update, keys, the health score's reports, the self-test, the log's
read-out, sensors (R341, R343, R396–R415, R293). -/

namespace Sys2Proof.Machine

/-- Firmware runs, or minimal mode stands in for it. -/
def firmwareUp (s : Block) : Bool := decide (2 ≤ s.mgmt.stage)
/-- An SPDM session is open, and someone serves it (R404). -/
def inSession (s : Block) (i : Nat) : Bool := firmwareUp s && !s.mgmt.romMinimal && (sess s i).opened

/-- A message signed with the operator root key: modulus and exponent as R290 lays a key out (DEDUCED, log entry 41). -/
def operatorSigned (s : Block) (m : SignedMsg) : Bool :=
  let k := s.mgmt.rootKey
  k.length == 388 && beNat (k.drop 384) == 65537 && pssVerify (beNat (k.take 384)) m.body m.signature

/-! ### Boot (R401–R405) -/

/-- Minimal mode, provided by the boot ROM or by stage 1; the latter trains the ports (DEDUCED, log entry 40). -/
def enterMinimal (s : Block) (rom : Bool) : Block :=
  let s := wr (wr (wr s Reg.MGT.MGT_STATUS_MINIMAL 1) Reg.GLB.MODULE_STATE_MINIMAL 1) Reg.PCI.PCI_STATUS_MINIMAL 1
  let s := wr (wr (wr s Reg.PCI.PCI_STATUS_MGT_READY 1) Reg.PCI.PCI_STATUS_MODULE_RESET 0) Reg.GLB.MODULE_STATE_MODULE_RESET 0
  let s := setStage (raisePage s mgtPg ErrBit.MGT.MINIMAL_ENTERED) 4
  let s := { s with mgmt := { s.mgmt with romMinimal := rom } }
  if rom then s else reportGasp (overN 12 enableEffect s)

/-- The boot ROM tries copy A, then copy B (DEDUCED, log entry 40). -/
def doRomVerify (s : Block) (a b : Bool) (svnA svnB : Nat) : Block :=
  if s.mgmt.stage ≠ 0 ∨ s.mgmt.pinsLow.contains 0 then s
  else
    let high := fun (v : Nat) => decide (rd s Reg.MGT.SVN_FLOOR ≤ v)
    let go := fun (t : Block) (c svn : Nat) => setStage { t with mgmt := { t.mgmt with stage1Copy := c, svnStage1 := svn } } 1
    if a && high svnA then go s 0 svnA
    else
      let s := if a then pushReport s 0 0x03 0 svnA else pushReport s 0 0x01 0 0
      if b && high svnB then go s 1 svnB else enterMinimal (pushReport s 0 0x02 0 0) true

/-- The firmware slot that a boot after n failures tries (R403) (DEDUCED, log entry 40). -/
def bootSlot (s : Block) : Nat :=
  let p := s.mgmt.preferred
  if rd s Reg.MGT.BOOT_FAILS_CONSECUTIVE = 1 ∧ rd s (if p = 0 then Reg.MGT.FW_VERSION_B else Reg.MGT.FW_VERSION_A) ≠ 0 then 1 - p else p

/-- The level in force is the physical stepping until another is asked for (R413) (DEDUCED, log entry 40). -/
def levelDefault (s : Block) (step : Nat) : Block :=
  if s.mgmt.levelHeld then s
  else
    let s := if rd s Reg.MGT.BEHAVIOUR_REQUESTED = rd s Reg.MGT.BEHAVIOUR_IN_FORCE then wr s Reg.MGT.BEHAVIOUR_REQUESTED step else s
    wr s Reg.MGT.BEHAVIOUR_IN_FORCE step

/-- The verified record is in force (R22, R350, R409): its version, the harvest map, the module identity, the physical stepping. -/
def takeRecord (s : Block) (r : ConfigRecord) : Block :=
  let step := if r.b0 then 0xB0 else 0xA1
  let s := wr (wr s Reg.HARV.HARVEST_SRC_RECORD_VERSION r.version) Reg.MGT.MODULE_ID r.identity.toNat
  let s := levelDefault (wr (wr s Reg.GLB.IDENT_STEPPING step) Reg.MGT.BEHAVIOUR_PHYSICAL step) step
  let s := { s with pcie := { s.pcie with header := { s.pcie.header with revisionId := step, serial := r.identity.toNat } } }
  overN 16 (fun c t => wr t (Reg.HARV.HARVEST_MAP_DISABLED_PHYS c) (r.harvest.getD c 0)) s

/-- DEDUCED, log entry 9 and DEDUCED, log entry 40. -/
def doStage1 (s : Block) (record : ConfigRecord) (recOk : Bool) (pufBits : Nat) (pufOk fwOk : Bool) (svn : Nat) : Block :=
  let slot := bootSlot s
  if s.mgmt.stage ≠ 1 then s
  else if 3 ≤ rd s Reg.MGT.BOOT_FAILS_CONSECUTIVE then enterMinimal s false
  else if !recOk then failedBoot s 1 0x11 0 3
  else if !pufOk then failedBoot s 1 0x12 0 pufBits
  else if !fwOk then failedBoot s 1 0x10 slot slot
  else if svn < rd s Reg.MGT.SVN_FLOOR then failedBoot s 1 0x03 slot svn
  else
    let s := when (decide (Config.pufCapacity < 2 * pufBits)) (fun t => raisePage t mgtPg ErrBit.MGT.PUF_MARGIN) s
    let s := wr (wr (wr s Reg.MGT.MGT_STATUS_SLOT slot) Reg.MGT.MGT_STATUS_TRIAL (b2n (s.mgmt.trial == some slot))) Reg.MGT.SVN_RUNNING svn
    let s := wr (takeRecord s record) Reg.PCI.PCI_STATUS_MGT_READY 1
    reportGasp (setStage s 2)

/-- BOOT_OK: n clears; a trial slot and a stage-1 copy written since the last one are committed; a boot on the other slot reverts the trial (R402, R403, R408). -/
def doBootOk (s : Block) : Block :=
  if s.mgmt.stage ≠ 2 || s.mgmt.modReset || !s.mgmt.calOk || !flag s Reg.HARV.HARVEST_SRC_SIG_OK || !flag s Reg.HARV.HARVEST_SRC_BIST_OK ||
      !flag s Reg.PCI.PCI_STATUS_MGT_READY then s
  else
    let slot := rd s Reg.MGT.MGT_STATUS_SLOT
    let s := wr (wr s Reg.MGT.MGT_STATUS_BOOT_OK 1) Reg.MGT.BOOT_FAILS_CONSECUTIVE 0
    let s := logEntry (setStage s 3) 2 0 0 (rd s Reg.MGT.BOOT_COUNT)
    let s := { s with mgmt := { s.mgmt with stage1New := none } }
    if slot ≠ s.mgmt.preferred then
      raisePage { s with mgmt := { s.mgmt with preferred := slot, trial := none, raiseFloor := false } } mgtPg ErrBit.MGT.TRIAL_REVERTED
    else if s.mgmt.trial = some slot then
      let s := when s.mgmt.raiseFloor (fun t => wr t Reg.MGT.SVN_FLOOR (max (rd t Reg.MGT.SVN_FLOOR) (rd t Reg.MGT.SVN_RUNNING))) s
      wr { s with mgmt := { s.mgmt with trial := none, raiseFloor := false } } Reg.MGT.MGT_STATUS_TRIAL 0
    else s

/-- The deadline of a stage from its start. -/
def stageLimit (st : Nat) : Nat := if st = 0 then 100000000 else if st = 1 then 3000000000 else 12000000000
def doStageTimeout (s : Block) (st : Nat) : Block :=
  if s.mgmt.stage = st ∧ !s.mgmt.pinsLow.contains 0 ∧ s.mgmt.since + stageLimit st ≤ s.mgmt.clock then
    failedBoot s st 0x30 (if st = 0 then 0 else if st = 1 then s.mgmt.stage1Copy else rd s Reg.MGT.MGT_STATUS_SLOT) st
  else s

def doBootRetry (s : Block) (rq : Requester) : Block :=
  guardedCmd s rq mgtPg (fun t => if flag t Reg.MGT.MGT_STATUS_MINIMAL then managementRestart t rqMgt true else t)

/-! ### Update (R406–R408) -/

/-- Where a component's slot or copy lies in flash, and its size (R398). -/
def updBase (component slot : Nat) : Nat × Nat :=
  if component = 1 then (0x200000 + 0x1800000 * slot, 0x1800000)
  else if component = 2 then (0x100000 * slot, 0x100000)
  else (0x3200000 + 0x100000 * slot, 0x100000)

/-- The slot or copy an update writes (R406). -/
def updSlot (s : Block) (component : Nat) : Nat :=
  if component = 1 then 1 - rd s Reg.MGT.MGT_STATUS_SLOT
  else if component = 2 then 1 - s.mgmt.stage1Copy
  else if Config.imageVerifies (flashRead s 0x3200000 0x100000) then 1 else 0

/-- A step of an update in the log: codes 1 begun, 2 verified, 3 VerifyFailure, 4 activated (DESIGN CHOICE, log entry 6) (DEDUCED, log entry 33). -/
def logUpdate (s : Block) (code : Nat) (u : Update) : Block := logEntry s 4 code 0 (u.component + 65536 * u.slot)

/-- DEDUCED, log entry 41. -/
def doRequestUpdate (s : Block) (i component : Nat) (m : SignedMsg) : Block :=
  let allowed := if s.mgmt.romMinimal then component == 2 else
    inSession s i && operatorSigned s m && (component == 1 || component == 2 || component == 3)
  if firmwareUp s && allowed && s.mgmt.update.isNone then
    let u : Update := ⟨component, updSlot s component, 0, false⟩
    logUpdate (wr { s with mgmt := { s.mgmt with update := some u } } Reg.MGT.MGT_STATUS_UPDATE_ACTIVE 1) 1 u
  else s

/-- A slot being written no longer holds an image that verifies. -/
def spoilVersion (s : Block) (u : Update) : Block :=
  if u.component = 1 then wr s (if u.slot = 0 then Reg.MGT.FW_VERSION_A else Reg.MGT.FW_VERSION_B) 0 else s

/-- The largest transfer: 960 bytes over the fabric, 512 over I3C (R407). -/
def transferMax (viaI3c : Bool) : Nat := if viaI3c then 512 else 960

def doFirmwareData (s : Block) (viaI3c : Bool) (off : Nat) (data : List Byte) : Block :=
  match s.mgmt.update with
  | none => s
  | some u =>
    let b := updBase u.component u.slot
    if u.verified ∨ data = [] ∨ transferMax viaI3c < data.length ∨ b.2 < off + data.length then s
    else
      let s := spoilVersion (flashWrite s (b.1 + off) data) u
      { s with mgmt := { s.mgmt with
        update := some { u with received := max u.received (off + data.length) }
        stage1New := if u.component = 2 then some u.slot else s.mgmt.stage1New } }

/-- The check of R401, and the report to the update agent (DEDUCED, log entry 41). -/
def doVerifyComplete (s : Block) : Block :=
  match s.mgmt.update with
  | none => s
  | some u =>
    let img := flashRead s (updBase u.component u.slot).1 u.received
    let ok := Config.imageVerifies img && Config.imageField img 0 == u.component && decide (rd s Reg.MGT.SVN_FLOOR ≤ Config.imageField img 2)
    let s := reply s (Config.signed (natLe 1 u.component ++ natLe 1 (b2n ok)))
    if ok then
      let s := if u.component = 1 then
          wr { s with mgmt := { s.mgmt with raiseFloor := Config.imageField img 3 == 1 } }
            (if u.slot = 0 then Reg.MGT.FW_VERSION_A else Reg.MGT.FW_VERSION_B) (Config.imageField img 1)
        else s
      logUpdate { s with mgmt := { s.mgmt with update := some { u with verified := true } } } 2 u
    else
      logUpdate (raisePage (wr { s with mgmt := { s.mgmt with update := none } } Reg.MGT.MGT_STATUS_UPDATE_ACTIVE 0) mgtPg ErrBit.MGT.UPDATE_FAILED) 3 u

/-- The new slot is preferred and in trial from the next restart on; minimal mode restarts at once. -/
def doActivateFirmware (s : Block) (i : Nat) (m : SignedMsg) : Block :=
  match s.mgmt.update with
  | none => s
  | some u =>
    if u.verified && (s.mgmt.romMinimal || (inSession s i && operatorSigned s m)) then
      let s := { s with mgmt := { s.mgmt with update := none } }
      let s := wr (wr s Reg.MGT.MGT_STATUS_UPDATE_ACTIVE 0) Reg.MGT.MGT_STATUS_ACTIVATION_PENDING 1
      let s := if u.component = 1 then { s with mgmt := { s.mgmt with preferred := u.slot, trial := some u.slot } } else s
      let s := logUpdate s 4 u
      if s.mgmt.stage = 4 then managementRestart s rqMgt true else s
    else s

def doOperatorRestart (s : Block) (i : Nat) : Block := if inSession s i && !inJob s then managementRestart s rqMgt true else s

/-! ### Keys, endpoints, level (R293, R396, R409, R413) -/

/-- A publisher key is enrolled or revoked by a message signed with the operator root key, within a session (DEDUCED, log entry 41). -/
def doKeyEnrol (s : Block) (revoke : Bool) (k : Nat) (m : SignedMsg) : Block :=
  if !firmwareUp s || rd s Reg.NI.SESSIONS == 0 || !operatorSigned s m || (!revoke && m.body.length != 388) then s
  else
    let rest := s.mgmt.pubKeys.filter (fun p => p.1 != k)
    let s := { s with mgmt := { s.mgmt with pubKeys := if revoke then rest else (k, m.body) :: rest } }
    showKeys (logEntry s 7 (if revoke then 2 else 1) 0 k)

/-- DEDUCED, log entry 41. -/
def doRootKeyWrite (s : Block) (viaI3c : Bool) (key : List Byte) (m : SignedMsg) : Block :=
  let first := s.mgmt.rootKey == [] && viaI3c
  let replaced := s.mgmt.rootKey != [] && m.body == key && operatorSigned s m
  if firmwareUp s && key.length == 388 && (first || replaced) then { s with mgmt := { s.mgmt with rootKey := key } } else s

def doEndpointWrite (s : Block) (i eid coord : Nat) : Block :=
  if inSession s i then { s with mgmt := { s.mgmt with endpoints := Tab.put s.mgmt.endpoints (2 ^ 18) eid coord } } else s

def doLevelRequest (s : Block) (i level : Nat) : Block :=
  if inSession s i ∧ !ignored s Reg.MGT.BEHAVIOUR_REQUESTED level then wr s Reg.MGT.BEHAVIOUR_REQUESTED level else s

def doBehaviourWrite (s : Block) (rq : Requester) (v : Nat) : Block := writeWord s rq 0x5080 v (fun _ t => t)

/-! ### Health and self-test (R341, R343) -/

def doHealth (s : Block) : Block :=
  if !firmwareUp s then s
  else
    let low := decide (scoreNow s < rd s Reg.MGT.HEALTH_THRESHOLD)
    let was := flag s Reg.MGT.MGT_STATUS_EXPEL_RECOMMENDED
    let s := wr (wr s Reg.MGT.HEALTH_SCORE (scoreNow s)) Reg.MGT.MGT_STATUS_EXPEL_RECOMMENDED (b2n low)
    when (low && !was) (fun t => reply (raisePage t mgtPg ErrBit.MGT.EXPEL_RECOMMENDED) (Config.signed (natLe 2 (scoreNow t)))) s

/-- DESIGN CHOICE, log entry 42. -/
def doSelftest (s : Block) (rq : Requester) : Block :=
  guardedCmd s rq mgtPg (fun t =>
    if inJob t || t.mgmt.stage != 3 || t.mgmt.modReset || flag t Reg.MGT.MGT_STATUS_SELFTEST_RUNNING then t
    else wr (wr (wr (wr t Reg.MGT.MGT_CMD_SELFTEST 1) Reg.MGT.MGT_STATUS_SELFTEST_RUNNING 1) Reg.MGT.SELFTEST_RESULT_STATE 1) Reg.MGT.SELFTEST_RESULT_PART 0)

/-- A pass leaves a score of 800 and no history: one event of weight 200 (DESIGN CHOICE, log entry 42). -/
def doSelftestComplete (s : Block) (part : Nat) : Block :=
  if !flag s Reg.MGT.MGT_STATUS_SELFTEST_RUNNING then s
  else
    let s := wr (wr s Reg.MGT.MGT_CMD_SELFTEST 0) Reg.MGT.MGT_STATUS_SELFTEST_RUNNING 0
    let s := wr (wr s Reg.MGT.SELFTEST_RESULT_STATE (if part = 0 then 2 else 3)) Reg.MGT.SELFTEST_RESULT_PART part
    if part = 0 then
      wr { s with mgmt := { s.mgmt with events := [⟨0, 200, s.mgmt.clock, 0⟩], ceTimes := [], stretchNamed := [] } } Reg.MGT.HEALTH_SCORE 800
    else s

/-! ### The log's read-out (R400) -/

def showLog (s : Block) : Block :=
  let e := rd s Reg.MGT.LOG_SEL
  let age := dist32 (rd s Reg.MGT.LOG_WRITTEN) e
  let held := decide (1 ≤ age) && decide (age ≤ dist32 (rd s Reg.MGT.LOG_WRITTEN) (rd s Reg.MGT.LOG_OLDEST))
  let d := if held then flashRead s (0x3700000 + 32 * (e % 1048576)) 32 else zeros 32
  let bad := held && fieldLe d 28 4 != crc32c (d.take 28)
  let s := overN 8 (fun i t => wr t (Reg.MGT.LOG_DATA i) (fieldLe d (4 * i) 4)) s
  let s := wr (wr (wr s Reg.MGT.LOG_STATUS_VALID 1) Reg.MGT.LOG_STATUS_RETAINED (b2n held)) Reg.MGT.LOG_STATUS_CRC_BAD (b2n bad)
  when bad (fun t => raisePage t mgtPg ErrBit.MGT.FLASH_ERROR) s

def doLogSel (s : Block) (rq : Requester) (v : Nat) : Block := writeWord s rq 0x508C v (fun _ t => showLog t)

/-! ### Sensors (R397; the numbers of DESIGN CHOICE, log entry 6): 0–16 rail voltages, 17–28 HBM stacks, 29 and 30 coolant inlet and outlet, 31 busbar,
33–49 rail currents, 50–57 RDIMMs -/

/-- A rail's setpoint in mV (DESIGN CHOICE, log entry 6). -/
def setpoint (r : Nat) : Nat := if r = 0 then 54000 else Config.railSetpoint r

/-- A rail outside ±5 % for 1 ms is logged, once in each excursion: the entry's time is 0 from then on (DESIGN CHOICE, log entry 6). -/
def judgeRail (s : Block) (r mv : Nat) : Block :=
  let p := setpoint r
  let rest := s.mgmt.railBad.filter (fun x => x.1 != r)
  if 19 * p ≤ 20 * mv ∧ 20 * mv ≤ 21 * p then { s with mgmt := { s.mgmt with railBad := rest } }
  else match s.mgmt.railBad.find? (fun x => x.1 == r) with
    | none => { s with mgmt := { s.mgmt with railBad := (r, s.mgmt.clock + 1) :: rest } }
    | some (_, t) =>
      if t ≠ 0 ∧ t + 1000000 ≤ s.mgmt.clock + 1 then
        raisePage (logEntry { s with mgmt := { s.mgmt with railBad := (r, 0) :: rest } } 12 1 0 r) mgtPg ErrBit.MGT.RAIL_WARN
      else s

/-- DESIGN CHOICE, log entry 6 and DEDUCED, log entry 33. -/
def doSensor (s : Block) (n v : Nat) (answers : Bool) : Block :=
  if !firmwareUp s then s
  else if !answers || !Config.sensorInRange n v then raisePage (logEntry s 12 2 0 n) mgtPg ErrBit.MGT.SENSOR_FAULT
  else if n ≤ 16 then judgeRail (wr s (Reg.MGT.RAIL_V n) v) n v
  else if n ≤ 28 then doMemTemp s (n - 17) v
  else if n = 29 then doCoolant s v (rd s Reg.PWR.COOLANT_OUTLET)
  else if n = 30 then wr s Reg.PWR.COOLANT_OUTLET (min v 255)
  else if n = 31 then wr s Reg.PWR.INPUT_MV v
  else if 33 ≤ n ∧ n ≤ 49 then wr s (Reg.MGT.RAIL_I (n - 33)) v
  else if 50 ≤ n ∧ n ≤ 57 then doMemTemp s (n - 38) v
  else s

/-! ### Meanings -/

def execRequestUpdate (session : Fin 16) (component : Fin 65536) (m : SignedMsg) := run (fun s => doRequestUpdate s session component m)
def execRequestFirmwareData (viaI3c : Bool) (offset : Nat) (data : List Byte) := run (fun s => doFirmwareData s viaI3c offset data)
def execVerifyComplete := run doVerifyComplete
def execActivateFirmware (session : Fin 16) (m : SignedMsg) := run (fun s => doActivateFirmware s session m)
def execOperatorRestartRequest (session : Fin 16) := run (fun s => doOperatorRestart s session)
def execKeyEnrol (revoke : Bool) (slot : Fin 8) (m : SignedMsg) := run (fun s => doKeyEnrol s revoke slot m)
def execOperatorRootKeyWrite (viaI3c : Bool) (key : List Byte) (m : SignedMsg) := run (fun s => doRootKeyWrite s viaI3c key m)
def execEndpointTableWrite (session : Fin 16) (eid : Fin 256) (coord : Fin 262144) := run (fun s => doEndpointWrite s session eid coord)
def execLevelChangeRequest (session : Fin 16) (level : BitVec 8) := run (fun s => doLevelRequest s session level.toNat)
def execHealthRecompute := run doHealth
def execSelftest (rq : Requester) := run (fun s => doSelftest s rq)
def execSelftestComplete (part : TestPart) := run (fun s => doSelftestComplete s part)
def execLogSelWrite (rq : Requester) (v : BitVec 32) := run (fun s => doLogSel s rq v.toNat)
def execBootRetry (rq : Requester) := run (fun s => doBootRetry s rq)
def execBehaviourRequestedWrite (rq : Requester) (v : BitVec 32) := run (fun s => doBehaviourWrite s rq v.toNat)
def execBootRomVerify (copyAOk copyBOk : Bool) (svnA svnB : Fin 256) := run (fun s => doRomVerify s copyAOk copyBOk svnA svnB)
def execStage1Complete (record : ConfigRecord) (recOk : Bool) (pufBits : Nat) (pufOk : Bool) (fwOk : Bool) (fwSvn : Fin 256) :=
  run (fun s => doStage1 s record recOk pufBits pufOk fwOk fwSvn)
def execBootOk := run doBootOk
def execStageTimeout (stage : Fin 3) := run (fun s => doStageTimeout s stage)
def execSensorSample (sensor : Fin 64) (value : Nat) (answers : Bool) := run (fun s => doSensor s sensor value answers)

end Sys2Proof.Machine
end

