-- ==== Sys2Proof/Machine/Sessions.lean ====
section
/-! DEFINITION. The session table, page lists, the allocator, page moves, the input log and adapters (R263–R269, R281–R285). -/

namespace Sys2Proof.Machine

/-! ### Session states (R264) -/

def seFREE : Nat := 0
def seACTIVE : Nat := 1
def sePAUSED : Nat := 2
def seEXPIRED : Nat := 3
def seDYING : Nat := 4
def sePOISONED : Nat := 5

def noneWord : Nat := 0xFFFFFFFF

/-! ### The cache of session entries (R263) -/

/-- The cached entry used least recently, the lower session number on a tie. -/
def oldestCached : List (Nat × Nat × List Byte) → Option (Nat × Nat × List Byte)
  | [] => none
  | x :: r => match oldestCached r with
    | none => some x
    | some y => some (if y.2.1 < x.2.1 then y else x)

/-- A cached entry; one that is not cached has stamp 0. -/
def cacheOf (s : Block) (i : Nat) : Nat × List Byte := Tab.get s.serv.cache (0, []) i
def setCache (s : Block) (i stamp : Nat) (bs : List Byte) : Block :=
  { s with serv := { s.serv with cache := Tab.put s.serv.cache (0, []) i (stamp, bs) } }

/-- A full cache writes back the entry least recently used (DEDUCED, log entry 37). -/
def evict (s : Block) : Block :=
  match (if 16384 ≤ s.serv.cache.length then oldestCached s.serv.cache else none) with
  | some x => { tabWrite s (sessAddr s x.1) x.2.2 with serv := { s.serv with cache := Tab.del s.serv.cache x.1 } }
  | none => s

/-- The bytes of a session's entry: the cached value where one is held. -/
def seBytes (s : Block) (i : Nat) : List Byte := if (cacheOf s i).1 = 0 then tabRead s (sessAddr s i) 64 else (cacheOf s i).2

/-- The build uses a session's entry: a miss evicts one and fills (DEDUCED, log entry 37). -/
def touch (s : Block) (i : Nat) : Block :=
  let bs := seBytes s i
  let s := if (cacheOf s i).1 = 0 then tabFetch (evict s) (sessAddr s i) 64 else s
  setCache s i (s.serv.buildStep + 1) bs

/-- An entry's bytes change, in the cache. -/
def seWrite (s : Block) (i off : Nat) (bs : List Byte) : Block :=
  let old := seBytes s i
  setCache (touch s i) i (s.serv.buildStep + 1) (slice old 0 off ++ bs ++ slice old (off + bs.length) (64 - off - bs.length))

/-! ### Fields of a session's entry (R263) -/

def seNum (s : Block) (i off n : Nat) : Nat := fieldLe (seBytes s i) off n
def sePut (s : Block) (i off n v : Nat) : Block := seWrite s i off (natLe n v)
def seField (s : Block) (i off lsb w : Nat) : Nat := bits (seNum s i off 4) lsb w
def seSet (s : Block) (i off lsb w v : Nat) : Block := sePut s i off 4 (setBits (seNum s i off 4) lsb w v)
def seState (s : Block) (i : Nat) : Nat := seField s i 0 0 3
def seStale (s : Block) (i : Nat) : Bool := seField s i 0 3 1 == 1
def seRebind (s : Block) (i : Nat) : Bool := seField s i 0 4 1 == 1
def seSpec (s : Block) (i : Nat) : Bool := seField s i 0 5 1 == 1
def seTier (s : Block) (i : Nat) : Nat := seField s i 0 6 2
def seTenant (s : Block) (i : Nat) : Nat := seField s i 0 8 12
def seNolog (s : Block) (i : Nat) : Bool := seField s i 0 21 1 == 1
def seAdapter (s : Block) (i : Nat) : Nat := seField s i 4 0 12
def seAver (s : Block) (i : Nat) : Nat := seField s i 4 12 1
def seAvalid (s : Block) (i : Nat) : Bool := seField s i 4 13 1 == 1
def seGen (s : Block) (i : Nat) : Nat := seField s i 8 0 8
def seTokens (s : Block) (i : Nat) : Nat := seNum s i 12 4
def seTtl (s : Block) (i : Nat) : Nat := seNum s i 16 8
def seHead (s : Block) (i : Nat) : Nat := seNum s i 24 4
def sePages (s : Block) (i : Nat) : Nat := seNum s i 28 4
def seSlot (s : Block) (i : Nat) : Nat := seField s i 36 0 12
def seInSlot (s : Block) (i : Nat) : Bool := seField s i 36 12 1 == 1
def seLast (s : Block) (i : Nat) : Nat := seNum s i 40 4

def setSeState (s : Block) (i v : Nat) : Block := seSet s i 0 0 3 v
def setSeTier (s : Block) (i v : Nat) : Block := seSet s i 0 6 2 v
def setSeAuto (s : Block) (i : Nat) (b : Bool) : Block := seSet s i 0 20 1 (b2n b)
def setSeTtl (s : Block) (i v : Nat) : Block := sePut s i 16 8 v

/-- The sessions of the table. -/
def sessionCount (s : Block) : Nat := rd s Reg.SES.SESSIONS
def sessionList (s : Block) (p : Nat → Bool) : List Nat := (List.range (sessionCount s)).filter p

/-- Two full steps have passed since the session last held a slot or a chunk (R265), as the build in progress counts them (DEDUCED, log entry 36). -/
def settled (s : Block) (i : Nat) : Bool := s.serv.fresh.contains i || decide (seLast s i + 2 ≤ s.serv.buildStep)

/-- The session has tokens in the prefill queue. -/
def queued (s : Block) (i : Nat) : Bool := s.serv.prefill.any (fun p => p.session == i)

/-! ### Page lists (R269) -/

def plAddr (s : Block) (b : Nat) : Nat := rd s Reg.SES.PL_BASE + 256 * b
def plNext (s : Block) (b : Nat) : Nat := tabNum s (plAddr s b + 252) 4

/-- The k-th block of a chain. -/
def plBlock (s : Block) : Nat → Nat → Nat
  | 0, b => b
  | k + 1, b => plBlock s k (plNext s b)

/-- Page n of a session's list: tier and page. -/
def plEntry (s : Block) (i n : Nat) : Nat × Nat :=
  let w := tabNum s (plAddr s (plBlock s (n / 63) (seHead s i)) + 4 * (n % 63)) 4
  (bits w 28 1, bits w 0 28)
def setPlEntry (s : Block) (i n tier p : Nat) : Block :=
  tabPut s (plAddr s (plBlock s (n / 63) (seHead s i)) + 4 * (n % 63)) 4 (p % 2 ^ 28 + tier % 2 * 2 ^ 28)
/-- The session's pages, in the order of their positions. -/
def pagesOf (s : Block) (i : Nat) : List (Nat × Nat) := (List.range (sePages s i)).map (plEntry s i)

/-- The lowest number below n that a list lacks. -/
def lowestFree (used : List Nat) (n : Nat) : Option Nat := (List.range n).find? (fun b => !used.contains b)

/-- The list can take another page. -/
def plRoom (s : Block) (i extra : Nat) : Bool :=
  let n := sePages s i
  let blocks := (n + extra + 62) / 63 - (n + 62) / 63
  decide (s.serv.plUsed.length + blocks ≤ rd s Reg.SES.PL_BLOCKS)

/-- A page joins the end of a session's list. -/
def appendPage (s : Block) (i tier p : Nat) : Block :=
  let n := sePages s i
  let s := if n % 63 = 0 then
      match lowestFree s.serv.plUsed (rd s Reg.SES.PL_BLOCKS) with
      | none => s
      | some b =>
        let s := { tabPut s (plAddr s b + 252) 4 noneWord with serv := { s.serv with plUsed := b :: s.serv.plUsed } }
        if n = 0 then sePut s i 24 4 b else tabPut s (plAddr s (plBlock s (n / 63 - 1) (seHead s i)) + 252) 4 b
    else s
  setPlEntry (sePut s i 28 4 (n + 1)) i n tier p

/-- The blocks of a chain, at most n. -/
def plChain (s : Block) : Nat → Nat → List Nat
  | 0, _ => []
  | n + 1, b => if b = noneWord then [] else b :: plChain s n (plNext s b)

/-- The build goes through a session's list: a read of each of its blocks (R268). -/
def readList (s : Block) (i : Nat) : Block :=
  overL (plChain s ((sePages s i + 62) / 63) (seHead s i)) (fun b t => tabFetch t (plAddr t b) 256) s

/-- The list keeps its first n pages. -/
def truncatePages (s : Block) (i n : Nat) : Block :=
  let keep := (n + 62) / 63
  let chain := plChain s ((sePages s i + 62) / 63) (seHead s i)
  let s := { s with serv := { s.serv with plUsed := s.serv.plUsed.filter (fun b => !(chain.drop keep).contains b) } }
  let s := if keep = 0 then sePut s i 24 4 noneWord
    else if keep < chain.length then tabPut s (plAddr s (chain.getD (keep - 1) 0) + 252) 4 noneWord else s
  sePut s i 28 4 n

/-! ### The allocator (R176, R178, R266, R267) -/

def tierUnit (tier p : Nat) : Nat := pageUnit tier p

/-- The counts of the quota table follow a page that a tenant gains or gives up. -/
def countPage (s : Block) (tier tenant : Nat) (gain : Bool) : Block :=
  if tier = 0 then setUsed s tenant (if gain then usedOf s tenant + 1 else usedOf s tenant - 1)
  else setPaused s tenant (if gain then pausedOf s tenant + 1 else pausedOf s tenant - 1)

/-- A tenant's allocation was refused by its quota. -/
def refuse (s : Block) (tenant : Nat) : Block := { s with serv := { s.serv with refused := tenant :: s.serv.refused } }

/-- A pool has no FREE page left. -/
def exhausted (s : Block) (tier : Nat) : Block :=
  raisePage s sesPg (if tier = 0 then ErrBit.SES.HBM_POOL_EXHAUSTED else ErrBit.SES.DDR_POOL_EXHAUSTED)

/-- The lowest FREE page of a pool goes to a session. -/
def takePage (s : Block) (tier i st : Nat) : Block × Option Nat :=
  match freePage s tier with
  | none => (exhausted s tier, none)
  | some p => (countPage (setPage s tier p st (seTenant s i) i) tier (seTenant s i) true, some p)

/-- A page enters QUARANTINE and its zero write is queued (R268, R284). -/
def quarantine (s : Block) (tier p : Nat) : Block :=
  let s := countPage s tier (pageTenant s tier p) false
  let s := incMod (setPageState s tier p pgQUARANTINE) Reg.SES.QUARANTINE 1
  let u := pageUnit tier p
  setUnit s u { unit s u with kv := (unit s u).kv ++ [⟨3, pageAddr s tier p, 65536, p + 2 ^ 28 * tier, false, [], [], 65536⟩] }

/-- Pages of a session in the states of a list. -/
def heldPages (s : Block) (i : Nat) (p : Nat → Bool) : List (Nat × Nat) :=
  (List.range 2).flatMap (fun tier => ((List.range (poolPages s tier)).filter (fun q =>
    p (pageState s tier q) && pageSession s tier q == i)).map (fun q => (tier, q)))

/-- The OWNED pages of a session go; those in a move go when it completes (R284). -/
def dropPages (s : Block) (i : Nat) : Block :=
  overL ((pagesOf s i).filter (fun x => pageState s x.1 x.2 == pgOWNED)) (fun x t => quarantine t x.1 x.2) (readList s i)

/-! ### Adapters (R281, R282) -/

def adapterOf (s : Block) (e : Nat) : AdapterEnt := Tab.get s.serv.adapters {} e
def AdapterEnt.ver (a : AdapterEnt) (v : Nat) : Adapter := if v = 0 then a.v0 else a.v1
def AdapterEnt.setVer (a : AdapterEnt) (v : Nat) (x : Adapter) : AdapterEnt := if v = 0 then { a with v0 := x } else { a with v1 := x }

/-- An entry changes, on die and in its table in device memory. -/
def setAdapter (s : Block) (e : Nat) (a : AdapterEnt) : Block :=
  let s := { s with serv := { s.serv with adapters := Tab.put s.serv.adapters {} e a } }
  let img := Config.adapterImage [a.v0.addr, a.v0.word, b2n a.v0.valid, a.v0.refs, a.v1.addr, a.v1.word, b2n a.v1.valid, a.v1.refs, a.current]
  tabWrite s (rd s Reg.SES.ADAPTER_BASE + 64 * e) (slice img 0 64)

/-- A reference to a version is taken, or dropped. -/
def pin (s : Block) (e v : Nat) : Block :=
  let a := adapterOf s e
  setAdapter s e (a.setVer v { a.ver v with refs := (a.ver v).refs + 1 })
def unpin (s : Block) (e v : Nat) : Block :=
  let a := adapterOf s e
  setAdapter s e (a.setVer v { a.ver v with refs := (a.ver v).refs - 1 })

/-- The pinned reference goes when a session leaves for DYING, EXPIRED or POISONED. -/
def dropPin (s : Block) (i : Nat) : Block :=
  if seAvalid s i ∧ !seRebind s i then seSet (unpin s (seAdapter s i) (seAver s i)) i 4 13 1 0 else s

/-- Versions that are not current and have no reference are freed (R282). -/
def freeVersions (s : Block) : Block :=
  overL (s.serv.adapters.map (fun x => x.1)) (fun e t =>
    let a := adapterOf t e
    let old := a.ver (1 - a.current)
    if old.valid ∧ old.refs = 0 then setAdapter t e (a.setVer (1 - a.current) { old with valid := false }) else t) s

/-! ### The input log (R285) -/

/-- DEDUCED, log entry 38. -/
def keeper (s : Block) : Bool := flag s Reg.SES.SES_STATUS_LOG_KEEPER
/-- LOG_PAGES of the ream, which every module's engine counts by; the log itself stands on keepers. -/
def logPages (s : Block) : Nat := servField s 0 17
def logAddr (s : Block) (p : Nat) : Nat := rd s Reg.SES.LOG_BASE + 65536 * p
def logOf (s : Block) (i : Nat) : List Nat × Nat := Tab.get s.serv.logs ([], 0) i
def setLog (s : Block) (i : Nat) (x : List Nat × Nat) : Block := { s with serv := { s.serv with logs := Tab.put s.serv.logs ([], 0) i x } }
/-- A keeper's write. -/
def logPut (s : Block) (p w v : Nat) : Block := if keeper s then devPut s (logAddr s p + 4 * w) 4 v else s

/-- One token joins a session's log; a log that cannot grow stays as it is. -/
def logToken (i v : Nat) (s : Block) : Block :=
  let l := logOf s i
  let grow := l.2 % 16382 == 0
  if seNolog s i then s
  else match (if grow then lowestFree s.serv.logUsed (logPages s) else some (l.1.getLastD 0)) with
    | none =>
      let s := seSet s i 0 21 1 1
      if keeper s then raisePage s sesPg ErrBit.SES.LOG_FULL else s
    | some p =>
      let s := if grow then
          let s := { logPut s p 0 noneWord with serv := { s.serv with logUsed := p :: s.serv.logUsed } }
          match l.1.getLast? with
          | some q => logPut s q 0 p
          | none => if keeper s then sePut s i 32 4 p else s
        else s
      let s := logPut (logPut s p 1 (l.2 % 16382 + 1)) p (2 + l.2 % 16382) v
      setLog s i (if grow then l.1 ++ [p] else l.1, l.2 + 1)

/-- DEDUCED, log entry 38. -/
def logTokens (s : Block) (i : Nat) (toks : List Nat) : Block := overL toks (logToken i) s

/-- The token words of a prompt chunk: rank 0 reads its input area, the mirror keeper the same ring as the plan brings it (R285; DESIGN CHOICE,
DESIGN CHOICE, log entry 6). -/
def promptTokens (s : Block) (word n : Nat) : List Nat :=
  (List.range n).map (fun k =>
    let o := 4 * ((word + k) % 1048576)
    if flag s Reg.SES.SES_STATUS_LEAD then stagingNum s (0x400000 + o) 4 else leNat (stepRead s (0x420000 + o) 4))

/-! ### Sessions that end (R264, R284) -/

/-- The session's place in the prefill queue goes. -/
def dropQueue (s : Block) (i : Nat) : Block := { s with serv := { s.serv with prefill := s.serv.prefill.filter (fun p => p.session != i) } }

/-- A DYING session becomes FREE with its last page, once settled; its page-list blocks and log pages go with it. -/
def maybeFree (s : Block) (i : Nat) : Block :=
  if seState s i = seDYING ∧ settled s i ∧ (heldPages s i (fun st => decide (1 ≤ st) && decide (st ≤ 4))).isEmpty then
    let chain := if seHead s i = noneWord then [] else plChain s (rd s Reg.SES.PL_BLOCKS) (seHead s i)
    let lp := (logOf s i).1
    let s := setLog { s with serv := { s.serv with
      plUsed := s.serv.plUsed.filter (fun b => !chain.contains b)
      logUsed := s.serv.logUsed.filter (fun b => !lp.contains b)
      fresh := s.serv.fresh.filter (· != i) } } i ([], 0)
    seWrite s i 0 (zeros 64)
  else s

/-- EXPIRED and POISONED sessions release their pages at once. -/
def endSession (s : Block) (i st : Nat) : Block :=
  let s := dropQueue (dropPin (setSeState (touch s i) i st) i) i
  truncatePages (dropPages s i) i 0

/-! ### Page moves (R174, R264, R267, R268) -/

/-- The tag of a copy: its session, its source page, its target page and its direction (1 down to DDR5). -/
def copyTag (i src dst down : Nat) : Nat := i + 2 ^ 20 * (src + 2 ^ 28 * (dst + 2 ^ 28 * down))

/-- One page's copy is queued: DRAINING source, FILLING target. -/
def queueCopy (s : Block) (i fromTier src toTier dst : Nat) : Block :=
  let tag := copyTag i src dst toTier
  let s := setPageState s fromTier src pgDRAINING
  let u := pageUnit fromTier src
  let s := setUnit s u { unit s u with kv := (unit s u).kv ++ [⟨1, pageAddr s fromTier src, 65536, tag, false, [], [], 65536⟩] }
  let w := pageUnit toTier dst
  setUnit s w { unit s w with kv := (unit s w).kv ++ [⟨2, pageAddr s toTier dst, 65536, tag, false, [], [], 65536⟩] }

/-- The n-th page of a session moves to a tier. -/
def movePage (i toTier n : Nat) (s : Block) : Block :=
  let x := plEntry s i n
  if x.1 = toTier then s
  else match takePage s toTier i pgFILLING with
    | (t, none) => t
    | (t, some q) => setPlEntry (queueCopy t i x.1 x.2 toTier q) i n toTier q

/-- Whether a whole session can move to a tier: 0 yes, 3 refused by quota, 4 no pages (DEDUCED, log entry 36). -/
def moveCheck (s : Block) (i toTier : Nat) : Nat :=
  let n := ((pagesOf s i).filter (fun x => x.1 != toTier)).length
  let t := seTenant s i
  if toTier = 0 ∧ n ≠ 0 ∧ quotaOf s t ≠ noneWord ∧ quotaOf s t < usedOf s t + n then 3
  else if freeCount s toTier < n then 4 else 0

/-- A session moves down (PAUSED, tier 3) or up (ACTIVE, tier 2); with nothing to move it is there at once. -/
def moveSession (s : Block) (i toTier st : Nat) (auto : Bool) (ttl : Nat) : Block :=
  let n := ((pagesOf s i).filter (fun x => x.1 != toTier)).length
  let s := overN (sePages s i) (fun k t => movePage i toTier k t) (readList s i)
  let s := setSeTtl (setSeAuto (setSeState s i st) i auto) i ttl
  setSeTier s i (if n = 0 then toTier else 3 - (1 - toTier))

/-- The target of a completed copy. -/
def finishTarget (s : Block) (tier p i : Nat) (bad : Bool) : Block :=
  let st := seState s i
  if bad ∨ !(st == seACTIVE || st == sePAUSED) then
    let s := quarantine s tier p
    if bad ∧ (st = seACTIVE ∨ st = sePAUSED) then { s with serv := { s.serv with poisoned := s.serv.poisoned ++ [i] } } else s
  else setPageState s tier p pgOWNED

/-- The copy at the head of a unit's queue has moved all its bytes. -/
def doPageCopy (s : Block) (u : Nat) (ok : Bool) : Block :=
  match (unit s u).kv with
  | m :: r =>
    if m.kind = 2 ∧ m.len = 0 then
      let i := bits m.tag 0 20
      let src := bits m.tag 20 28
      let dst := bits m.tag 48 28
      let tt := bits m.tag 76 1
      let bad := m.bad || !ok
      let s := setUnit s u { unit s u with kv := r }
      let s := when (!bad) (fun t => devWrite t m.addr (slice m.data 0 65536)) s
      finishTarget (quarantine s (1 - tt) src) tt dst i bad
    else s
  | [] => s

/-- The zero write at the head of a unit's queue has moved all its bytes. -/
def doPageZero (s : Block) (u : Nat) (ok : Bool) : Block :=
  match (unit s u).kv with
  | m :: r =>
    if m.kind = 3 ∧ m.len = 0 then
      let p := bits m.tag 0 28
      let tier := bits m.tag 28 1
      let s := setUnit s u { unit s u with kv := r }
      if pageState s tier p ≠ pgQUARANTINE then s
      else
        let s := wr s Reg.SES.QUARANTINE (rd s Reg.SES.QUARANTINE - 1)
        if ok then setPage (devZero s m.addr (m.addr + 65536)) tier p pgFREE 0 0
          else charge (raisePage (incMod (setPageState (noteUe s u ErrBit.HBM.UE_MOVE m.addr) tier p pgRETIRED) Reg.SES.RETIRED 1)
            sesPg ErrBit.SES.PAGE_RETIRED) 6 0 60000000000
    else s
  | [] => s

/-- A copy of the session is still queued. -/
def unitMoves (s : Block) (i : Nat) : Bool :=
  (List.range 20).any (fun v => (unit s v).kv.any (fun m => m.kind == 2 && bits m.tag 0 20 == i))

/-- A moving session whose last copy is done has reached its tier: its entry follows at the next build (R264). -/
def settleTier (i : Nat) (s : Block) : Block :=
  if 2 ≤ seTier s i ∧ !(unitMoves s i) then setSeTier s i (seTier s i - 2) else s

end Sys2Proof.Machine
end

