-- ==== Sys2Proof/Machine/Serving.lean ====
section
/-! DEFINITION. Serving: the cutoff, the build of a step, the step block, results (R258–R287, R365). -/

namespace Sys2Proof.Machine

/-! ### The cutoff (R259–R262) -/

def ringItem (s : Block) (k : Nat) : List Byte := stagingRead s (0x1000 + 32 * (k % 4096)) 32
def itKind (d : List Byte) : Nat := fieldLe d 0 2
def itFlags (d : List Byte) : Nat := fieldLe d 2 1
def itSession (d : List Byte) : Nat := fieldLe d 4 4
def itA0 (d : List Byte) : Nat := fieldLe d 8 4
def itA1 (d : List Byte) : Nat := fieldLe d 12 4
def itA2 (d : List Byte) : Nat := fieldLe d 16 8
/-- The item number, which stands in a descriptor in place of the TAG. -/
def itNumber (d : List Byte) : Nat := fieldLe d 24 8

/-- The last item of a kind among those taken. -/
def lastOf (l : List (List Byte)) (k : Nat) : Option (List Byte) := l.reverse.find? (fun d => itKind d == k)

/-- Rank 0 takes items for the step that begins two boundaries on, and makes the stream (R262) with its header (R38). A VARIANT item asks for the
variant it names in whatever mode, whether or not the ream has it (R49 is silent: DESIGN CHOICE, log entry 36). -/
def takeItems (s : Block) : Block :=
  let target := sheet s + 2
  let step := stepNumber s target
  let first := rd s Reg.SES.STEP_TAKEN
  let avail := dist32 (stagingNum s 0 4) first
  let tooMany := decide (4096 < avail)
  let n := if tooMany then 0 else min avail 256
  let raw := (List.range n).map (fun k => ringItem s (first + k))
  let items := (List.range n).map (fun k => (ringItem s (first + k)).take 24 ++ natLe 8 ((first + k) % 2 ^ 32))
  let head := natLe 4 step ++ natLe 4 n ++ natLe 8 (rd s Reg.TBS.WALL_TIME / 1000) ++ zeros 16
  let stream := head ++ items.flatten
  let hdr := natLe 4 step ++ natLe 2 (n + 1) ++ zeros 2 ++ natLe 4 (crc32c stream) ++ zeros 4
  let s := when tooMany (fun t => raisePage t sesPg ErrBit.SES.RING_OVERRUN) (incMod s Reg.SES.STEP_TAKEN n)
  let out := (List.range (ceilDiv (n + 1) 8)).map (fun k => slice stream (256 * k) 256)
  { s with
    plan := { s.plan with
      stepHdr := hdr, stepOut := out
      variantItem := match lastOf items 0x0B with
        | some d => some (target, itA0 d % 4)
        | none => s.plan.variantItem
      wswitchItem := match lastOf items 0x0C with
        | some d => some (target, itA0 d % 256, itA1 d % 2)
        | none => s.plan.wswitchItem }
    serv := { s.serv with taken := s.serv.taken.filter (fun x => decide (step < x.1 + 4)) ++ [(step, first, tooMany, raw.map (fun d => slice d 24 8))] } }

def doCutoff (s : Block) : Block :=
  if inJob s && jobState s == 3 && !s.plan.halted && !s.plan.inQuantum && flag s Reg.SES.SES_STATUS_LEAD && (ream s).mode != 0 && engState s engSSE == 2 &&
      stepStart s (sheet s + 2) && s.plan.stepHdr.isEmpty && decide (s.plan.sheetStart + rd s Reg.SES.CUTOFF ≤ sched s) &&
      !(s.serv.taken.any (fun x => x.1 == stepNumber s (sheet s + 2))) then takeItems s
  else s

/-! ### The step to build -/

/-- The variant in force at the boundary that the committed record leads to (R50). -/
def comingVariant (s : Block) : Nat :=
  let r := s.plan.committed
  if bit (recReq r) 2 ∧ recReady r % 4 = 3 then bits (recReq r) 3 2 else s.plan.variant

/-- The switch that the committed record makes (R51): the set and the policy. -/
def comingSwitch (s : Block) : Option (Nat × Nat) :=
  let w := recSwitch s.plan.committed
  if bit w 57 ∧ bits w 0 48 = sheet s + 1 ∧ recWsReady s.plan.committed ∧ stepStart s (sheet s + 1) then
    some (bits w 48 8, bits w 56 1) else none

def setNow (s : Block) : Nat := match wsActive s with
  | some d => wsSet s d
  | none => rd s Reg.SES.SES_STATUS_WEIGHT_SET
/-- The step's weight set. -/
def stepSet (s : Block) : Nat := match comingSwitch s with
  | some x => x.1
  | none => setNow s

def stepB (s : Block) : Nat := servField s (comingVariant s) 0
def stepPC (s : Block) : Nat := servField s (comingVariant s) 1
def stepCL (s : Block) : Nat := servField s (comingVariant s) 2
def specK (s : Block) : Nat := rd s Reg.SES.GEOMETRY_SPEC_K
def pageTokens (s : Block) : Nat := max 1 (rd s Reg.SES.PAGE_GEOM_PAGE_TOKENS)
/-- The allowance G of R271. -/
def growth (s : Block) : Nat := 3 * (specK s + 1)

/-! ### Step 1: the outcome of step j − 2 -/

/-- One slot's outcome. -/
def applySlot (b : Built) (i : Nat) (r : SlotRec) (s : Block) : Block :=
  let s := match r.took with
    | some x => unpin s x.1 x.2
    | none => s
  match r.session with
  | none => s
  | some n =>
    if !r.live ∨ seState s n = seFREE then s
    else
      let s := touch s n
      let s := sePut s n 12 4 (seTokens s n + advanceOf s b.step i)
      let s := logTokens s n (tokensOf s b.step i)
      let keep := ceilDiv (seTokens s n + growth s) (pageTokens s)
      let extra := (pagesOf s n).drop keep
      let s := readList s n
      if extra.isEmpty then s
      else
        let s := overL (extra.filter (fun x => pageState s x.1 x.2 == pgOWNED)) (fun x t => quarantine t x.1 x.2) s
        truncatePages s n keep

/-- A session's pages enter quarantine and its list empties. -/
def giveUp (s : Block) (i : Nat) : Block := if sePages s i = 0 then s else sePut (dropPages s i) i 28 4 0

def applyOutcome (s : Block) : Block :=
  match s.serv.built.find? (fun b => b.step + 2 == s.serv.buildStep) with
  | none => s
  | some b =>
    let s := freezeResults s b
    overL (b.slots.zip (List.range b.slots.length)) (fun p t => applySlot b p.2 p.1 t) s

/-- Sessions that moved have reached their tier; those whose page met an uncorrectable error become POISONED; closed sessions that have settled give up
their pages, and become FREE with the last of them (R264). -/
def settleEnds (s : Block) : Block :=
  let s := overL (sessionList s (fun i => decide (2 ≤ seTier s i))) settleTier s
  let s := overL s.serv.poisoned (fun i t =>
    if seState t i = seACTIVE ∨ seState t i = sePAUSED then raisePage (endSession t i sePOISONED) sesPg ErrBit.SES.SESSION_POISONED else t)
    { s with serv := { s.serv with poisoned := [] } }
  overL (sessionList s (fun i => seState s i == seDYING && settled s i)) (fun i t =>
    maybeFree (giveUp t i) i) s

/-! ### Steps 2 and 3 -/

/-- The item's arguments that R261 does not list are zero (DEDUCED, log entry 36). -/
def argsOk (d : List Byte) : Bool :=
  let k := itKind d
  let a0 := itA0 d
  let a1 := itA1 d
  let a2 := itA2 d
  (k == 1 || itFlags d == 0) && itFlags d < 4 && fieldLe d 3 1 == 0 && itSession d < 2 ^ 20 &&
  (if k = 1 then decide (a0 < 4096) && (bit a1 31 || decide (a1 < 4096)) && bits a1 12 19 == 0
   else if k = 3 ∨ k = 4 then decide (a0 < 4096) && a1 == 0 && a2 == 0
   else if k = 5 then decide (1 ≤ a0) && decide (a0 ≤ 2 ^ 20) && a1 == 0
   else if k = 6 ∨ k = 7 ∨ k = 8 then a0 == 0 && a1 == 0
   else if k = 9 then decide (a0 < 4096) && a2 == 0
   else if k = 0x0A then decide (a0 < 4096)
   else if k = 0x0B ∨ k = 0x0C then true
   else decide (k ≤ 0x0D) && a0 == 0 && a1 == 0 && a2 == 0)

def applyQuotas (s : Block) (items : List (List Byte)) : Block :=
  overL items (fun d t => if itKind d = 9 ∧ argsOk d then tabPut t (quotaAddr t (itA0 d)) 4 (itA1 d) else t) s

/-- Sorted insertion by deadline, then session number. -/
def insertDue (x : Nat × Nat) : List (Nat × Nat) → List (Nat × Nat)
  | [] => [x]
  | y :: r => if x.1 < y.1 ∨ (x.1 = y.1 ∧ x.2 < y.2) then x :: y :: r else y :: insertDue x r
def sortDue (l : List (Nat × Nat)) : List (Nat × Nat) := l.foldr insertDue []

def expire (s : Block) : Block :=
  let due := sessionList s (fun i =>
    (seState s i == seACTIVE || seState s i == sePAUSED) && seTtl s i != 0 && decide (seTtl s i ≤ s.serv.wallMs) && settled s i)
  overL (sortDue (due.map (fun i => (seTtl s i, i)))) (fun x t => endSession t x.2 seEXPIRED) s

/-! ### Steps 4 and 5: items (R272) -/

def itOK : Nat := 0
def itBADSTATE : Nat := 1
def itBADARG : Nat := 2
def itQUOTA : Nat := 3
def itNOSPACE : Nat := 4
def itBUSY : Nat := 5
def itADBUSY : Nat := 6
def itSTALE : Nat := 7

/-- A TTL becomes a deadline; 0 stays none. -/
def deadlineOf (s : Block) (ms : Nat) : Nat := if ms = 0 then 0 else (s.serv.wallMs + ms) % 2 ^ 64

/-- The first code of a list whose cause holds (DEDUCED, log entry 36). -/
def firstCode : List (Bool × Nat) → Nat
  | [] => 0
  | c :: r => if c.1 then c.2 else firstCode r

def slotHolder (s : Block) (k : Nat) : Option Nat := match Tab.get s.serv.slots 0 k with
  | 0 => none
  | n + 1 => some n
def setSlot (s : Block) (k v : Nat) : Block := { s with serv := { s.serv with slots := Tab.put s.serv.slots 0 k v } }
/-- A session leaves its decode slot. -/
def leaveSlot (s : Block) (i : Nat) : Block := if seInSlot s i then seSet (setSlot s (seSlot s i) 0) i 36 0 13 0 else s

/-- DEDUCED, log entry 36. -/
def itemOpen (s : Block) (i : Nat) (d : List Byte) : Block × Nat :=
  let t := itA0 d
  let noPage := (freePage s 0).isNone
  let c := firstCode [(seState s i != seFREE, itBADSTATE), (quotaFull s t, itQUOTA),
    (noPage || decide (rd s Reg.SES.PL_BLOCKS ≤ s.serv.plUsed.length) ||
      (logPages s != 0 && decide (logPages s ≤ s.serv.logUsed.length)), itNOSPACE)]
  if c = itQUOTA then (refuse s t, c)
  else if c = itNOSPACE ∧ noPage then (exhausted s 0, c)
  else if c ≠ 0 then (s, c)
  else
    let rebind := bit (itFlags d) 0
    let none_ := bit (itA1 d) 31
    let e := itA1 d % 4096
    let a := adapterOf s e
    let valid := !none_ && (a.ver a.current).valid
    let s := when (valid && !rebind) (fun t => pin t e a.current) (touch s i)
    let w0 := seACTIVE + 16 * b2n rebind + 32 * b2n (bit (itFlags d) 1) + 256 * t
    let w1 := if none_ then 0 else e + 4096 * (if rebind then 0 else a.current) + 8192 * b2n (valid || rebind)
    let entry := natLe 4 w0 ++ natLe 4 w1 ++ natLe 4 (stepSet s) ++ natLe 4 0 ++ natLe 8 (deadlineOf s (itA2 d)) ++ natLe 4 noneWord ++
      natLe 4 0 ++ natLe 4 noneWord ++ zeros 28
    let s := seWrite s i 0 entry
    ({ s with serv := { s.serv with fresh := i :: s.serv.fresh.filter (· != i) } }, itOK)

/-- DEDUCED, log entry 36. -/
def itemClose (s : Block) (i : Nat) : Block × Nat :=
  let c := firstCode [(seState s i == seFREE, itBADSTATE), (seState s i == seDYING, itBUSY)]
  if c ≠ 0 then (s, c)
  else
    let ended := seState s i == seEXPIRED || seState s i == sePOISONED
    let s := leaveSlot (dropQueue (touch s i) i) i
    let s := setSeState (when (!ended) (fun t => dropPin t i) s) i seDYING
    (if settled s i then maybeFree (giveUp s i) i else s, itOK)

def itemAssign (s : Block) (i : Nat) (d : List Byte) : Block × Nat :=
  let k := itA0 d
  let c := firstCode [(seState s i != seACTIVE, itBADSTATE), (!settled s i, itBUSY), (seInSlot s i, itBADSTATE),
    (decide (stepB s ≤ k) || (slotHolder s k).isSome, itBADARG), (queued s i, itBUSY), (seStale s i, itSTALE)]
  if c ≠ 0 then (s, c)
  else
    let s := setSlot (seSet (touch s i) i 36 0 13 (k + 4096)) k (i + 1)
    ({ s with serv := { s.serv with newSlots := k :: s.serv.newSlots } }, itOK)

def itemRelease (s : Block) (i : Nat) (d : List Byte) : Block × Nat :=
  if itA0 d < stepB s ∧ slotHolder s (itA0 d) = some i then (leaveSlot (touch s i) i, itOK) else (s, itBADARG)

/-- Items on a DYING session are BUSY; on one in another state than those named, BAD_STATE. -/
def stateCode (s : Block) (i : Nat) (sts : List Nat) : Nat :=
  if seState s i = seDYING then itBUSY else if sts.contains (seState s i) then 0 else itBADSTATE

/-- DEDUCED, log entry 36. -/
def itemPrefill (s : Block) (i : Nat) (d : List Byte) : Block × Nat :=
  let c := firstCode [(stateCode s i [seACTIVE] != 0, stateCode s i [seACTIVE]), (!settled s i || queued s i || seInSlot s i, itBUSY)]
  if c ≠ 0 then (s, c)
  else
    let s := touch s i
    ({ s with serv := { s.serv with prefill := s.serv.prefill ++ [⟨i, false, seTokens s i, itA0 d, itA2 d % 1048576⟩] } }, itOK)

/-- DEDUCED, log entry 36. -/
def itemPause (s : Block) (i : Nat) (d : List Byte) : Block × Nat :=
  let st := stateCode s i [seACTIVE]
  let c := firstCode [(st == itBADSTATE, itBADSTATE), (st != 0 || !settled s i, itBUSY), (seInSlot s i || seTier s i != 0, itBADSTATE),
    (queued s i, itBUSY)]
  let m := moveCheck s i 1
  if c ≠ 0 then (s, c)
  else if m ≠ 0 then (exhausted s 1, m)
  else (moveSession (touch s i) i 1 sePAUSED false (deadlineOf s (itA2 d)), itOK)

/-- DEDUCED, log entry 36. -/
def itemResume (s : Block) (i : Nat) (d : List Byte) : Block × Nat :=
  let st := stateCode s i [sePAUSED]
  let c := firstCode [(st == itBADSTATE || (st == 0 && seTier s i != 1), itBADSTATE), (st != 0, itBUSY)]
  let m := moveCheck s i 0
  if c ≠ 0 then (s, c)
  else if m = itQUOTA then (refuse s (seTenant s i), m)
  else if m ≠ 0 then (exhausted s 0, m)
  else (moveSession (touch s i) i 0 seACTIVE false (deadlineOf s (itA2 d)), itOK)

def itemSetTtl (s : Block) (i : Nat) (d : List Byte) : Block × Nat :=
  let c := stateCode s i [seACTIVE, sePAUSED]
  if c ≠ 0 then (s, c) else (setSeTtl (touch s i) i (deadlineOf s (itA2 d)), itOK)

/-- The non-current version takes the new address and word and becomes current. -/
def itemAdapter (s : Block) (d : List Byte) : Block × Nat :=
  let e := itA0 d
  let a := adapterOf s e
  let n := 1 - a.current
  if (a.ver n).refs ≠ 0 then (s, itADBUSY)
  else (setAdapter s e { a.setVer n ⟨itA2 d, itA1 d, true, 0⟩ with current := n }, itOK)

def itemReplay (s : Block) (i : Nat) : Block × Nat :=
  let st := stateCode s i [seACTIVE]
  let c := firstCode [(st == itBADSTATE || seNolog s i, itBADSTATE), (st != 0 || !settled s i || queued s i || seInSlot s i, itBUSY)]
  if c ≠ 0 then (s, c)
  else
    let s := truncatePages (dropPages (touch s i) i) i 0
    let s := sePut (seSet (seSet s i 0 3 1 0) i 8 0 8 (stepSet s)) i 12 4 0
    let n := (logOf s i).2
    (if n = 0 then s else { s with serv := { s.serv with prefill := s.serv.prefill ++ [⟨i, true, 0, n, 0⟩] } }, itOK)

/-- One item, with its status (DEDUCED, log entry 36). -/
def applyItem (s : Block) (d : List Byte) : Block × Nat :=
  let k := itKind d
  let i := itSession d
  if k = 0x0B ∨ k = 0x0C then (s, itOK)
  else if !argsOk d then (s, itBADARG)
  else if k = 0 ∨ k = 9 then (s, itOK)
  else if k = 0x0A then itemAdapter s d
  else if sessionCount s ≤ i then (s, itBADARG)
  else if k = 1 then itemOpen s i d
  else if k = 2 then itemClose s i
  else if k = 3 then itemAssign s i d
  else if k = 4 then itemRelease s i d
  else if k = 5 then itemPrefill s i d
  else if k = 6 then itemPause s i d
  else if k = 7 then itemResume s i d
  else if k = 8 then itemSetTtl s i d
  else itemReplay s i

/-- Items of a kind of pass, in item order, with their statuses by item number. -/
def applyItems (p : List Byte → Bool) : Block → List (List Byte) → List (Nat × Nat) → Block × List (Nat × Nat)
  | s, [], acc => (s, acc)
  | s, d :: r, acc =>
    if p d then
      let x := applyItem s d
      let t := when (x.2 != 0) (fun u => raisePage u sesPg ErrBit.SES.ITEM_REJECTED) x.1
      applyItems p { t with serv := { t.serv with itemNow := itNumber d } } r (acc ++ [(itNumber d, x.2)])
    else applyItems p s r acc

/-! ### Step 6: demotion by the allocator -/

/-- Sorted insertion by OVER, LAST_STEP and session number. -/
def insertCand (x : Nat × Nat × Nat) : List (Nat × Nat × Nat) → List (Nat × Nat × Nat)
  | [] => [x]
  | y :: r => if x.1 < y.1 ∨ (x.1 = y.1 ∧ (x.2.1 < y.2.1 ∨ (x.2.1 = y.2.1 ∧ x.2.2 < y.2.2))) then x :: y :: r else y :: insertCand x r

/-- Candidates in turn, until the free pages and those on their way out reach HBM_LOW (DEDUCED, log entry 37). -/
def demoteLoop : Block → List (Nat × Nat × Nat) → Nat → Block
  | s, [], _ => s
  | s, c :: r, free =>
    if rd s Reg.SES.HBM_LOW ≤ free then s
    else
      let i := c.2.2
      if moveCheck s i 1 ≠ 0 then demoteLoop (exhausted s 1) r free
      else
        let n := ((pagesOf s i).filter (fun x => x.1 == 0)).length
        demoteLoop (moveSession (touch s i) i 1 sePAUSED true ((s.serv.wallMs + rd s Reg.SES.AUTO_TTL) % 2 ^ 64)) r (free + n)

def demote (s : Block) : Block :=
  let free := freeCount s 0
  if rd s Reg.SES.HBM_LOW ≤ free then s
  else
    let cands := sessionList s (fun i => seState s i == seACTIVE && seTier s i == 0 && !seInSlot s i && settled s i)
    let keyed := cands.map (fun i => (b2n (!quotaFlag s (seTenant s i) 0), seLast s i, i))
    demoteLoop s (keyed.foldr insertCand []) free

/-! ### Step 7: growth and chunks -/

/-- HBM pages up to a position: 0, or 3 where the quota refused one, or 4 where none was to be had. -/
def grow : Nat → Block → Nat → Nat → Block × Nat
  | 0, s, _, _ => (s, 0)
  | f + 1, s, i, upto =>
    if ceilDiv upto (pageTokens s) ≤ sePages s i then (s, 0)
    else if quotaFull s (seTenant s i) then (refuse s (seTenant s i), 3)
    else if !plRoom s i 1 then (s, 4)
    else match takePage s 0 i pgOWNED with
      | (t, none) => (t, 4)
      | (t, some p) => grow f (appendPage t i 0 p) i upto

/-- A session that runs from HBM grows; any other stays as it is. -/
def growSession (s : Block) (i upto : Nat) : Block × Bool :=
  if seState s i = seACTIVE ∧ seTier s i = 0 then
    let x := grow (ceilDiv upto (pageTokens s) + 1) s i upto
    (x.1, x.2 == 3)
  else (s, false)

def growSlots (s : Block) : Block × List Nat :=
  (List.range (stepB s)).foldl (fun acc k =>
    match slotHolder acc.1 k with
    | none => acc
    | some i =>
      let x := growSession (touch acc.1 i) i (seTokens acc.1 i + growth acc.1)
      (x.1, if x.2 then k :: acc.2 else acc.2)) (s, [])

/-! ### Step 8: judging (R273, R275) -/

/-- The status of a slot of a session whose positions reach `upto`. -/
def judge (s : Block) (i upto : Nat) (refused : Bool) : Nat :=
  let need := ceilDiv upto (pageTokens s)
  let pages := pagesOf s i
  if refused then 3
  else if seState s i = sePOISONED then 4
  else if seState s i ≠ seACTIVE ∨ seTier s i ≠ 0 ∨ pages.length < need ∨
      (pages.take need).any (fun x => x.1 != 0 || pageState s 0 x.2 != pgOWNED) then 2
  else if seStale s i then 5
  else if seGen s i ≠ stepSet s then 6
  else 0

/-- The slot record of a session, and the adapter reference that a rebinding session takes for the step. -/
def recordOf (s : Block) (i pos upto : Nat) (isNew refused : Bool) : Block × SlotRec :=
  let st := judge s i upto refused
  let e := seAdapter s i
  let a := adapterOf s e
  let rb := seRebind s i && seAvalid s i && (a.ver a.current).valid
  let pages := ((pagesOf s i).filter (fun x => x.1 == 0)).map (fun x => x.2)
  let r : SlotRec :=
    { session := some i, live := st == 0, new := isNew, status := st, spec := seSpec s i, position := pos
      tenant := seTenant s i, adapter := e, aver := (if rb then a.current else seAver s i)
      avalid := rb || (!seRebind s i && seAvalid s i), took := (if rb then some (e, a.current) else none)
      pages := (if st = 0 then pages.take (rd s Reg.SES.PAGE_GEOM_MAX_CTX_PAGES) else []) }
  (when rb (fun t => pin t e a.current) (readList s i), r)

/-- The session held a slot or a chunk in this step. -/
def heldSlot (s : Block) (i : Nat) : Block :=
  { sePut s i 40 4 s.serv.buildStep with serv := { s.serv with fresh := s.serv.fresh.filter (· != i) } }

/-- The record of a decode slot. -/
def judgeSlot (refused : List Nat) (acc : Block × List SlotRec) (k : Nat) : Block × List SlotRec :=
  match slotHolder acc.1 k with
  | none => (acc.1, acc.2 ++ [{}])
  | some i =>
    let s := acc.1
    let x := recordOf s i (seTokens s i) (seTokens s i + growth s) (s.serv.newSlots.contains k) (refused.contains k)
    (heldSlot x.1 i, acc.2 ++ [x.2])

/-- Where a queue entry's next token stands: its log page and index, or its word. -/
def chunkSource (s : Block) (p : Prefill) : Nat × Nat :=
  if p.replay then ((logOf s p.session).1.getD (p.word / 16382) 0, p.word % 16382) else (p.word, 0)

/-- One queue entry's next chunk. -/
def takeChunk (s : Block) (p : Prefill) : Block × SlotRec :=
  let i := p.session
  let n := min (stepCL s) p.left
  let g := growSession (touch s i) i (p.next + n)
  let x := recordOf g.1 i p.next (p.next + n) false g.2
  let src := chunkSource s p
  let r := { x.2 with chunk := true, count := n, replay := p.replay, word := src.1, index := src.2 }
  let s := heldSlot x.1 i
  let s := if p.replay then s
    else
      let u := logTokens s i (promptTokens s p.word n)
      when (flag u Reg.SES.SES_STATUS_LEAD) (fun v => incMod v Reg.SES.INPUT_TAKEN n) u
  (s, r)

/-- The queue entry after a chunk of n tokens; none where it is used up. -/
def afterChunk (p : Prefill) (n : Nat) : List Prefill :=
  if p.left ≤ n then [] else
    [{ p with next := p.next + n, left := p.left - n, word := if p.replay then p.word + n else (p.word + n) % 1048576 }]

/-- The chunk slots take the queue's next chunks, at most one a session (DEDUCED, log entry 37). -/
def takeChunks : List Prefill → Nat → List Nat → Block → List SlotRec → List Prefill → Block × List SlotRec × List Prefill
  | [], _, _, s, recs, rest => (s, recs, rest)
  | p :: q, room, seen, s, recs, rest =>
    match room with
    | 0 => (s, recs, rest ++ p :: q)
    | room' + 1 =>
      if seen.contains p.session then takeChunks q room seen s recs (rest ++ [p])
      else
        let x := takeChunk s p
        takeChunks q room' (p.session :: seen) x.1 (recs ++ [x.2]) (rest ++ afterChunk p (min (stepCL s) p.left))

/-! ### The step block (R274–R276) -/

/-- The index entry of an HBM page. -/
def pageIndex (p : Nat) : Nat := p % 12 * 2 ^ 20 + p / 12

/-- DEDUCED, log entry 37. -/
def recWord0 (r : SlotRec) : Nat :=
  r.session.getD 0 + 2 ^ 20 * b2n r.live + 2 ^ 21 * b2n r.new + 2 ^ 22 * r.status + 2 ^ 25 * b2n r.spec
def recWord2 (r : SlotRec) : Nat := r.tenant + 4096 * r.adapter + 2 ^ 24 * r.aver + 2 ^ 25 * b2n r.avalid
def decodeRec (r : SlotRec) : List Byte :=
  natLe 4 (recWord0 r) ++ natLe 4 r.position ++ natLe 4 (recWord2 r) ++ natLe 4 r.pages.length
def chunkRec (r : SlotRec) : List Byte :=
  natLe 4 (recWord0 r) ++ natLe 4 r.position ++ natLe 4 (recWord2 r) ++ natLe 4 (r.count + 65536 * b2n r.replay) ++ natLe 4 r.word ++
  natLe 4 r.index ++ zeros 8
/-- A slot's run of page-index entries. -/
def pageRun (maxPages : Nat) (r : SlotRec) : List Byte :=
  r.pages.flatMap (fun p => natLe 4 (pageIndex p)) ++ (List.replicate (maxPages - r.pages.length) (natLe 4 (2 ^ 28))).flatten

/-- DEDUCED, log entry 37. -/
def stepBlock (s : Block) (dec chk : List SlotRec) : List Byte :=
  natLe 8 s.serv.buildStep ++ natLe 8 s.serv.wallMs ++ natLe 1 (comingVariant s) ++ natLe 1 (stepSet s) ++
  natLe 2 (dec.filter (fun r => r.live)).length ++ natLe 2 (chk.filter (fun r => r.session.isSome)).length ++ zeros 42 ++
  dec.flatMap decodeRec ++ chk.flatMap chunkRec ++ dec.flatMap (pageRun (rd s Reg.SES.PAGE_GEOM_MAX_CTX_PAGES))

/-- The block goes into its bank, which is ready if that is done by BUILD. -/
def writeBlock (s : Block) (dec chk : List SlotRec) : Block :=
  let b := s.serv.buildStep % 2
  let s := stepWrite (stepZero s (b * 0x200000) (b * 0x200000 + 0x200000)) (b * 0x200000) (stepBlock s dec chk)
  let rest := s.serv.bankReady.filter (· != b)
  { s with serv := { s.serv with bankReady := if sched s ≤ s.plan.sheetStart + rd s Reg.SES.BUILD then b :: rest else rest } }

/-! ### Quota flags, counts, the weight switch -/

/-- OVER and REFUSING of every tenant, judged on what the build left (R178, R271). -/
def judgeQuotas (s : Block) : Block :=
  let ref := s.serv.refused
  overN 4096 (fun t u =>
    let q := quotaOf u t
    let n := usedOf u t
    let u := if quotaFlag u t 0 = decide (q < n ∧ q ≠ noneWord) then u else setQuotaFlag u t 0 (decide (q < n ∧ q ≠ noneWord))
    let r := if ref.contains t then true else quotaFlag u t 1 && decide (q ≤ n) && q != noneWord
    if quotaFlag u t 1 = r then u else setQuotaFlag u t 1 r) { s with serv := { s.serv with refused := [] } }

def countSessions (s : Block) : Block :=
  let n := fun (p : Nat → Bool) => (sessionList s p).length
  let set_ := stepSet s
  let gen := n (fun i => seState s i != seFREE && seGen s i != set_)
  let s := wr (wr s Reg.SES.SESS_ACTIVE (n (fun i => seState s i == seACTIVE))) Reg.SES.SESS_PAUSED (n (fun i => seState s i == sePAUSED))
  let s := wr (wr s Reg.SES.GEN_SESSIONS gen) Reg.SES.LOG_FREE (if keeper s then logPages s - s.serv.logUsed.length else 0)
  if s.serv.drainSet.isSome ∧ gen = 0 then wr s Reg.SES.SES_STATUS_OTHER_FREE 1 else s

/-- The switch made for this step (R283): under drain the old set stays; under cut its sessions become STALE. -/
def applySwitch (s : Block) : Block :=
  match comingSwitch s with
  | none => s
  | some x =>
    let old := setNow s
    if x.1 = old then s
    else
      let s := wr s Reg.SES.SES_STATUS_OTHER_SET old
      if x.2 = 0 then { wr s Reg.SES.SES_STATUS_OTHER_FREE 0 with serv := { s.serv with drainSet := some old } }
      else
        let s := overL (sessionList s (fun i => seState s i != seFREE && seGen s i == old)) (fun i t => seSet t i 0 3 1 1) s
        { wr s Reg.SES.SES_STATUS_OTHER_FREE 1 with serv := { s.serv with drainSet := none } }

/-! ### The build (R271) -/

/-- The 16 bytes of an item's result (R286), with the host's TAG. -/
def itemResult (tags : List (List Byte)) (first : Nat) (sts : List (Nat × Nat)) (d : List Byte) : List Byte :=
  let n := itNumber d
  natLe 4 n ++ natLe 2 (itKind d) ++ natLe 1 (((sts.find? (fun x => x.1 == n)).map (fun x => x.2)).getD 0) ++ zeros 1 ++
  slice (tags.getD (dist32 n first) []) 0 8

def finishBuild (s : Block) (items : List (List Byte)) (sts : List (Nat × Nat)) (dec chk : List SlotRec) : Block :=
  let step := s.serv.buildStep
  let info := s.serv.taken.find? (fun x => x.1 == step)
  let first := match info with
    | some x => x.2.1
    | none => (items.map itNumber).headD 0
  let tooMany := match info with
    | some x => x.2.2.1
    | none => false
  let tags := match info with
    | some x => x.2.2.2
    | none => []
  let b : Built := ⟨step, s.serv.wallMs, comingVariant s, stepSet s, s.serv.flags + 16 * b2n tooMany, first,
    items.map (itemResult tags first sts), dec ++ chk⟩
  let nr := ((dec ++ chk).filter (fun r => r.status == 2)).length
  let s := incSat s Reg.SES.NOT_READY_TOTAL nr
  { s with serv := { s.serv with
    built := s.serv.built.filter (fun x => decide (step < x.step + 3)) ++ [b]
    flags := 0, newSlots := [] } }

def build (s : Block) : Block :=
  let items := s.serv.committedItems
  let s := applySwitch { s with serv := { s.serv with buildStep := stepNumber s (sheet s + 1), building := false, newSlots := [] } }
  let s := settleEnds (applyOutcome s)
  let s := expire (applyQuotas s items)
  let a := applyItems (fun d => itKind d == 2) s items []
  let b := applyItems (fun d => itKind d != 2) a.1 items a.2
  let g := growSlots (demote b.1)
  let c := takeChunks g.1.serv.prefill (stepPC g.1) [] g.1 [] []
  let s := judgeQuotas { c.1 with serv := { c.1.serv with prefill := c.2.2 } }
  let d := (List.range (stepB s)).foldl (judgeSlot g.2) (s, [])
  let chk := c.2.1 ++ List.replicate (stepPC d.1 - c.2.1.length) { ({} : SlotRec) with chunk := true }
  -- a session in a slot beyond the variant's B keeps it (R280)
  let s := overL ((d.1.serv.slots.filter (fun x => decide (stepB d.1 ≤ x.1))).map (fun x => x.2 - 1)) (fun i t => heldSlot t i) d.1
  finishBuild (countSessions (freeVersions (writeBlock s d.2 chk))) items b.2 d.2 chk

def doBuild (s : Block) : Block :=
  if inJob s && jobState s == 3 && !s.plan.halted && s.serv.building && (ream s).mode != 0 && engState s engSSE == 2 then build s else s

/-- The deadline of the bank of the coming step (R274). -/
def doBuildDeadline (s : Block) : Block :=
  let b := stepNumber s (sheet s + 1) % 2
  if inJob s && jobState s == 3 && !s.plan.halted && (ream s).mode != 0 && stepStart s (sheet s + 1) &&
      decide (s.plan.sheetStart + rd s Reg.SES.BUILD ≤ sched s) && (s.serv.building || !s.serv.bankReady.contains b) then
    raisePage { s with serv := { s.serv with bankReady := s.serv.bankReady.filter (· != b) } } sesPg ErrBit.SES.STEP_LATE
  else s

/-! ### Results to the host (R286, R287, R365) -/

/-- The stride of the ring: the largest numbers of slots over the variants. -/
def resultStride (s : Block) : Nat :=
  let m := fun (k : Nat) => ((List.range (max 1 (ream s).variants)).map (fun v => servField s v k)).foldl max 0
  ceilDiv (4160 + 64 * (m 0 + m 1)) 4096 * 4096

/-- The unit whose HOST slots carry the results to the host: that of the session table (DESIGN CHOICE, log entry 38). -/
def resultsUnit (s : Block) : Nat := (unitOf s (rd s Reg.SES.TABLE_BASE)).getD 0

/-- DEDUCED, log entry 38. -/
def doResultsCopy (s : Block) : Block :=
  let n := rd s Reg.SES.RING_ENTRIES
  match s.serv.results with
  | [] => s
  | r :: rest =>
    if n = 0 ∨ n ≤ dist32 s.serv.written (rd s Reg.SES.RING_CONSUMED) then s
    else
      let body := r.head.take 24 ++ natLe 4 s.serv.lost ++ r.head.drop 28 ++ resultBytes s r
      let x := resultsAcross s (resultsUnit s) (2 ^ 42 + r.step) body.length
      if !x.2 then x.1
      else
      let s := hostWrite x.1 (rd s Reg.SES.RING_BASE + resultStride s * (s.serv.written % n)) body
      let s := hostWrite s (rd s Reg.SES.RING_SEQ_ADDR) (natLe 8 r.step)
      let s := showPending { s with serv := { s.serv with results := rest, lost := 0, written := (s.serv.written + 1) % 2 ^ 32 } }
      if flag s Reg.SES.RING_CTRL_STEP_IRQ then msix s (rd s Reg.SES.RING_CTRL_VECTOR) else s

/-- A write of RING_ENTRIES; from 0 it restarts the ring. -/
def doRingEntries (s : Block) (rq : Requester) (v : Nat) : Block :=
  let old := rd s Reg.SES.RING_ENTRIES
  writeWord s rq Reg.SES.RING_ENTRIES.addr v (fun _ t =>
    if old = 0 ∧ rd t Reg.SES.RING_ENTRIES ≠ 0 then { t with serv := { t.serv with written := rd t Reg.SES.RING_CONSUMED } } else t)

/-! ### Meanings -/

def execStepCutoff := run doCutoff
def execStepBuild := run doBuild
def execStepBuildDeadline := run doBuildDeadline
def execPageCopyComplete (target : MemUnit) (ok : Bool) := run (fun s => doPageCopy s (unitNum target) ok)
def execPageZeroComplete (target : MemUnit) (ok : Bool) := run (fun s => doPageZero s (unitNum target) ok)
def execResultsCopy := run doResultsCopy
def execRingEntriesWrite (rq : Requester) (v : BitVec 32) := run (fun s => doRingEntries s rq v.toNat)

end Sys2Proof.Machine
end

