-- ==== Sys2Proof/Machine/Teardown.lean ====
section
/-! DEFINITION. Teardown and kept ranges (R344–R347, R392, R393). -/

namespace Sys2Proof.Machine

/-! ### Kept ranges (R392, R393) -/

def keptState (s : Block) (r : Nat) : Nat := rd s (Reg.GLB.KEPT_STATE_STATE r)
def keptBase (s : Block) (r : Nat) : Nat := rd s (Reg.GLB.KEPT_BASE r)
def keptNamed (s : Block) (r : Nat) : Bool := keptState s r == 1

/-- A NAMED entry that a teardown cannot take. -/
def keptInvalid (s : Block) (r : Nat) : Bool :=
  let a := keptBase s r
  let n := keptLen s r
  let inside := match devRange s a with
    | some d => decide (d.kind ≤ 1) && decide (a + n ≤ d.base + d.size)
    | none => false
  keptNamed s r && (a % 65536 != 0 || !inside || inCrash s a n ||
    (List.range 16).any (fun q => q != r && keptState s q != 0 && meets a n (keptBase s q) (keptLen s q)))

/-- Every NAMED entry becomes KEPT with the job's tag, at this tick. -/
def keepNamed (tag : Nat) (s : Block) : Block :=
  overN 16 (fun r t => if keptNamed t r then
      wr (wr { t with keptAt := Tab.put t.keptAt 0 r (now t + 1) } (Reg.GLB.KEPT_STATE_STATE r) 2) (Reg.GLB.KEPT_STATE_TAG r) tag
    else t) s

/-- A teardown of this tick took the entry: a RELEASE_KEPT of the same tick comes before it (R393). -/
def keptNow (s : Block) (r : Nat) : Bool := Tab.get s.keptAt 0 r == now s + 1

def doReleaseKept (s : Block) (rq : Requester) : Block :=
  guardedCmd s rq 0 (fun t =>
    overN 16 (fun r u => if bit (rd u Reg.GLB.KEPT_SELECT) r ∧ keptState u r = 2 ∧ keptNow u r = false then wr u (Reg.GLB.KEPT_STATE_STATE r) 3 else u) t)

/-- The range of a RELEASING entry is zero. -/
def doKeptComplete (s : Block) (r : Nat) : Block :=
  if keptState s r = 3 then
    let s := devZero s (keptBase s r) (keptBase s r + keptLen s r)
    wr (wr (wr (wr s (Reg.GLB.KEPT_STATE_STATE r) 0) (Reg.GLB.KEPT_STATE_TAG r) 0) (Reg.GLB.KEPT_BASE r) 0) (Reg.GLB.KEPT_LEN r) 0
  else s

/-- Register 0 BASE_LO, 1 BASE_HI, 2 LEN; the length names an entry or takes its name away. -/
def doKeptWrite (s : Block) (rq : Requester) (r reg v : Nat) : Block :=
  if keptBusy s r then s
  else writeWord s rq (0x100 + 16 * r + 4 * reg) v (fun _ t => wr t (Reg.GLB.KEPT_STATE_STATE r) (b2n (rd t (Reg.GLB.KEPT_LEN r) != 0)))

/-! ### The zeroing (R345, R346) -/

/-- What a scrub leaves: the crash area, kept ranges, regions of weight sets that are not EMPTY. -/
def holes (s : Block) : List (Nat × Nat) :=
  (List.range 8).filterMap (fun c => if ddrCap s c = 0 then none else
    some (unitBase (12 + c) + ddrCap s c - 0x10000000, unitBase (12 + c) + ddrCap s c)) ++
  (List.range 16).filterMap (fun r => if keptBusy s r then some (keptBase s r, keptBase s r + keptLen s r) else none) ++
  (List.range 48).filterMap (fun i =>
    if wsState s (i / 12) = wsEMPTY then none else some (unitBase (i % 12) + wsBase s (i / 12), unitBase (i % 12) + wsBase s (i / 12) + wsLen s (i / 12)))

/-- An interval without a hole. -/
def punch (h : Nat × Nat) (i : Nat × Nat) : List (Nat × Nat) :=
  [(i.1, min i.2 h.1), (max i.1 h.2, i.2)].filter (fun p => decide (p.1 < p.2))

/-- [lo, hi) zeroed but for the holes. -/
def zeroOutside (hs : List (Nat × Nat)) (i : Nat × Nat) (s : Block) : Block :=
  overL (hs.foldl (fun l h => l.flatMap (punch h)) [i]) (fun p t => devZero t p.1 p.2) s

/-- The ranges of HBM and DDR5 that the job used. -/
def jobRanges (s : Block) : List (Nat × Nat) :=
  (declared s).map (fun d => (d.base, d.base + d.len)) ++
  (if (ream s).mode = 0 then [] else
    (List.range 20).map (fun u =>
      let o := unitBase u + rd s (regU u Reg.HBM.POOL_OFFSET Reg.DDR.POOL_OFFSET)
      (o, o + 65536 * (if u < 12 then (hbmPool s + 11 - u) / 12 else (ddrPool s + 19 - u) / 8))) ++
    [(rd s Reg.SES.TABLE_BASE, rd s Reg.SES.TABLE_BASE + 64 * rd s Reg.SES.SESSIONS),
     (rd s Reg.SES.PL_BASE, rd s Reg.SES.PL_BASE + 256 * rd s Reg.SES.PL_BLOCKS),
     (quotaBase s, quotaBase s + 0x10000 + 8 * (hbmPool s + ddrPool s))])

/-- Scratchpads, cluster stores, accumulator banks, instruction banks, token tables, step buffer, staging buffers. -/
def scrubDie (s : Block) : Block :=
  let s := stagingZero (stepZero (imemZero (devZero s 0x80000000000 0x90000000000) 0 (834 * 0x20000)) 0 0x1000000) 0x21000 0x400000
  let s := overN 96 (fun k t =>
    let c := k / 6
    let q := k % 6
    resetRange (setCore t c q { core t c q with halves := [] }) (corPage c q + 0x400) (corPage c q + 0x600)) s
  let s := overN 16 (fun c t => resetRange t (storePage c + 0x800) (storePage c + 0xC00)) s
  { s with heldReleases := [], releases := [] }

/-- The scrub of a job's teardown (DEDUCED, log entry 45). -/
def scrubJob (s : Block) : Block := scrubDie (overL (jobRanges s) (zeroOutside (holes s)) s)
/-- The scrub of a module with PENDING: all of DDR5, since the ream was lost with the reset (DEDUCED, log entry 45). -/
def scrubPending (s : Block) : Block :=
  scrubDie (overN 8 (fun c t => zeroOutside (holes s) (unitBase (12 + c), unitBase (12 + c) + ddrCap s c) t) s)

/-! ### Naming a teardown (R344, R392) -/

/-- The code of a TEARDOWN write. -/
def teardownCode (s : Block) : Nat :=
  let st := jobState s
  if st < 2 ∧ !flag s Reg.GLB.MODULE_STATE_PENDING then 1
  else if (st = 2 ∨ st = 3) ∧ rd s Reg.GLB.TEARDOWN_SHEET < (if st = 2 then 0 else sheet s) + 2 then 2
  else if s.plan.teardownNamed ∨ st = 5 ∨ st = 6 then 3
  else if (List.range 16).any (keptInvalid s) then 4
  else 0

/-- The directory's PENDING and tag. -/
def pendingTag (s : Block) : Nat := crashNum s 0 0xA 2

/-- A teardown of a running job named at least 12.5 ms of schedule time ahead brings the ramp of R347 (DEDUCED, log entry 45). -/
def nameTeardown (s : Block) : Block :=
  let st := jobState s
  if st = 4 then
    wr { s with plan := { s.plan with teardownNamed := true } } Reg.GLB.TEARDOWN_TICK ((now s + 1023) / 1024 * 1024)
  else if st = 2 ∨ st = 3 then
    let m := rd s Reg.GLB.TEARDOWN_SHEET
    let ahead := decide (sched s + 12500000 ≤ sigmaOf s m)
    let s := { s with plan := { s.plan with teardownNamed := true, teardownSheet := m, teardownRamp := ahead } }
    wr s Reg.GLB.TEARDOWN_TICK (teardownTick s)
  else
    let s := keepNamed (pendingTag s) s
    wr (scrubPending s) Reg.GLB.JOB_STATUS_STATE 6

def doTeardown (s : Block) (rq : Requester) : Block :=
  guardedCmd s rq 0 (fun t =>
    let code := teardownCode t
    let t := wr t Reg.GLB.JOB_STATUS_TEARDOWN_CODE code
    if code ≠ 0 then raisePage t 0 ErrBit.GLB.TEARDOWN_REFUSED else nameTeardown t)

/-! ### The course of a teardown (R345) -/

/-- T_d has come: the named boundary of a running job, the tick of a halted one. -/
def teardownDue (s : Block) : Bool :=
  s.plan.teardownNamed &&
  (if jobState s = 4 then decide (rd s Reg.GLB.TEARDOWN_TICK ≤ now s)
   else boundaryDue s && !s.plan.haltNext && s.plan.teardownSheet == sheet s + 1)

/-- No token is granted from T_d on. -/
def dropTokens (s : Block) : Block :=
  let s := { s with plan := { s.plan with granted := 0 } }
  let s := wr (wr s Reg.PWR.TOKENS_GRANTED 0) Reg.PWR.LIVE_RAMPING 0
  showTokens (overN 16 (fun c t => wr t (Reg.CLK.TOKENS (clkPage c)) 0) s)

/-- Every port has tag 0 outside a job, whatever has become of its cabling since T0 (R203). -/
def untagPorts (s : Block) : Block := overN 12 (fun p t => updateFence (wr t (Reg.PRT.JOB_TAG_TAG (prtPage p)) 0) p) s

/-- At T_d (DEDUCED, log entry 45). -/
def doTeardownTick (s : Block) : Block :=
  if !teardownDue s then s
  else
    let m := sheet s + 1
    let s := if jobState s = 4 then s
      else wr (when ((ream s).mode != 0 && stepStart s m && decide (0 < stepNumber s m)) endStep s) Reg.TBS.SHEET_NUM m
    let s := untagPorts (haltEngines s rsTEARDOWN)
    let s := endLoans (dropTokens (keepNamed (ream s).tag s))
    let s := { s with plan := { s.plan with
      teardownNamed := false, halted := true, inQuantum := false, windowOpen := false, haltNext := false, drained := false } }
    wr s Reg.GLB.JOB_STATUS_STATE 5

/-- At T_d + 2,048: couch and held entries go. -/
def doDrainEnd (s : Block) : Block :=
  if jobState s = 5 ∧ !s.plan.drained ∧ rd s Reg.GLB.TEARDOWN_TICK + 2048 ≤ now s then
    let s := overN 12 (fun p t => setPort t p { prt t p with couch := [], txSlot := none, deckleQ := [] }) s
    let s := overL allEngines (fun n t => if engIsSlot n then setEng t n { eng t n with held := [] } else t) s
    { s with mesh := [], plan := { s.plan with drained := true } }
  else s

/-- No move waits: what a host read has brought to the endpoint is no move any more. -/
def movesDone (s : Block) : Bool :=
  (List.range 20).all (fun u => (unit s u).kv.isEmpty && (unit s u).hostq.all (fun m => m.len == 0 && m.data.isEmpty))

def doScrubStart (s : Block) : Block :=
  if jobState s = 5 ∧ s.plan.drained ∧ movesDone s then wr (scrubJob s) Reg.GLB.JOB_STATUS_STATE 6 else s

/-- The module leaves the job: IN_JOB and every IN_JOB field clear, and PENDING. -/
def leaveJob (s : Block) : Block :=
  let fwd := flag s Reg.GLB.MODULE_STATE_FWD_ONLY
  let s := wr (wr s Reg.TBS.STATE_IN_JOB 0) Reg.GLB.MODULE_STATE_FWD_ONLY 0
  let s := wr (wr s Reg.NI.NI_RANK_VALID 0) Reg.NI.NI_RANK_RANK 0
  let s := overN 96 (fun k t => wr t (Reg.COR.ENGINE_MASK_IN_JOB (corPage (k / 6) (k % 6))) 0) s
  let s := overN 16 (fun c t => wr t (Reg.CLU.CORE_MASK_IN_JOB (cluPage c)) 0) s
  let s := resetRange s (Reg.SES.SES_STATUS_IN_JOB).addr ((Reg.SES.SES_STATUS_IN_JOB).addr + 4)
  let s := overN 12 (fun p t =>
    updateMargin (wr (wr t (Reg.PRT.PORT_STATUS_IN_JOB (prtPage p)) 0) (Reg.PRT.PORT_STATUS_FWD_ONLY (prtPage p)) 0) p) s
  let s := if fwd then holdCores s false else s
  let s := if tierUp s ∧ dirOk s then dirPut (dirPut s 8 2 0) 0xA 2 0 else s
  wr s Reg.GLB.MODULE_STATE_PENDING 0

/-- Every part of the scrub is done. -/
def doScrubComplete (s : Block) : Block :=
  if jobState s ≠ 6 then s
  else
    let s := if inJob s then { s with plan := {}, serv := { written := s.serv.written }, power := { s.power with fcap := [] } } else s
    event (wr (wr (leaveJob s) Reg.GLB.JOB_STATUS_STATE 0) Reg.GLB.TEARDOWN_TICK 0) 4 0 0 0

/-! ### Meanings -/

def execTeardown (rq : Requester) := run (fun s => doTeardown s rq)
def execTeardownTick := run doTeardownTick
def execTeardownDrainEnd := run doDrainEnd
def execTeardownScrubStart := run doScrubStart
def execTeardownScrubComplete := run doScrubComplete
def execReleaseKept (rq : Requester) := run (fun s => doReleaseKept s rq)
def execKeptReleaseComplete (r : Fin 16) := run (fun s => doKeptComplete s r)
def execKeptEntryWrite (rq : Requester) (r : Fin 16) (reg : Fin 3) (v : BitVec 32) := run (fun s => doKeptWrite s rq r reg v.toNat)

end Sys2Proof.Machine
end

