-- ==== Sys2Proof/Machine/RegWrite.lean ====
section
/-! DEFINITION. The register commands: the guard, writes dispatched to what owns the register, sticky bits, pair reads, the
coordinates, configuration passes (R78, R369–R385, R389). -/

namespace Sys2Proof.Machine

/-! ### The guard (R377) -/

def doUnlock (s : Block) (rq : Requester) (key : Nat) : Block :=
  if key = 0xC1E7 then setGuard s rq { opened := true, untilT := now s + 1000000 }
  else raisePage (setGuard s rq {}) 0 ErrBit.GLB.GUARD_BAD_KEY

def doGuardExpire (s : Block) (rq : Requester) : Block :=
  if (guardOf s rq).opened ∧ (guardOf s rq).untilT ≤ now s then setGuard s rq {} else s

/-! ### Sticky bits (R376) -/

/-- The error record whose sticky register lies at an address. -/
def stickyAt (a : Nat) : Option ErrRec :=
  if a % 0x1000 = 0xC then (if pageExists (pageOf a) then some (pageRec (pageOf a)) else none)
  else ((List.range 834).find? (fun n => (engBlk n).isSome && (engRec n).sticky.addr == a)).map engRec

def doStickyWrite (s : Block) (a v : Nat) : Block :=
  match stickyAt a with
  | some r => if pageResponds s (pageOf a) then clearSticky s r (bits v 16 16 &&& bits v 0 16) else s
  | none => s

/-! ### Pair reads (R78, R370) -/

/-- The pair whose `_LO` register lies at an address. -/
def pairAt (a : Nat) : Option Field := ((fieldsAt a).find? (fun p => decide (32 < p.1.width) && p.2 == 0)).map (fun p => p.1)

/-- Where a requester's latch of a pair is kept. -/
def latchKey (rq : Requester) (a : Nat) : Nat := 2 * a + (match rq with
  | .host => 0
  | .mgt => 1)

/-- What a requester's next read of the pair's `_HI` register returns. -/
def hiRead (s : Block) (rq : Requester) (a : Nat) : Nat := Tab.get s.latches 0 (latchKey rq a)

/-- An access that is not aligned reads zero and is a BAD_ACCESS (R352, R369). A read of a `_LO` register latches the whole `_HI` register, VALID of HALT_SHEET_HI with it; the reply shows both words as the requester reads them (DEDUCED, log entry 48). -/
def doPairRead (s : Block) (rq : Requester) (a : Nat) : Block :=
  if a % 4 ≠ 0 then { raisePage s 0x4000 ErrBit.PCI.BAD_ACCESS with reply := [0] }
  else match pairAt a with
  | some _ =>
    let t := { s with latches := Tab.put s.latches 0 (latchKey rq a) (readWord s (a + 4)) }
    { t with reply := [readWord s a, hiRead t rq a] }
  | none => s

/-! ### The coordinates (R185, R389) -/

def coordFields : List Field :=
  [Reg.GLB.COORD_LO_X, Reg.GLB.COORD_LO_Y, Reg.GLB.COORD_LO_Z, Reg.GLB.COORD_HI_RING_X, Reg.GLB.COORD_HI_RING_Y, Reg.GLB.COORD_HI_RING_Z]

/-- Every coordinate is below its ring size, and every ring size is 2 to 64. -/
def coordsLegal (s : Block) : Bool :=
  [(Reg.GLB.COORD_LO_X, Reg.GLB.COORD_HI_RING_X), (Reg.GLB.COORD_LO_Y, Reg.GLB.COORD_HI_RING_Y),
   (Reg.GLB.COORD_LO_Z, Reg.GLB.COORD_HI_RING_Z)].all (fun p =>
    decide (rd s p.1 < rd s p.2) && decide (2 ≤ rd s p.2) && decide (rd s p.2 ≤ 64))

/-- The three cases in which the global page ignores a write that would lead from s to t. -/
def coordIgnored (s t : Block) : Bool :=
  let was := flag s Reg.GLB.COORD_LO_VALID
  let is := flag t Reg.GLB.COORD_LO_VALID
  inJob s || (!was && is && !coordsLegal t) || (was && is && coordFields.any (fun f => rd s f != rd t f))

/-- Trained ports are judged anew by the coordinates as they now stand. -/
def doCoordWrite (s : Block) (rq : Requester) (hi : Bool) (v : Nat) : Block :=
  let t := writeWord s rq (if hi then 0x5C else 0x58) v (fun _ u => u)
  if coordIgnored s t then keepFields s t (Reg.GLB.COORD_LO_VALID :: coordFields) else overN 12 judgeCabling t

/-! ### Configuration passes (R383–R385) -/

def doAdopt (s : Block) (rq : Requester) : Block :=
  guardedCmd s rq 0 (fun t => wr { t with cfgAdoptAt := now t + 1 } Reg.GLB.CFG_CTRL_ADOPT 1)

/-- What a page's CFG_CRC shows: its CRC at the pass's first tick, or its parity word (R385). -/
def passWord (s : Block) (p : Nat × Nat) : Nat := if flag s Reg.GLB.CFG_CTRL_MODE then p.2 / 2 ^ 32 else p.2 % 2 ^ 32

/-- A live condition of the configuration: as it begins, the log takes it with CFG_NOW (R399, KIND 11; DEDUCED, log entry 33). -/
def cfgLive (s : Block) (i : Nat) (b : Bool) : Block :=
  live (when (b && !isLive s 0 i) (fun t => logEntry t 11 (i + 1) (pageId 0) (rd t Reg.GLB.CFG_NOW)) s) 0 i b

/-- An ADOPT is pending for this pass: one written at the end tick itself waits for the next pass to end. -/
def adoptDue (s : Block) : Bool := flag s Reg.GLB.CFG_CTRL_ADOPT && s.cfgAdoptAt != now s + 1

/-- The CRC check of R384, once CFG_NOW is written. -/
def checkPass (s : Block) : Block :=
  if adoptDue s then
    wr (wr (wr s Reg.GLB.CFG_REF (rd s Reg.GLB.CFG_NOW)) Reg.GLB.CFG_CTRL_ADOPT 0) Reg.GLB.CFG_CTRL_CHECK_EN 1
  else if flag s Reg.GLB.CFG_CTRL_CHECK_EN then
    let bad := rd s Reg.GLB.CFG_NOW != rd s Reg.GLB.CFG_REF
    cfgLive (when bad (fun t => incSat t Reg.GLB.CFG_DRIFTS 1) s) ErrBit.GLB.CONFIG_DRIFT bad
  else s

/-- Pages whose stored parity disagreed with their fields at the pass's first tick set PARITY_FAULT (DESIGN CHOICE, log entry 24). -/
def parityPass (s : Block) (snap : List (Nat × Nat)) : Block := cfgLive s ErrBit.GLB.PARITY_FAULT (snap.any (fun p => bit p.2 34))

/-- The end tick of a pass has come, and its end is still to be done. -/
def passDue (s : Block) : Bool := now s % 100000 == 0 && s.cfgPassAt != now s + 1

/-- The end tick of a pass, which is the first tick of the next. The first pass of a run has no earlier snapshot. -/
def passEnd (s : Block) : Block :=
  let snap := if s.cfgSnapshot.isEmpty then (takeSnapshot s).cfgSnapshot else s.cfgSnapshot
  let words := snap.map (fun p => (p.1, passWord s p))
  let s := overL words (fun p t => wr t (Reg.HDR.CFG_CRC p.1) p.2) s
  let s := wr s Reg.GLB.CFG_NOW (crc32c (words.flatMap (fun p => natLe 4 p.2)))
  let s := incSat s Reg.GLB.CFG_PASSES 1
  takeSnapshot { (if flag s Reg.GLB.CFG_CTRL_MODE then parityPass s snap else checkPass s) with cfgPassAt := now s + 1 }
def doPassEnd (s : Block) : Block := if passDue s then passEnd s else s

/-! ### Command bits (R376) -/

/-- The engine whose block has a register at an address, `o` being the register's offset on an engine page. -/
def engineWith (a o : Nat) : Option Nat := (List.range 834).find? (fun n => engBlock n + o == a)

/-- A command that checks the guard itself, run for a write that the guard has admitted. -/
def admitted (rq : Requester) (f : Block → Block) (s : Block) : Block := f (setGuard s rq { opened := true, untilT := now s + 1 })

/-- What bit i of the command register at an address starts. -/
def commandOf (rq : Requester) (a i : Nat) : Option (Block → Block) :=
  let pg := pageOf a
  let o := a % 0x1000
  let ty := pageType pg
  let c := pageCluster pg
  if a = 0x48 ∧ i = 0 then some (admitted rq (fun s => doModuleReset s (some rq)))
  else if a = 0x60 ∧ i = 2 then some (admitted rq (fun s => doAdopt s rq))
  else if a = 0x80 then
    [some (admitted rq (fun s => doJobStart s rq)), some (admitted rq (fun s => doTeardown s rq)),
     some (admitted rq (fun s => doReleaseKept s rq))].getD i none
  else if a = 0x20A0 ∧ i = 0 then some doStep
  else if a = 0x434C then [some (admitted rq (fun s => doLoadStart s rq)), some (admitted rq (fun s => doDiscard s rq))].getD i none
  else if a = 0x51C0 then [some (admitted rq (fun s => doBootRetry s rq)), some (admitted rq (fun s => doSelftest s rq))].getD i none
  else if a = 0x6044 then
    [some (admitted rq (fun s => doIntakeOpen s rq (rd s Reg.HDB.CMD_DESC))), some (admitted rq (fun s => doAbort s rq (rd s Reg.HDB.CMD_DESC))),
     some (admitted rq (fun s => doActivate s rq (rd s Reg.HDB.CMD_DESC))),
     some (admitted rq (fun s => doSetRelease s rq (rd s Reg.HDB.CMD_DESC)))].getD i none
  else if a = 0x8044 then [some doRtCheck, some (admitted rq (fun s => doFlip s rq))].getD i none
  else if ty = 0x09 ∧ o = 0x4C then
    some (admitted rq (fun s => if i = 8 then doRetrainLink s rq (pageInstance pg) else doRetrainLane s rq (pageInstance pg) (2 ^ i)))
  else if ty = 0x20 ∧ o = 0x4C then
    some (admitted rq (fun s => if i = 8 then doCoreReset s rq c (pageInstance pg) else doEngineReset s rq (engCore c (pageInstance pg) i)))
  else if ty = 0x11 ∧ o = 0x44 then some (admitted rq (fun s => if i = 0 then doClusterReset s rq c else doMeReset s rq c (i - 1)))
  else
    match engineWith a 0x60, engineWith a 0x94 with
    | some n, _ => if i = 2 then some (fun s => doCheck s n) else none
    | _, some n => if i = 0 then some (admitted rq (fun s => doHaltReqCmd s rq n)) else none
    | none, none => none

/-- The command bits of a word that a masked write sets, lowest first: a guarded one only where the guard admits the write (DEDUCED, log entry 48). -/
def runCommands (rq : Requester) (a v : Nat) (ok : Bool) (s : Block) : Block :=
  overL (fieldsAt a) (fun p t =>
    if p.1.kind == .cmd && (ok || !p.1.guarded) then
      overN p.1.width (fun j u =>
        let i := p.1.lsb + j
        match commandOf rq a i with
        | some f => if bit v (16 + i) && bit v i then f u else u
        | none => u) t
    else t) s

/-! ### Other registers that do something when written -/

/-- A queue that is disabled completes its unstarted descriptors; an enabled one starts them (R357, R367). -/
def queueWritten (q : Nat) (was : Bool) (s : Block) : Block :=
  let is := flag s (Reg.PCI.Q_CTRL_ENABLE q)
  if was && !is then disableQueue (wr s (Reg.PCI.Q_CTRL_ENABLE q) 1) q else if !was && is then startDma q s else s

/-- What the owning block does besides, after a stored write of the word at an address (DEDUCED, log entry 48). -/
def afterWrite (old : Block) (a : Nat) (s : Block) : Block :=
  if 0x4200 ≤ a ∧ a < 0x4300 ∧ a % 32 = 0x10 then
    queueWritten ((a - 0x4200) / 32) (flag old (Reg.PCI.Q_CTRL_ENABLE ((a - 0x4200) / 32))) s
  else if a = Reg.PCI.EVT_CTRL_ENABLE.addr ∧ flag s Reg.PCI.EVT_CTRL_ENABLE ∧ s.pcie.flrDone then
    event { s with pcie := { s.pcie with flrDone := false } } 8 0 0 0
  else if a = Reg.PWR.CAP.addr then showCap s
  else if a = Reg.PWR.THERM_CFG_MEM_TARGET.addr then refreshMemHot s
  else s

/-- The MSI-X table, at the PCI standard's layout (DESIGN CHOICE, log entry 13): an unmasked vector that is pending is sent (PRESUMED, log entry 10). -/
def writeMsix (s : Block) (o v : Nat) : Block :=
  let n := o / 16
  if 0x1000 ≤ o then s
  else if o % 16 = 12 then
    let s := { s with pcie := { s.pcie with unmasked := setBit s.pcie.unmasked n (!bit v 0) } }
    if bit s.pcie.unmasked n && bit s.pcie.pba n then msix { s with pcie := { s.pcie with pba := setBit s.pcie.pba n false } } n else s
  else { s with store := { s.store with msix := Memory.putNum s.store.msix (o / 4 * 4) 4 v } }

/-! ### REGISTER_WRITE (R369, R371, R376, R378) -/

/-- A write of a register that has a row of its own does what that row does (DEDUCED, log entry 48). -/
def ownRow (s : Block) (rq : Requester) (a v : Nat) : Option Block :=
  let pg := pageOf a
  let o := a % 0x1000
  let ty := pageType pg
  if a = 0x4C then some (doUnlock s rq v)
  else if a = 0x58 ∨ a = 0x5C then some (doCoordWrite s rq (a == 0x5C) v)
  else if 0x100 ≤ a ∧ a < 0x200 ∧ a % 16 < 12 then some (doKeptWrite s rq ((a - 0x100) / 16) (a % 16 / 4) v)
  else if a = 0x2074 then some (doTreeCfgWrite s rq v)
  else if a = 0x20A4 then some (doWallAdjWrite s rq v)
  else if 0x4200 ≤ a ∧ a < 0x4300 ∧ a % 32 = 0x14 then some (doQTail s rq ((a - 0x4200) / 32) v)
  else if a = 0x5080 then some (doBehaviourWrite s rq v)
  else if a = 0x508C then some (doLogSel s rq v)
  else if a = 0x6058 then some (doChunksAvail s rq v)
  else if a = 0x6070 ∨ a = 0x6074 then some (doManBase s rq (a == 0x6074) v)
  else if 0x6080 ≤ a ∧ a < 0x60C0 ∧ a % 16 < 12 then some (doWsWrite s rq ((a - 0x6080) / 16) (a % 16 / 4) v)
  else if a = Reg.SES.RING_ENTRIES.addr then some (doRingEntries s rq v)
  else if ty = 0x09 ∧ o = 0x48 then some (doEnableWrite s rq (pageInstance pg) v)
  else if (tableReg a).isSome then some (doTokenTableWrite s rq a v)
  else if (stickyAt a).isSome then some (doStickyWrite s a v)
  else none

/-- Addresses from 2^26 on name BAR4, which only the host reaches (DESIGN CHOICE, log entry 13). -/
def doRegisterWrite (s : Block) (rq : Requester) (a v : Nat) : Block :=
  if 2 ^ 26 ≤ a then
    match rq with
    | .host => writeMsix s (a - 2 ^ 26) v
    | .mgt => s
  else if a % 4 ≠ 0 then raisePage s 0x4000 ErrBit.PCI.BAD_ACCESS
  else
    match ownRow s rq a v with
    | some t => t
    | none => writeWord s rq a v (fun ok t => afterWrite s a (runCommands rq a v ok t))

/-! ### Meanings -/

def execGuardUnlock (rq : Requester) (key : BitVec 32) := run (fun s => doUnlock s rq key.toNat)
def execGuardExpire (rq : Requester) := run (fun s => doGuardExpire s rq)
def execRegisterWrite (rq : Requester) (addr : BitVec 27) (v : BitVec 32) := run (fun s => doRegisterWrite s rq addr.toNat v.toNat)
def execErrStickyWrite (rq : Requester) (addr : BitVec 26) (v : BitVec 32) := run (fun s => match rq with
  | .host => doStickyWrite s addr.toNat v.toNat
  | .mgt => doStickyWrite s addr.toNat v.toNat)
def execPairLoRead (rq : Requester) (addr : BitVec 26) := run (fun s => doPairRead s rq addr.toNat)
def execCoordWrite (rq : Requester) (hi : Bool) (v : BitVec 32) := run (fun s => doCoordWrite s rq hi v.toNat)
def execAdopt (rq : Requester) := run (fun s => doAdopt s rq)
def execConfigPassEnd := run doPassEnd

end Sys2Proof.Machine
end

