-- ==== Sys2Proof/Machine/Dispatch.lean ====
section
/-! DEFINITION. The dispatch: one arm for each command, each one direct call of its meaning. -/

namespace Sys2Proof.Machine

/-- The effect of a command on everything but the queue. -/
def exec (i : Instr) (s : State) : Host.Outcome State Fault Refusal :=
  match i with
  | .jobStart rq => Sys2Proof.Machine.execJobStart rq s
  | .jobOrigin => Sys2Proof.Machine.execJobOrigin s
  | .sheetBoundary => Sys2Proof.Machine.execSheetBoundary s
  | .stretchQuantumStart => Sys2Proof.Machine.execStretchQuantumStart s
  | .stretchQuantumEnd => Sys2Proof.Machine.execStretchQuantumEnd s
  | .deckleFlitArrival port header hops payload => Sys2Proof.Machine.execDeckleFlitArrival port header hops payload s
  | .announceHalfEnd => Sys2Proof.Machine.execAnnounceHalfEnd s
  | .deckleCommit => Sys2Proof.Machine.execDeckleCommit s
  | .requestComputation => Sys2Proof.Machine.execRequestComputation s
  | .timingExchange port t1 t2 t3 t4 depth lock root rootId intact => Sys2Proof.Machine.execTimingExchange port t1 t2 t3 t4 depth lock root rootId intact s
  | .upstreamLost => Sys2Proof.Machine.execUpstreamLost s
  | .holdoverExpired => Sys2Proof.Machine.execHoldoverExpired s
  | .standbyRootPromote => Sys2Proof.Machine.execStandbyRootPromote s
  | .acquireComplete => Sys2Proof.Machine.execAcquireComplete s
  | .sysrefLost => Sys2Proof.Machine.execSysrefLost s
  | .sysrefDetected => Sys2Proof.Machine.execSysrefDetected s
  | .ppsEdge => Sys2Proof.Machine.execPpsEdge s
  | .referenceLoss => Sys2Proof.Machine.execReferenceLoss s
  | .treeCfgWrite rq v => Sys2Proof.Machine.execTreeCfgWrite rq v s
  | .wallStep => Sys2Proof.Machine.execWallStep s
  | .wallAdjWrite rq v => Sys2Proof.Machine.execWallAdjWrite rq v s
  | .regionStopBegin cl => Sys2Proof.Machine.execRegionStopBegin cl s
  | .generatorLock cl => Sys2Proof.Machine.execGeneratorLock cl s
  | .freqChangeFail cl => Sys2Proof.Machine.execFreqChangeFail cl s
  | .droopEvent cl => Sys2Proof.Machine.execDroopEvent cl s
  | .sagWarn mv => Sys2Proof.Machine.execSagWarn mv s
  | .sagClear mv => Sys2Proof.Machine.execSagClear mv s
  | .supplyReset mv => Sys2Proof.Machine.execSupplyReset mv s
  | .overvolt mv => Sys2Proof.Machine.execOvervolt mv s
  | .powerWindowEnd avg peak minMv => Sys2Proof.Machine.execPowerWindowEnd avg peak minMv s
  | .thermalSample cl t0 t1 t2 t3 => Sys2Proof.Machine.execThermalSample cl t0 t1 t2 t3 s
  | .thermalTrip point degc => Sys2Proof.Machine.execThermalTrip point degc s
  | .thermalReset point degc => Sys2Proof.Machine.execThermalReset point degc s
  | .coolantRange inlet outlet => Sys2Proof.Machine.execCoolantRange inlet outlet s
  | .memoryOvertemp u degc => Sys2Proof.Machine.execMemoryOvertemp u degc s
  | .nop e => Sys2Proof.Machine.execNop e s
  | .opEnd e => Sys2Proof.Machine.execOpEnd e s
  | .sheetEnd e => Sys2Proof.Machine.execSheetEnd e s
  | .loop e => Sys2Proof.Machine.execLoop e s
  | .loopPadEnd e => Sys2Proof.Machine.execLoopPadEnd e s
  | .setcnt e => Sys2Proof.Machine.execSetcnt e s
  | .bar e => Sys2Proof.Machine.execBar e s
  | .barrierComplete cl k b => Sys2Proof.Machine.execBarrierComplete cl k b s
  | .sync e => Sys2Proof.Machine.execSync e s
  | .waitSatisfied e => Sys2Proof.Machine.execWaitSatisfied e s
  | .hint e => Sys2Proof.Machine.execHint e s
  | .mma e => Sys2Proof.Machine.execMma e s
  | .mmaComplete e => Sys2Proof.Machine.execMmaComplete e s
  | .wload e => Sys2Proof.Machine.execWload e s
  | .wloadBroadcastEnd cl k => Sys2Proof.Machine.execWloadBroadcastEnd cl k s
  | .swap e => Sys2Proof.Machine.execSwap e s
  | .swapEffect cl k => Sys2Proof.Machine.execSwapEffect cl k s
  | .drain e => Sys2Proof.Machine.execDrain e s
  | .drainComplete e => Sys2Proof.Machine.execDrainComplete e s
  | .vadd e => Sys2Proof.Machine.execVadd e s
  | .vsub e => Sys2Proof.Machine.execVsub e s
  | .vmul e => Sys2Proof.Machine.execVmul e s
  | .vfma e => Sys2Proof.Machine.execVfma e s
  | .vdiv e => Sys2Proof.Machine.execVdiv e s
  | .vsqrt e => Sys2Proof.Machine.execVsqrt e s
  | .vrecip e => Sys2Proof.Machine.execVrecip e s
  | .vrsqrt e => Sys2Proof.Machine.execVrsqrt e s
  | .vexp2 e => Sys2Proof.Machine.execVexp2 e s
  | .vlog2 e => Sys2Proof.Machine.execVlog2 e s
  | .vmin e => Sys2Proof.Machine.execVmin e s
  | .vmax e => Sys2Proof.Machine.execVmax e s
  | .vabs e => Sys2Proof.Machine.execVabs e s
  | .vneg e => Sys2Proof.Machine.execVneg e s
  | .vcmp e => Sys2Proof.Machine.execVcmp e s
  | .vsel e => Sys2Proof.Machine.execVsel e s
  | .vcvtTo e => Sys2Proof.Machine.execVcvtTo e s
  | .vcvtFrom e => Sys2Proof.Machine.execVcvtFrom e s
  | .aclr e => Sys2Proof.Machine.execAclr e s
  | .aacc e => Sys2Proof.Machine.execAacc e s
  | .aload e => Sys2Proof.Machine.execAload e s
  | .alane e => Sys2Proof.Machine.execAlane e s
  | .acvt e => Sys2Proof.Machine.execAcvt e s
  | .astore e => Sys2Proof.Machine.execAstore e s
  | .fred e => Sys2Proof.Machine.execFred e s
  | .fmacc e => Sys2Proof.Machine.execFmacc e s
  | .rand e => Sys2Proof.Machine.execRand e s
  | .move e partner => Sys2Proof.Machine.execMove e partner s
  | .gather e => Sys2Proof.Machine.execGather e s
  | .gatherComplete e => Sys2Proof.Machine.execGatherComplete e s
  | .imload e => Sys2Proof.Machine.execImload e s
  | .svcread e => Sys2Proof.Machine.execSvcread e s
  | .opComplete e => Sys2Proof.Machine.execOpComplete e s
  | .deadlineCheck e => Sys2Proof.Machine.execDeadlineCheck e s
  | .dieEngineHangCheck e tick => Sys2Proof.Machine.execDieEngineHangCheck e tick s
  | .haltReq rq e => Sys2Proof.Machine.execHaltReq rq e s
  | .check e => Sys2Proof.Machine.execCheck e s
  | .tokenTableWrite rq addr v => Sys2Proof.Machine.execTokenTableWrite rq addr v s
  | .engineReset rq e => Sys2Proof.Machine.execEngineReset rq e s
  | .coreReset rq cl k => Sys2Proof.Machine.execCoreReset rq cl k s
  | .clusterReset rq cl => Sys2Proof.Machine.execClusterReset rq cl s
  | .meReset rq cl idx => Sys2Proof.Machine.execMeReset rq cl idx s
  | .resetAbandonTimeout d => Sys2Proof.Machine.execResetAbandonTimeout d s
  | .resetComplete d => Sys2Proof.Machine.execResetComplete d s
  | .tread u => Sys2Proof.Machine.execTread u s
  | .treadDeliver u => Sys2Proof.Machine.execTreadDeliver u s
  | .twrite u => Sys2Proof.Machine.execTwrite u s
  | .refreshWindow u => Sys2Proof.Machine.execRefreshWindow u s
  | .patrolScrub t corrected uncorrectable => Sys2Proof.Machine.execPatrolScrub t corrected uncorrectable s
  | .moveSlot u c => Sys2Proof.Machine.execMoveSlot u c s
  | .idle e ch => Sys2Proof.Machine.execIdle e ch s
  | .send e ch partner => Sys2Proof.Machine.execSend e ch partner s
  | .fwd e ch => Sys2Proof.Machine.execFwd e ch s
  | .mcast e => Sys2Proof.Machine.execMcast e s
  | .outset e => Sys2Proof.Machine.execOutset e s
  | .repeatOp e => Sys2Proof.Machine.execRepeatOp e s
  | .scheduledFlitArrival port header payload => Sys2Proof.Machine.execScheduledFlitArrival port header payload s
  | .deliver e input => Sys2Proof.Machine.execDeliver e input s
  | .hold e input => Sys2Proof.Machine.execHold e input s
  | .heldEntryDiscard e input => Sys2Proof.Machine.execHeldEntryDiscard e input s
  | .epochTailEnd => Sys2Proof.Machine.execEpochTailEnd s
  | .sideFlit cl out => Sys2Proof.Machine.execSideFlit cl out s
  | .flitTransmit port pos => Sys2Proof.Machine.execFlitTransmit port pos s
  | .flitReceive port slotPos f => Sys2Proof.Machine.execFlitReceive port slotPos f s
  | .nakRepeat port seq => Sys2Proof.Machine.execNakRepeat port seq s
  | .linkDownTimeout port => Sys2Proof.Machine.execLinkDownTimeout port s
  | .retrainLink rq port => Sys2Proof.Machine.execRetrainLink rq port s
  | .linkOff port copies => Sys2Proof.Machine.execLinkOff port copies s
  | .enableWrite rq port v => Sys2Proof.Machine.execEnableWrite rq port v s
  | .signalDetected port => Sys2Proof.Machine.execSignalDetected port s
  | .equaliseComplete port txMask rxMask => Sys2Proof.Machine.execEqualiseComplete port txMask rxMask s
  | .alignComplete port locked => Sys2Proof.Machine.execAlignComplete port locked s
  | .identifyComplete port x y z rx ry rz peerPort peerTx peerRx version => Sys2Proof.Machine.execIdentifyComplete port x y z rx ry rz peerPort peerTx peerRx version s
  | .trainTimeout port => Sys2Proof.Machine.execTrainTimeout port s
  | .degradeWindowEnd port sym sb uncorr lockHeld => Sys2Proof.Machine.execDegradeWindowEnd port sym sb uncorr lockHeld s
  | .laneLost port lane => Sys2Proof.Machine.execLaneLost port lane s
  | .retrainLane rq port lanes => Sys2Proof.Machine.execRetrainLane rq port lanes s
  | .dropReq port copies => Sys2Proof.Machine.execDropReq port copies s
  | .addReq port copies => Sys2Proof.Machine.execAddReq port copies s
  | .change port copies => Sys2Proof.Machine.execChange port copies s
  | .changeAck port copies ptBeforeS => Sys2Proof.Machine.execChangeAck port copies ptBeforeS s
  | .laneRequestResend port => Sys2Proof.Machine.execLaneRequestResend port s
  | .widthSwitch port tx => Sys2Proof.Machine.execWidthSwitch port tx s
  | .servicePacketReceive port vc flits => Sys2Proof.Machine.execServicePacketReceive port vc flits s
  | .svcRead src header => Sys2Proof.Machine.execSvcRead src header s
  | .svcWrite src header data => Sys2Proof.Machine.execSvcWrite src header data s
  | .svcMailbox src header data => Sys2Proof.Machine.execSvcMailbox src header data s
  | .telRead src header => Sys2Proof.Machine.execTelRead src header s
  | .mctp secured tagOk msgType data => Sys2Proof.Machine.execMctp secured tagOk msgType data s
  | .serviceResponse port header data => Sys2Proof.Machine.execServiceResponse port header data s
  | .niRequestTimeout token => Sys2Proof.Machine.execNiRequestTimeout token s
  | .staleEntryFree port token => Sys2Proof.Machine.execStaleEntryFree port token s
  | .rtCheck => Sys2Proof.Machine.execRtCheck s
  | .rtFlip rq => Sys2Proof.Machine.execRtFlip rq s
  | .rtTailEnd => Sys2Proof.Machine.execRtTailEnd s
  | .telemetryWindowEnd port => Sys2Proof.Machine.execTelemetryWindowEnd port s
  | .keyExchange accepted => Sys2Proof.Machine.execKeyExchange accepted s
  | .getCertificate => Sys2Proof.Machine.execGetCertificate s
  | .challenge nonce => Sys2Proof.Machine.execChallenge nonce s
  | .getMeasurements nonce => Sys2Proof.Machine.execGetMeasurements nonce s
  | .heartbeat session => Sys2Proof.Machine.execHeartbeat session s
  | .keyUpdate session => Sys2Proof.Machine.execKeyUpdate session s
  | .sessionHeartbeatTimeout session => Sys2Proof.Machine.execSessionHeartbeatTimeout session s
  | .requestUpdate session component m => Sys2Proof.Machine.execRequestUpdate session component m s
  | .requestFirmwareData viaI3c offset data => Sys2Proof.Machine.execRequestFirmwareData viaI3c offset data s
  | .verifyComplete => Sys2Proof.Machine.execVerifyComplete s
  | .activateFirmware session m => Sys2Proof.Machine.execActivateFirmware session m s
  | .operatorRestartRequest session => Sys2Proof.Machine.execOperatorRestartRequest session s
  | .keyEnrol revoke slot m => Sys2Proof.Machine.execKeyEnrol revoke slot m s
  | .operatorRootKeyWrite viaI3c key m => Sys2Proof.Machine.execOperatorRootKeyWrite viaI3c key m s
  | .endpointTableWrite session eid coord => Sys2Proof.Machine.execEndpointTableWrite session eid coord s
  | .levelChangeRequest session level => Sys2Proof.Machine.execLevelChangeRequest session level s
  | .linkEventNotice port kind time => Sys2Proof.Machine.execLinkEventNotice port kind time s
  | .stepCutoff => Sys2Proof.Machine.execStepCutoff s
  | .stepBuild => Sys2Proof.Machine.execStepBuild s
  | .stepBuildDeadline => Sys2Proof.Machine.execStepBuildDeadline s
  | .pageCopyComplete target ok => Sys2Proof.Machine.execPageCopyComplete target ok s
  | .pageZeroComplete target ok => Sys2Proof.Machine.execPageZeroComplete target ok s
  | .resultsCopy => Sys2Proof.Machine.execResultsCopy s
  | .ringEntriesWrite rq v => Sys2Proof.Machine.execRingEntriesWrite rq v s
  | .intakeOpen rq desc => Sys2Proof.Machine.execIntakeOpen rq desc s
  | .manifestCheckComplete => Sys2Proof.Machine.execManifestCheckComplete s
  | .chunkComplete => Sys2Proof.Machine.execChunkComplete s
  | .chunksAvailWrite rq v => Sys2Proof.Machine.execChunksAvailWrite rq v s
  | .hdbAbort rq desc => Sys2Proof.Machine.execHdbAbort rq desc s
  | .hdbActivate rq desc => Sys2Proof.Machine.execHdbActivate rq desc s
  | .setRelease rq desc => Sys2Proof.Machine.execSetRelease rq desc s
  | .wsDescriptorWrite rq desc reg v => Sys2Proof.Machine.execWsDescriptorWrite rq desc reg v s
  | .manBaseWrite rq hi v => Sys2Proof.Machine.execManBaseWrite rq hi v s
  | .teardown rq => Sys2Proof.Machine.execTeardown rq s
  | .teardownTick => Sys2Proof.Machine.execTeardownTick s
  | .teardownDrainEnd => Sys2Proof.Machine.execTeardownDrainEnd s
  | .teardownScrubStart => Sys2Proof.Machine.execTeardownScrubStart s
  | .teardownScrubComplete => Sys2Proof.Machine.execTeardownScrubComplete s
  | .releaseKept rq => Sys2Proof.Machine.execReleaseKept rq s
  | .keptReleaseComplete r => Sys2Proof.Machine.execKeptReleaseComplete r s
  | .keptEntryWrite rq r reg v => Sys2Proof.Machine.execKeptEntryWrite rq r reg v s
  | .healthRecompute => Sys2Proof.Machine.execHealthRecompute s
  | .selftest rq => Sys2Proof.Machine.execSelftest rq s
  | .selftestComplete part => Sys2Proof.Machine.execSelftestComplete part s
  | .flr => Sys2Proof.Machine.execFlr s
  | .d3hotEntry => Sys2Proof.Machine.execD3hotEntry s
  | .perstN ns => Sys2Proof.Machine.execPerstN ns s
  | .modRstN ns => Sys2Proof.Machine.execModRstN ns s
  | .mgtRstN ns => Sys2Proof.Machine.execMgtRstN ns s
  | .moduleReset rq => Sys2Proof.Machine.execModuleReset rq s
  | .moduleResetDone r => Sys2Proof.Machine.execModuleResetDone r s
  | .powerOn => Sys2Proof.Machine.execPowerOn s
  | .deviceWindowRead off len => Sys2Proof.Machine.execDeviceWindowRead off len s
  | .deviceWindowWrite off data => Sys2Proof.Machine.execDeviceWindowWrite off data s
  | .imemWindowWrite e off data => Sys2Proof.Machine.execImemWindowWrite e off data s
  | .stagingWrite off data => Sys2Proof.Machine.execStagingWrite off data s
  | .netifWindowWrite off data => Sys2Proof.Machine.execNetifWindowWrite off data s
  | .qTailWrite rq q v => Sys2Proof.Machine.execQTailWrite rq q v s
  | .h2d q hostFault => Sys2Proof.Machine.execH2d q hostFault s
  | .d2h q hostFault => Sys2Proof.Machine.execD2h q hostFault s
  | .remoteRead q => Sys2Proof.Machine.execRemoteRead q s
  | .imemH2d q hostFault => Sys2Proof.Machine.execImemH2d q hostFault s
  | .dmaComplete q => Sys2Proof.Machine.execDmaComplete q s
  | .qDisable rq q => Sys2Proof.Machine.execQDisable rq q s
  | .loadStart rq => Sys2Proof.Machine.execLoadStart rq s
  | .loadDone => Sys2Proof.Machine.execLoadDone s
  | .discard rq => Sys2Proof.Machine.execDiscard rq s
  | .guardUnlock rq key => Sys2Proof.Machine.execGuardUnlock rq key s
  | .guardExpire rq => Sys2Proof.Machine.execGuardExpire rq s
  | .registerWrite rq addr v => Sys2Proof.Machine.execRegisterWrite rq addr v s
  | .errStickyWrite rq addr v => Sys2Proof.Machine.execErrStickyWrite rq addr v s
  | .pairLoRead rq addr => Sys2Proof.Machine.execPairLoRead rq addr s
  | .coordWrite rq hi v => Sys2Proof.Machine.execCoordWrite rq hi v s
  | .adopt rq => Sys2Proof.Machine.execAdopt rq s
  | .configPassEnd => Sys2Proof.Machine.execConfigPassEnd s
  | .logSelWrite rq v => Sys2Proof.Machine.execLogSelWrite rq v s
  | .bootRetry rq => Sys2Proof.Machine.execBootRetry rq s
  | .behaviourRequestedWrite rq v => Sys2Proof.Machine.execBehaviourRequestedWrite rq v s
  | .managementRestart => Sys2Proof.Machine.execManagementRestart s
  | .bootRomVerify copyAOk copyBOk svnA svnB => Sys2Proof.Machine.execBootRomVerify copyAOk copyBOk svnA svnB s
  | .stage1Complete record recOk pufBits pufOk fwOk fwSvn => Sys2Proof.Machine.execStage1Complete record recOk pufBits pufOk fwOk fwSvn s
  | .bootOk => Sys2Proof.Machine.execBootOk s
  | .stageTimeout stage => Sys2Proof.Machine.execStageTimeout stage s
  | .sensorSample sensor value answers => Sys2Proof.Machine.execSensorSample sensor value answers s
  | .referenceRestored => Sys2Proof.Machine.execReferenceRestored s
  | .resetInputRelease pin => Sys2Proof.Machine.execResetInputRelease pin s
  | .flrComplete => Sys2Proof.Machine.execFlrComplete s
  | .d3hotExit => Sys2Proof.Machine.execD3hotExit s
  | .ppsTimeout => Sys2Proof.Machine.execPpsTimeout s

end Sys2Proof.Machine
end

