-- ==== Sys2Proof/Machine/Tick.lean ====
section
/-! DEFINITION. One plan tick with no command waiting (R26, R58, R76; DESIGN CHOICE, log entry 1): plan time counts; schedule time or the stretch
offset counts in a job; wall time counts every 1,000 ticks, and a pending STEP and the slew of WALL_ADJ take effect; each region's
arithmetic cycles count at its frequency (R70, R72), and what its engines reach in them is done (R84); posts cross to the plan domain and
slots are released (R92); the deckle window's axis phases start (R37); memories may be upset (R173). -/

namespace Sys2Proof.Machine

/-- Schedule time counts outside stretch quanta, the stretch offset within them (R26); both are frozen once a halt has taken
effect (R53) (DESIGN CHOICE, log entry 1). -/
def tickSchedule (s : Block) : Block :=
  if inJob s ∧ !s.plan.halted ∧ rd s Reg.TBS.JOB_ORIGIN < now s then
    if s.plan.inQuantum then incMod s Reg.TBS.STRETCH_OFFSET 1 else incMod s Reg.TBS.SCHED_TIME 1
  else s

/-- WALL_ADJ's signed remainder moves one toward zero each millisecond, and wall time with it (R76). -/
def tickSlew (s : Block) : Block :=
  let adj := toSigned 32 (rd s Reg.TBS.WALL_ADJ)
  if adj = 0 then s
  else
    let d : Int := if 0 < adj then 1 else -1
    wr (wr s Reg.TBS.WALL_TIME (ofSigned 64 ((rd s Reg.TBS.WALL_TIME : Int) + d))) Reg.TBS.WALL_ADJ (ofSigned 32 (adj - d))

/-- A microsecond boundary. -/
def tickMicro (s : Block) : Block :=
  let s := { s with time := { s.time with wallPhase := 0, slewPhase := (s.time.slewPhase + 1) % 1000 } }
  let s := if s.time.stepPending then
      let s := wr (wr s Reg.TBS.WALL_TIME (rd s Reg.TBS.WALL_SET)) Reg.TBS.WALL_CTRL 0
      raisePage { s with time := { s.time with stepPending := false, wallSet := true } } 0x2000 ErrBit.TBS.WALL_STEPPED
    else incMod s Reg.TBS.WALL_TIME 1
  if s.time.slewPhase = 0 then tickSlew s else s

/-- DESIGN CHOICE, log entry 1. -/
def tickWall (s : Block) : Block :=
  if s.time.wallPhase + 1 = 1000 then tickMicro s else { s with time := { s.time with wallPhase := s.time.wallPhase + 1 } }

/-- The axis phases of the deckle window start at their schedule offsets (R37). -/
def tickDeckle (s : Block) : Block :=
  if s.plan.windowOpen ∧ !s.plan.halted then (if s.plan.echoing then echoOn s else announceOn s) else s

/-- A region's arithmetic cycles: FREQ_NOW hundredths of a cycle a tick, less what droops take (R75), none while its clock is stopped (DESIGN
CHOICE, DESIGN CHOICE, log entry 1). Its posts cross meanwhile, and its operations in flight take the steps they reach (DEDUCED, log entry 25). -/
def tickRegion (c : Nat) (s : Block) : Block :=
  if flag s (Reg.CLK.FREQ_NOW_STOPPED (clkPage c)) then s
  else
    let x := clus s c
    let g := rd s (Reg.CLK.FREQ_NOW_NOW (clkPage c))
    let f := x.frac + (g - min x.lost g)
    reachCluster c (setClus s c { x with
      cycle := x.cycle + f / 100, firstCycle := x.cycle + min 1 (f / 100), frac := f % 100, lost := x.lost - min x.lost g,
      crossing := (x.crossing.map (fun e => (e.1 - 1, e.2))).filter (fun e => e.1 != 0) })

/-- A VC with a flit queued while the peer's XOFF holds it counts a stalled tick (R255) (DESIGN CHOICE, log entry 1). -/
def tickStall (p : Nat) (s : Block) : Block :=
  overL (prt s p).txVc (fun q t =>
    if bit (rd t (Reg.LNK.XOFF_STATE_REMOTE (lnkPage p))) q.1 then telAdd t p (28 + q.1) 1 else t) s

/-- The management clock counts through every reset of the module (R70) (DESIGN CHOICE, log entry 1). -/
def tickMgmt (s : Block) : Block := { s with mgmt := { s.mgmt with clock := s.mgmt.clock + 1 } }

/-- A slot that a departure consumed is released as the departure's slot ends (R92). -/
def tickReleases (s : Block) : Block :=
  let l := s.releases.map (fun r => (r.1 - 1, r.2))
  overL (l.filter (fun r => r.1 == 0)) (fun r t => if r.2.2.2.2 then releaseRace t r.2.1 r.2.2.1 r.2.2.2.1 else releaseSlot t r.2.1 r.2.2.1 r.2.2.2.1)
    { s with releases := l.filter (fun r => r.1 != 0) }

/-- The words that a memory's upsets leave in one of its two lists: those struck uncorrectably join the first and leave the second, those
struck correctably join the second unless they are uncorrectable already. -/
def strikeBad (l : List (Nat × Bool)) (bad : List (Nat × Nat)) : List (Nat × Nat) :=
  l.foldl (fun t w => if w.2 then Tab.put t 0 w.1 1 else t) bad
def strikeSoft (l : List (Nat × Bool)) (bad soft : List (Nat × Nat)) : List (Nat × Nat) :=
  l.foldl (fun t w => Tab.put t 0 w.1 (b2n (!w.2 && Tab.get bad 0 w.1 == 0))) soft

def devUpset : Upset → Option (Nat × Bool)
  | .dev w b => some (w, b)
  | _ => none
def imemUpset : Upset → Option (Nat × Bool)
  | .imem w b => some (w, b)
  | _ => none

/-- The upsets of a tick strike (R100, R173, R191, R207; DESIGN CHOICE, log entry 24) (DESIGN CHOICE, log entry 1). -/
def tickUpsets (s : Block) : Block :=
  let l := Config.upsets s.free
  let dev := l.filterMap devUpset
  let im := l.filterMap imemUpset
  { s with
    free := s.free + 1
    soft := strikeSoft dev s.poison s.soft
    poison := strikeBad dev s.poison
    imemSoft := strikeSoft im s.imemPoison s.imemSoft
    imemPoison := strikeBad im s.imemPoison
    ports := s.ports.map (fun x =>
      (x.1, { x.2 with couch := x.2.couch.map (fun e => if l.contains (.couch x.1 e.1) then (e.1, { e.2 with bad := true }) else e) }))
    mesh := s.mesh.mapIdx (fun i f => if l.contains (.mesh i) then { f with bad := true } else f) }

/-- One plan tick (DESIGN CHOICE, log entry 1). -/
def tick (s : Block) : Block :=
  let s := tickBridge (tickReleases (tickDeckle (tickSchedule (incMod (tickUpsets s) Reg.TBS.PLAN_TIME 1))))
  tickMgmt (overL (s.ports.map (fun x => x.1)) tickStall (overN 16 tickRegion (tickWall s)))

end Sys2Proof.Machine
end

