-- ==== Sys2Proof/WellFormed.lean ====
section
/-! DEFINITION. Well-formed commands: the operands have the lengths and ranges that their formats give them. A command that a requester or
the hardware sends is well formed; the meanings refuse only payloads of another length. -/

namespace Sys2Proof

open Sys2Proof.Machine

/-- A value has at most n bits. -/
def fits (n v : Nat) : Bool := decide (v < 2 ^ n)

/-- A codeword decodes to 280 bytes (R216). -/
def wireOk : WireFlit → Bool
  | .bytes b => b.length == 280
  | .uncorrectable => true

/-- A service packet: a header of 48 bytes, and as many data bytes as its LENGTH says (R239). -/
def packetOk (header data : List Byte) : Bool := header.length == 48 && data.length == fieldLe header 24 2

/-- A recovery run measures the seven crossing classes and the eight channels (R71, R180). -/
def recoveryOk (r : Recovery) : Bool := r.xing.length == 7 && r.pop.length == 8 && r.caps.length == 8 && r.ranks.length == 8

/-- The command's operands are well formed. -/
def Instr.wf : Instr → Bool
  | .deckleFlitArrival _ _ _ payload => payload.length == 256
  | .timingExchange _ t1 t2 t3 t4 _ _ _ _ _ => fits 64 t1 && fits 64 t2 && fits 64 t3 && fits 64 t4
  | .sagWarn mv => fits 16 mv
  | .sagClear mv => fits 16 mv
  | .supplyReset mv => fits 16 mv
  | .overvolt mv => fits 16 mv
  | .powerWindowEnd avg peak minMv => fits 16 avg && fits 16 peak && fits 16 minMv
  | .thermalSample _ t0 t1 t2 t3 => fits 8 t0 && fits 8 t1 && fits 8 t2 && fits 8 t3
  | .thermalTrip _ degc => fits 8 degc
  | .thermalReset _ degc => fits 8 degc
  | .coolantRange inlet outlet => fits 8 inlet && fits 8 outlet
  | .memoryOvertemp _ degc => fits 8 degc
  | .scheduledFlitArrival _ _ payload => payload.length == 256
  | .flitReceive _ _ f => wireOk f
  | .degradeWindowEnd _ sym sb _ _ => sym.length == 8 && sb.length == 8
  | .servicePacketReceive _ _ flits => !flits.isEmpty && flits.all (fun f => f.length == 256)
  | .svcRead _ header => header.length == 48
  | .telRead _ header => header.length == 48
  | .svcWrite _ header data => packetOk header data
  | .svcMailbox _ header data => packetOk header data
  | .serviceResponse _ header data => packetOk header data
  | .challenge nonce => nonce.length == 32
  | .getMeasurements nonce => nonce.length == 32
  | .requestFirmwareData viaI3c _ data => !data.isEmpty && decide (data.length ≤ if viaI3c then 512 else 960)
  | .linkOff _ copies => decide (copies.length ≤ 8)
  | .dropReq _ copies => decide (copies.length ≤ 8)
  | .addReq _ copies => decide (copies.length ≤ 8)
  | .change _ copies => decide (copies.length ≤ 8)
  | .changeAck _ copies _ => decide (copies.length ≤ 8)
  | .moduleResetDone r => recoveryOk r
  | .stage1Complete record _ _ _ _ _ => record.harvest.length == 16
  | .imemWindowWrite _ off data => decide (off + data.length ≤ 0x100000000)
  | .stagingWrite off data => decide (off + data.length ≤ 0x100000000)
  | .netifWindowWrite off data => decide (off + data.length ≤ 0x100000000)
  | .jobStart _ | .jobOrigin | .sheetBoundary | .stretchQuantumStart | .stretchQuantumEnd | .announceHalfEnd | .deckleCommit |
    .requestComputation | .upstreamLost | .holdoverExpired | .standbyRootPromote | .acquireComplete | .sysrefLost |
    .sysrefDetected | .ppsEdge | .referenceLoss | .treeCfgWrite _ _ | .wallStep | .wallAdjWrite _ _ | .regionStopBegin _ |
    .generatorLock _ | .freqChangeFail _ | .droopEvent _ | .nop _ | .opEnd _ | .sheetEnd _ | .loop _ | .loopPadEnd _ | .setcnt _ |
    .bar _ | .barrierComplete _ _ _ | .sync _ | .waitSatisfied _ | .hint _ | .mma _ | .mmaComplete _ | .wload _ |
    .wloadBroadcastEnd _ _ | .swap _ | .swapEffect _ _ | .drain _ | .drainComplete _ | .vadd _ | .vsub _ | .vmul _ | .vfma _ |
    .vdiv _ | .vsqrt _ | .vrecip _ | .vrsqrt _ | .vexp2 _ | .vlog2 _ | .vmin _ | .vmax _ | .vabs _ | .vneg _ | .vcmp _ | .vsel _ |
    .vcvtTo _ | .vcvtFrom _ | .aclr _ | .aacc _ | .aload _ | .alane _ | .acvt _ | .astore _ | .fred _ | .fmacc _ | .rand _ |
    .move _ _ | .gather _ | .gatherComplete _ | .imload _ | .svcread _ | .opComplete _ | .deadlineCheck _ |
    .dieEngineHangCheck _ _ | .haltReq _ _ | .check _ | .tokenTableWrite _ _ _ | .engineReset _ _ | .coreReset _ _ _ |
    .clusterReset _ _ | .meReset _ _ _ | .resetAbandonTimeout _ | .resetComplete _ | .tread _ | .treadDeliver _ | .twrite _ |
    .refreshWindow _ | .patrolScrub _ _ _ | .moveSlot _ _ | .idle _ _ | .send _ _ _ | .fwd _ _ | .mcast _ | .outset _ |
    .repeatOp _ | .deliver _ _ | .hold _ _ | .heldEntryDiscard _ _ | .epochTailEnd | .sideFlit _ _ | .flitTransmit _ _ |
    .nakRepeat _ _ | .linkDownTimeout _ | .retrainLink _ _ | .enableWrite _ _ _ | .signalDetected _ | .equaliseComplete _ _ _ |
    .alignComplete _ _ | .identifyComplete _ _ _ _ _ _ _ _ _ _ _ | .trainTimeout _ | .laneLost _ _ | .retrainLane _ _ _ |
    .laneRequestResend _ | .widthSwitch _ _ | .mctp _ _ _ _ | .niRequestTimeout _ | .staleEntryFree _ _ | .rtCheck | .rtFlip _ |
    .rtTailEnd | .telemetryWindowEnd _ | .keyExchange _ | .getCertificate | .heartbeat _ | .keyUpdate _ |
    .sessionHeartbeatTimeout _ | .requestUpdate _ _ _ | .verifyComplete | .activateFirmware _ _ | .operatorRestartRequest _ |
    .keyEnrol _ _ _ | .operatorRootKeyWrite _ _ _ | .endpointTableWrite _ _ _ | .levelChangeRequest _ _ | .linkEventNotice _ _ _ |
    .stepCutoff | .stepBuild | .stepBuildDeadline | .pageCopyComplete _ _ | .pageZeroComplete _ _ | .resultsCopy |
    .ringEntriesWrite _ _ | .intakeOpen _ _ | .manifestCheckComplete | .chunkComplete | .chunksAvailWrite _ _ | .hdbAbort _ _ |
    .hdbActivate _ _ | .setRelease _ _ | .wsDescriptorWrite _ _ _ _ | .manBaseWrite _ _ _ | .teardown _ | .teardownTick |
    .teardownDrainEnd | .teardownScrubStart | .teardownScrubComplete | .releaseKept _ | .keptReleaseComplete _ |
    .keptEntryWrite _ _ _ _ | .healthRecompute | .selftest _ | .selftestComplete _ | .flr | .d3hotEntry | .perstN _ | .modRstN _ |
    .mgtRstN _ | .moduleReset _ | .powerOn | .deviceWindowRead _ _ | .deviceWindowWrite _ _ | .qTailWrite _ _ _ | .h2d _ _ |
    .d2h _ _ | .remoteRead _ | .imemH2d _ _ | .dmaComplete _ | .qDisable _ _ | .loadStart _ | .loadDone | .discard _ |
    .guardUnlock _ _ | .guardExpire _ | .registerWrite _ _ _ | .errStickyWrite _ _ _ | .pairLoRead _ _ | .coordWrite _ _ _ |
    .adopt _ | .configPassEnd | .logSelWrite _ _ | .bootRetry _ | .behaviourRequestedWrite _ _ | .managementRestart |
    .bootRomVerify _ _ _ _ | .bootOk | .stageTimeout _ | .sensorSample _ _ _ | .referenceRestored | .resetInputRelease _ |
    .flrComplete | .d3hotExit | .ppsTimeout => true

end Sys2Proof
end

