-- ==== Sys2Proof/Safety.lean ====
section
/-! DEFINITION. What the claims call a safe machine: well-formed commands waiting, and tables in their canonical form. -/

namespace Sys2Proof.Machine

/-- Every table of the store is in its canonical form: keys strictly rising, and in a memory no byte equal to what an unlisted address
reads as. -/
def Store.wf (m : Store) : Bool :=
  Tab.rising m.regs && m.dev.wf && m.imem.wf && m.staging.wf && m.step.wf && m.rank.wf && m.flash.wf && m.msix.wf && m.host.wf

/-- The commands that wait are well formed. -/
def State.queueWf (s : State) : Bool := s.pending.all Instr.wf

/-- A safe state: its store is canonical, and its queue holds well-formed commands. -/
def State.safe (s : State) : Bool := s.block.store.wf && s.queueWf

/-! ### What the claims say of one command -/

/-- The command answers a next state: the queue is as it was, and the module it leaves meets P. -/
def Yields (c : Instr) (s : State) (P : Block → Prop) : Prop := ∃ t, exec c s = .next t ∧ t.pending = s.pending ∧ P t.block

/-- Every register field but those with the listed keys reads as before. -/
def regsKept (keys : List Nat) (a b : Block) : Prop := ∀ f : Field, f.key ∉ keys → rd b f = rd a f

/-- Every byte of the module's memories reads as before, but for flash: there, and in the host's memory, reports are written. -/
def memKept (a b : Block) : Prop :=
  ∀ x, Memory.read b.store.dev x = Memory.read a.store.dev x ∧ Memory.read b.store.imem x = Memory.read a.store.imem x ∧
    Memory.read b.store.staging x = Memory.read a.store.staging x ∧ Memory.read b.store.step x = Memory.read a.store.step x ∧
    Memory.read b.store.rank x = Memory.read a.store.rank x ∧ Memory.read b.store.msix x = Memory.read a.store.msix x

/-- Nothing but registers changed, and of them only fields with the listed keys. -/
def onlyRegs (keys : List Nat) (a b : Block) : Prop :=
  b = { a with store := { a.store with regs := b.store.regs } } ∧ regsKept keys a b

/-- The keys that raising bits of a page's own error record may change: the record's, its live conditions', and what a report writes. -/
def reportKeys (page : Nat) : List Nat :=
  [(Reg.HDR.STATUS page).key, (Reg.HDR.ERR_STICKY page).key, (Reg.HDR.ERR_FIRST page).key, (Reg.HDR.ERR_FIRST_TIME page).key,
   Reg.MGT.LOG_WRITTEN.key, Reg.MGT.LOG_OLDEST.key, Reg.PCI.EVT_WRITTEN.key, Reg.PCI.EVT_LOST.key,
   (Reg.HDR.ERR_STICKY 0x4000).key, (Reg.HDR.ERR_FIRST 0x4000).key, (Reg.HDR.ERR_FIRST_TIME 0x4000).key]

/-- What is no register and no memory is as before, but for what reports touch: the capture marks and the pending interrupts. -/
def tablesKept (a b : Block) : Prop :=
  ({ a with store := b.store, rises := b.rises, captures := b.captures, pcie := { a.pcie with pba := b.pcie.pba } } : Block) = b

/-- A bit of a page's error record is set. -/
def stickyBit (s : Block) (page i : Nat) : Bool := bit (rd s (Reg.HDR.ERR_STICKY page)) i

/-! ### What the claims say of an engine -/

/-- The operation an engine stands at: at NEXT_OP of its active bank (R83). -/
def opWord (s : Block) (n : Nat) : Nat := fetchWord s n (activeBank s n) (nextOp s n)

/-- The engine can issue the operation it stands at, of a kind that `sel` recognises: it runs, the operation lies in its program, is
fetched whole, is legal and names only slots in use (R83, R84, R112); it holds no correctable error, which would be noted besides (R100). -/
def standsAt (s : Block) (n : Nat) (sel : Nat → Bool) : Prop :=
  canIssue s n = true ∧ nextOp s n < rd s (Reg.ENG.ACTIVE_LEN (engBlock n)) ∧ fetchBad s n (activeBank s n) (nextOp s n) = false ∧
    fetchSoft s n (activeBank s n) (nextOp s n) = false ∧ opLegal (engKind n) (opWord s n) = true ∧
    sel (opWord s n) = true ∧ slotInvalid s n (opWord s n) = false

/-- The same, and its wait is satisfied (R89). -/
def readyFor (s : Block) (n : Nat) (sel : Nat → Bool) : Prop := standsAt s n sel ∧ waitOk s n (opWord s n) = true

/-- An operation of an opcode. -/
def isOp (op : Nat) (w : Nat) : Bool := fOpcode w == op

/-- NEXT_OP after an operation that ends at an address, loops that end there repeating or closing (R101, R102). -/
def nextAfter (s : Block) (n last : Nat) : Nat := (closeLoops 4 (eng s n).loops last 0).2.1 % 2 ^ 16

/-- The steps that an operation of `units` steps at a pace reaches in the tick it issues in (R84). -/
def stepsNow (s : Block) (n per units : Nat) : Nat := min units (1 + (cycleOf s n - issueAt s n) / max 1 per)

/-- The operation that the engine stood at is the youngest in its pipeline, with this pace, due cycle, number of steps, and effect so far, and
NEXT_OP has moved on. -/
def issuedSteps (s b : Block) (n per readyAt units : Nat) (eff : Effect) : Prop :=
  (eng b n).inflight = (eng s n).inflight ++
      [⟨opWord s n, nextOp s n, activeBank s n, issueAt s n, per, readyAt, units, stepsNow s n per units, eff⟩] ∧
    (eng b n).issued = (eng s n).issued + 1 ∧ nextOp b n = nextAfter s n (nextOp s n)

/-- The same for an operation that reads all its operands in the cycle it issues in. -/
def issuedAs (s b : Block) (n per readyAt : Nat) (eff : Effect) : Prop :=
  (eng b n).inflight = (eng s n).inflight ++ [⟨opWord s n, nextOp s n, activeBank s n, issueAt s n, per, readyAt, 0, 0, eff⟩] ∧
    (eng b n).issued = (eng s n).issued + 1 ∧ nextOp b n = nextAfter s n (nextOp s n)

/-- The registers that issuing changes in every engine: its state and wait, NEXT_OP, LOOP_STATE. -/
def issueKeys (n : Nat) : List Nat :=
  let b := engBlock n
  [(Reg.ENG.STATE_STATE b).key, (Reg.ENG.STATE_WAIT_KIND b).key, (Reg.ENG.STATE_WAIT_SLOT b).key, (Reg.ENG.NEXT_OP b).key,
    (Reg.ENG.LOOP_STATE b).key]

/-- Issuing changed nothing else but the listed registers: no memory, no other engine, no other table. -/
def issueOnly (keys : List Nat) (s b : Block) (n : Nat) : Prop :=
  memKept s b ∧ ({ s with store := b.store, engines := b.engines } : Block) = b ∧ (∀ m, m ≠ n → eng b m = eng s m) ∧
    regsKept (issueKeys n ++ keys) s b

/-- The engine is HALTED with a reason at an operation address, since a tick (R112, R115). -/
def haltedWith (b : Block) (n reason addr time : Nat) : Prop :=
  engState b n = 4 ∧ rd b (Reg.ENG.HALT_REASON (engBlock n)) = reason ∧ rd b (Reg.ENG.HALT_ADDR_ADDR (engBlock n)) = addr ∧
    rd b (Reg.ENG.HALT_TIME (engBlock n)) = time

/-- A bit of an engine's error record is set. -/
def engSticky (s : Block) (n i : Nat) : Bool := bit (rd s (engRec n).sticky) i

/-- Device memory reads as it would after these writes to an earlier state's memory. -/
def devAfter (s : Block) (ws : List (Nat × List Byte)) (b : Block) : Prop :=
  ∀ a, Memory.read b.store.dev a = Memory.read (applyWrites s ws).store.dev a

/-- The oldest operation in an engine's pipeline is due, with this effect. -/
def dueWith (s : Block) (n : Nat) (x : InFlight) (eff : Effect) : Prop :=
  oldest s n = some x ∧ x.readyAt ≤ cycleOf s n ∧ x.effect = eff

end Sys2Proof.Machine
end

