-- ==== Sys2Proof/Certificates/Slice0/Obligations.lean ====
section
/-! DEFINITION. The statements for the provers: what the commands do, what they leave alone, and what every step keeps. -/

open Sys2Proof Sys2Proof.Machine

/-! ### The timebase -/

/-- R58, R63, R67, R219: an exchange on a link that is up leaves the neighbour's markers in the port, and, where the last stamp is no replacement,
its offset and delay joined to the filter's samples; one of whose four flits any was discarded is dropped whole; a member that has measured its new
upstream over 64 exchanges steps plan time by the filtered offset and is LOCKED, every port's samples moved with the step. Where the rules leave a reading open it rests on
the model's, log entry 30.
Concludes, from its hypotheses on state and operands alone, that exec answers a next state with the effect for: TIMING_EXCHANGE, ACQUIRE_COMPLETE. -/
def Obligations.OffsetsAreMeasuredAndStepped : Prop :=
  (∀ (s : State) (p : Fin 12) (t1 t2 t3 t4 : Nat) (dep : Fin 128) (lock : Fin 8) (root : Bool) (rootId : Fin 262144)
      (intact : BitVec 4), intact = 15 → flag s.block (Reg.LNK.LINK_STATUS_UP (lnkPage p)) = true →
    Yields (.timingExchange p t1 t2 t3 t4 dep lock root rootId intact) s (fun b =>
      (prt b p).peerDepth = dep ∧ (prt b p).peerLock = lock ∧ (prt b p).peerRoot = root ∧ (prt b p).peerRootId = rootId ∧
      (t4 % 2 ^ 32 ≠ 0xFFFFFFFF →
        (prt b p).offsets.getLast? = some (stampDiff t2 t1 - stampDiff t4 t3 - toSigned 16 (rd s.block (Reg.TBS.ASYM_CORR p))) ∧
        (prt b p).delays.getLast? = some (stampDiff t2 t1 + stampDiff t4 t3)) ∧
      (∀ q : Fin 12, q ≠ p → (prt b q).offsets = (prt s.block q).offsets ∧ (prt b q).delays = (prt s.block q).delays ∧
        (prt b q).peerLock = (prt s.block q).peerLock ∧ (prt b q).peerDepth = (prt s.block q).peerDepth))) ∧
  (∀ (s : State) (p : Fin 12) (t1 t2 t3 t4 : Nat) (dep : Fin 128) (lock : Fin 8) (root : Bool) (rootId : Fin 262144)
      (intact : BitVec 4), intact ≠ 15 → Yields (.timingExchange p t1 t2 t3 t4 dep lock root rootId intact) s (fun b => b = s.block)) ∧
  (∀ s : State, lockState s.block = lkACQ → upstream s.block < 12 → inJob s.block = false →
    offCount s.block (upstream s.block) = 64 → tooDeep s.block (upstream s.block) = false →
    Yields .acquireComplete s (fun b => lockState b = lkLOCKED ∧ upstream b = upstream s.block ∧
      now b = ofSigned 64 ((now s.block : Int) - roundDiv (offSum s.block (upstream s.block)) (128 * offCount s.block (upstream s.block))) ∧
      ∀ q : Fin 12, (prt b q).offsets = (prt s.block q).offsets.map (fun o =>
        o - roundDiv (offSum s.block (upstream s.block)) (offCount s.block (upstream s.block)))))

/-- R67: a member that loses its upstream holds its frequency, and after 10 ms in HOLDOVER it is EXPIRED; one still acquiring starts
afresh; a standby root that finds no eligible candidate for 1 ms becomes the root at depth 0.
Concludes, from its hypotheses on state and operands alone, that exec answers a next state with the effect for: UPSTREAM_LOST, HOLDOVER_EXPIRED,
STANDBY_ROOT_PROMOTE. -/
def Obligations.UpstreamLossLeadsToHoldoverExpiryOrANewRoot : Prop :=
  (∀ s : State, isRoot s.block = false → upstream s.block ≠ 0xF → lockState s.block = lkLOCKED ∨ lockState s.block = lkSLEW →
    Yields .upstreamLost s (fun b => lockState b = lkHOLD ∧ upstream b = 0xF ∧ depth b = depth s.block ∧ now b = now s.block ∧
      b.time.since = now s.block ∧ memKept s.block b)) ∧
  (∀ s : State, isRoot s.block = false → upstream s.block ≠ 0xF → lockState s.block = lkACQ →
    Yields .upstreamLost s (fun b => lockState b = lkFREE ∧ upstream b = 0xF ∧ depth b = 0x7F ∧ now b = now s.block ∧
      memKept s.block b)) ∧
  (∀ s : State, isRoot s.block = false → lockState s.block = lkHOLD → s.block.time.since + 10000000 ≤ now s.block →
    Yields .holdoverExpired s (fun b => lockState b = lkEXP ∧ stickyBit b tbs ErrBit.TBS.HOLDOVER_EXPIRED = true ∧ memKept s.block b ∧
      regsKept (Reg.TBS.STATE_LOCK_STATE.key :: reportKeys tbs) s.block b)) ∧
  (∀ s : State, isRoot s.block = false → lockState s.block = lkHOLD → flag s.block Reg.TBS.TREE_CFG_STANDBY_ROOT = true →
    anyEligible s.block = false → s.block.time.noCandSince ≠ 0 → s.block.time.noCandSince + 999999 ≤ now s.block →
    Yields .standbyRootPromote s (fun b => isRoot b = true ∧ depth b = 0 ∧ upstream b = 0xF ∧ now b = now s.block ∧
      lockState b = (if flag s.block Reg.TBS.TREE_CFG_ROOT_REF = true ∧ flag s.block Reg.TBS.STATE_SYSREF_PRESENT = true then lkLOCKED
        else lkFREE)))

/-- R67, R434, R435: the system reference's loss and return show in PRESENT and SYSREF_LOST, and at a root that follows it leave FREE_RUN and
LOCKED; a PPS edge there captures plan time and shows PRESENT, 1.1 s without one clears it; the plan clock's reference lost is a
SENSOR_FAULT, and its return changes the record of it alone.
Concludes, from its hypotheses on state and operands alone, that exec answers a next state with the effect for: SYSREF_LOST, SYSREF_DETECTED,
PPS_EDGE, REFERENCE_LOSS, REFERENCE_RESTORED, PPS_TIMEOUT. -/
def Obligations.ReferencesComeAndGo : Prop :=
  (∀ s : State, Yields .sysrefLost s (fun b => flag b Reg.TBS.STATE_SYSREF_PRESENT = false ∧
    (isRoot s.block = true → flag s.block Reg.TBS.TREE_CFG_ROOT_REF = true → lockState s.block = lkLOCKED →
      lockState b = lkFREE ∧ isLive b tbs ErrBit.TBS.SYSREF_LOST = true))) ∧
  (∀ s : State, Yields .sysrefDetected s (fun b => flag b Reg.TBS.STATE_SYSREF_PRESENT = true ∧ isLive b tbs ErrBit.TBS.SYSREF_LOST = false ∧
    (isRoot s.block = true → flag s.block Reg.TBS.TREE_CFG_ROOT_REF = true → lockState s.block = lkFREE → lockState b = lkLOCKED))) ∧
  (∀ s : State, isRoot s.block = true → flag s.block Reg.TBS.TREE_CFG_ROOT_REF = true →
    Yields .ppsEdge s (fun b => rd b Reg.TBS.PPS_CAPTURE = now s.block ∧ flag b Reg.TBS.STATE_PPS_PRESENT = true ∧
      memKept s.block b ∧ tablesKept s.block b ∧
      regsKept (Reg.TBS.PPS_CAPTURE.key :: Reg.TBS.STATE_PPS_PRESENT.key :: reportKeys tbs) s.block b)) ∧
  (∀ s : State, flag s.block Reg.TBS.STATE_PPS_PRESENT = true → rd s.block Reg.TBS.PPS_CAPTURE + 1100000000 ≤ now s.block →
    Yields .ppsTimeout s (fun b => flag b Reg.TBS.STATE_PPS_PRESENT = false ∧ memKept s.block b ∧ tablesKept s.block b ∧
      regsKept (Reg.TBS.STATE_PPS_PRESENT.key :: reportKeys tbs) s.block b)) ∧
  (∀ s : State, s.block.time.refPresent = true →
    Yields .referenceLoss s (fun b => b.time.refPresent = false ∧ stickyBit b 0x5000 ErrBit.MGT.SENSOR_FAULT = true ∧ memKept s.block b ∧
      regsKept (reportKeys 0x5000) s.block b)) ∧
  (∀ s : State, Yields .referenceRestored s (fun b => b = { s.block with time := { s.block.time with refPresent := true } }))

/-- R67, R76, R78: an admitted write of TREE_CFG sets the role and what follows from it; STEP waits for its boundary; WALL_ADJ takes its
value.
Concludes, from its hypotheses on state and operands alone, that exec answers a next state with the effect for: TREE_CFG_WRITE, STEP, WALL_ADJ_WRITE. -/
def Obligations.TimebaseRegistersAreWritten : Prop :=
  (∀ (s : State) (rq : Requester) (v : BitVec 32), pageResponds s.block tbs = true → guardOpen s.block rq = true → inJob s.block = false →
    s.block.time.refAtReset = true →
    takesAll s.block rq (0x2074) = true →
    Yields (.treeCfgWrite rq v) s (fun b => rd b Reg.TBS.TREE_CFG_ROLE = bits v.toNat Reg.TBS.TREE_CFG_ROLE.lsb 1 ∧
      guardOpen b rq = false ∧ b.time.rewritten = true)) ∧
  (∀ s : State, pageResponds s.block tbs = true →
    Yields .wallStep s (fun b => b.time.stepPending = true ∧ rd b Reg.TBS.WALL_CTRL = 1 ∧ memKept s.block b ∧
      regsKept [Reg.TBS.WALL_CTRL.key] s.block b)) ∧
  (∀ (s : State) (rq : Requester) (v : BitVec 32), pageResponds s.block tbs = true →
    takesAll s.block rq (0x20A4) = true →
    Yields (.wallAdjWrite rq v) s (fun b => rd b Reg.TBS.WALL_ADJ = v.toNat % 2 ^ Reg.TBS.WALL_ADJ.width ∧ memKept s.block b ∧
      regsKept [Reg.TBS.WALL_ADJ.key] s.block b))

/-! ### Regional clocks, power, temperature -/

/-- R72–R75, R444: a region stop begins when no droop has fallen in the 50 ticks before, or 200 ticks after its request; the region restarts at the
new frequency when its generator locks in time, and at the old one when it does not: FREQ_CHANGE_FAIL and CHANGE_FAILED follow a scheduled change
alone; a droop is counted, and takes up to two cycles from the region. How much it takes is open (log entries 7 and 25).
Concludes, from its hypotheses on state and operands alone, that exec answers a next state with the effect for: REGION_STOP_BEGIN, GENERATOR_LOCK,
FREQ_CHANGE_FAIL, DROOP_EVENT. -/
def Obligations.RegionStops : Prop :=
  (∀ (s : State) (cl : Fin 16) (t : Nat), (clus s.block cl).stopReq = some t → (clus s.block cl).gateClosed = none →
    ((∀ d ∈ (clus s.block cl).droops, d + 50 < now s.block ∨ now s.block ≤ d) ∨ t + 200 ≤ now s.block) →
    Yields (.regionStopBegin cl) s (fun b => (clus b cl).gateClosed = some (now s.block) ∧ (clus b cl).stopReq = none ∧
      rd b (Reg.CLK.FREQ_NOW_STOPPED (clkPage cl)) = 1 ∧
      rd b (Reg.CLK.STOP_LOG_DROOP_WAIT (clkPage cl)) = min (now s.block - t) 1023 ∧
      rd b (Reg.CLK.FREQ_NOW_NOW (clkPage cl)) = rd s.block (Reg.CLK.FREQ_NOW_NOW (clkPage cl)) ∧ memKept s.block b)) ∧
  (∀ (s : State) (cl : Fin 16) (t : Nat), (clus s.block cl).gateClosed = some t → now s.block < t + 480 →
    (clus s.block cl).pendingFreq = none →
    Yields (.generatorLock cl) s (fun b => (clus b cl).gateClosed = none ∧ rd b (Reg.CLK.FREQ_NOW_STOPPED (clkPage cl)) = 0 ∧
      rd b (Reg.CLK.FREQ_NOW_NOW (clkPage cl)) = (clus s.block cl).restart % 2 ^ (Reg.CLK.FREQ_NOW_NOW 0).width ∧
      rd b (Reg.CLK.STOP_LOG_DURATION (clkPage cl)) = min (now s.block - t) 1023 ∧
      ((clus s.block cl).inbound = [] → memKept s.block b))) ∧
  (∀ (s : State) (cl : Fin 16) (t : Nat), (clus s.block cl).gateClosed = some t → t + 480 ≤ now s.block →
    (clus s.block cl).pendingFreq = none →
    Yields (.freqChangeFail cl) s (fun b => (clus b cl).gateClosed = none ∧ rd b (Reg.CLK.FREQ_NOW_STOPPED (clkPage cl)) = 0 ∧
      rd b (Reg.CLK.FREQ_NOW_NOW (clkPage cl)) = (clus s.block cl).oldFreq % 2 ^ (Reg.CLK.FREQ_NOW_NOW 0).width ∧
      ((clus s.block cl).scheduled = true → stickyBit b (clkPage cl) ErrBit.CLK.FREQ_CHANGE_FAIL = true ∧
        rd b (Reg.CLK.STOP_LOG_CHANGE_FAILED (clkPage cl)) = 1) ∧
      ((clus s.block cl).scheduled = false → stickyBit b (clkPage cl) ErrBit.CLK.FREQ_CHANGE_FAIL =
          stickyBit s.block (clkPage cl) ErrBit.CLK.FREQ_CHANGE_FAIL ∧
        rd b (Reg.CLK.STOP_LOG_CHANGE_FAILED (clkPage cl)) = rd s.block (Reg.CLK.STOP_LOG_CHANGE_FAILED (clkPage cl))) ∧
      ((clus s.block cl).inbound = [] → memKept s.block b))) ∧
  (∀ (s : State) (cl : Fin 16), Yields (.droopEvent cl) s (fun b => (clus b cl).droops.head? = some (now s.block) ∧
    (clus s.block cl).lost ≤ (clus b cl).lost ∧ (clus b cl).lost ≤ (clus s.block cl).lost + 200 ∧
    ((clus s.block cl).gateClosed.isSome = true → (clus b cl).lost = (clus s.block cl).lost ∧
      rd b (Reg.CLK.STOP_LOG_DROOP_IN_STOP (clkPage cl)) = 1) ∧
    rd b (Reg.CLK.DROOP_EVENTS (clkPage cl)) =
      min (rd s.block (Reg.CLK.DROOP_EVENTS (clkPage cl)) + 1) (2 ^ (Reg.CLK.DROOP_EVENTS 0).width - 1) ∧
    rd b (Reg.CLK.DROOP_TOTAL (clkPage cl)) =
      min (rd s.block (Reg.CLK.DROOP_TOTAL (clkPage cl)) + 1) (2 ^ (Reg.CLK.DROOP_TOTAL 0).width - 1) ∧ memKept s.block b ∧
    regsKept [(Reg.CLK.DROOP_EVENTS (clkPage cl)).key, (Reg.CLK.DROOP_TOTAL (clkPage cl)).key,
      (Reg.CLK.STOP_LOG_DROOP_IN_STOP (clkPage cl)).key] s.block b))

/-- R168, R304, R305, R311, R318, R319, R321: below 42 V SAG_WARN shows the input, counts and stops every region, from 43 V on SAG_CLEAR ends
it, above 60 V OVERVOLT is set; a power window's end shows draw and lowest input, and an average above the effective cap sets CAP_EXCEEDED
and adds to the correction; temperatures show as measured, a point from 105 °C on trips its cluster, coolant inlet outside 17–45 °C sets
COOLANT_RANGE and nothing else but the two readings, and a stack or RDIMM from 95 °C on is OVERTEMP.
Concludes, from its hypotheses on state and operands alone, that exec answers a next state with the effect for: SAG_WARN, SAG_CLEAR, OVERVOLT,
POWER_WINDOW_END, THERMAL_SAMPLE, THERMAL_TRIP, COOLANT_RANGE, MEMORY_OVERTEMP. -/
def Obligations.SupplyAndTemperaturesAreWatched : Prop :=
  (∀ (s : State) (mv : Nat), mv < 42000 → sagLive s.block = false →
    Yields (.sagWarn mv) s (fun b => rd b Reg.PWR.INPUT_MV = mv ∧ sagLive b = true ∧ isLive b pwr ErrBit.PWR.SAG_WARN = true ∧
      rd b Reg.PWR.SAG_COUNT = min (rd s.block Reg.PWR.SAG_COUNT + 1) (2 ^ Reg.PWR.SAG_COUNT.width - 1) ∧
      (∀ cl : Fin 16, (clus b cl).gateClosed.isSome = true) ∧ memKept s.block b)) ∧
  (∀ (s : State) (mv : Nat), 43000 ≤ mv → sagLive s.block = true →
    Yields (.sagClear mv) s (fun b => rd b Reg.PWR.INPUT_MV = mv % 2 ^ 16 ∧ sagLive b = false ∧ isLive b pwr ErrBit.PWR.SAG_WARN = false ∧
      memKept s.block b ∧ regsKept (Reg.PWR.INPUT_MV.key :: Reg.PWR.LIVE_SAG_WARN.key :: reportKeys pwr) s.block b)) ∧
  (∀ (s : State) (mv : Nat), 60000 < mv →
    Yields (.overvolt mv) s (fun b => rd b Reg.PWR.INPUT_MV = mv % 2 ^ 16 ∧ stickyBit b pwr ErrBit.PWR.OVERVOLT = true ∧ memKept s.block b ∧
      tablesKept s.block b ∧ regsKept (Reg.PWR.INPUT_MV.key :: reportKeys pwr) s.block b)) ∧
  (∀ (s : State) (avg peak minMv : Nat), avg ≤ 4095 → peak ≤ 4095 → minMv < 2 ^ 16 →
    now s.block ≠ 0 → now s.block % 2 ^ rd s.block Reg.PWR.SAMPLE_CTRL = 0 →
    Yields (.powerWindowEnd avg peak minMv) s (fun b => rd b Reg.PWR.DRAW_AVG = avg ∧ rd b Reg.PWR.DRAW_PEAK = peak ∧
      rd b Reg.PWR.INPUT_MIN_MV = minMv ∧ memKept s.block b ∧ tablesKept s.block b ∧
      (avg ≤ capEff s.block → rd b Reg.PWR.CAP_EFF_CORRECTION = rd s.block Reg.PWR.CAP_EFF_CORRECTION) ∧
      (capEff s.block < avg → stickyBit b pwr ErrBit.PWR.CAP_EXCEEDED = true ∧
        rd b Reg.PWR.CAP_EFF_CORRECTION =
          min 4095 (rd s.block Reg.PWR.CAP_EFF_CORRECTION + (avg - capEff s.block)) % 2 ^ Reg.PWR.CAP_EFF_CORRECTION.width))) ∧
  (∀ (s : State) (cl : Fin 16) (t0 t1 t2 t3 : Nat), t0 < 256 → t1 < 256 → t2 < 256 → t3 < 256 →
    Yields (.thermalSample cl t0 t1 t2 t3) s (fun b => rd b (Reg.PWR.THERM_POINT (4 * cl)) = t0 ∧ rd b (Reg.PWR.THERM_POINT (4 * cl + 1)) = t1 ∧
      rd b (Reg.PWR.THERM_POINT (4 * cl + 2)) = t2 ∧ rd b (Reg.PWR.THERM_POINT (4 * cl + 3)) = t3 ∧
      rd b (Reg.CLK.THERMAL_DEGC (clkPage cl)) = max (max t0 t1) (max t2 t3) ∧ memKept s.block b)) ∧
  (∀ (s : State) (p : Fin 64) (d : Nat), 105 ≤ d →
    Yields (.thermalTrip p d) s (fun b => rd b (Reg.PWR.THERM_POINT p) = min d 255 ∧ b.power.tripped = true ∧
      rd b Reg.PWR.TRIP_COUNT = min (rd s.block Reg.PWR.TRIP_COUNT + 1) (2 ^ Reg.PWR.TRIP_COUNT.width - 1) ∧
      stickyBit b pwr ErrBit.PWR.THERM_TRIP = true ∧ (clus b (p / 4)).gateClosed.isSome = true)) ∧
  (∀ (s : State) (inlet outlet : Nat), inlet < 256 → outlet < 256 →
    Yields (.coolantRange inlet outlet) s (fun b => rd b Reg.PWR.COOLANT_INLET = inlet ∧ rd b Reg.PWR.COOLANT_OUTLET = outlet ∧
      (inlet < 17 ∨ 45 < inlet → stickyBit b pwr ErrBit.PWR.COOLANT_RANGE = true) ∧ memKept s.block b ∧ tablesKept s.block b ∧
      regsKept (Reg.PWR.COOLANT_INLET.key :: Reg.PWR.COOLANT_OUTLET.key :: reportKeys pwr) s.block b)) ∧
  (∀ (s : State) (u : MemUnit) (d : Nat),
    Yields (.memoryOvertemp u d) s (fun b => memTemp b (unitNum u) = min d 255 ∧
      rd b (regU (unitNum u) Reg.HBM.TEMP_OVERTEMP Reg.DDR.TEMP_OVERTEMP) = (if 95 ≤ d then 1 else 0) ∧
      isLive b (unitPage (unitNum u)) ErrBit.HBM.OVERTEMP = decide (95 ≤ d) ∧ memKept s.block b))

/-- R309, R313, R318: at the first tick of the last block of a sheet the module computes for the sheet two ahead: the token limit it
reads, and every cluster's target.
Concludes, from its hypotheses on state and operands alone, that exec answers a next state with the effect for: REQUEST_COMPUTATION. -/
def Obligations.RequestComputationServesTheSheetTwoAhead : Prop :=
  ∀ s : State, inJob s.block = true → s.block.plan.halted = false →
    s.block.plan.sheetStart + (lenOfSheet s.block (sheet s.block) - 1024) ≤ sched s.block →
    Yields .requestComputation s (fun b => Tab.get b.plan.tokenLimits 384 (sheet s.block + 2) = rd s.block Reg.PWR.TOKEN_LIMIT ∧
      (∀ cl : Fin 16, rd b (Reg.CLK.FREQ_TARGET (clkPage cl)) ≤ 130 ∧
        (clus b cl).plans.head? = some (sheet s.block + 2, rd b (Reg.CLK.FREQ_TARGET (clkPage cl)))) ∧
      now b = now s.block ∧ sheet b = sheet s.block ∧ memKept s.block b)

/-! ### Jobs and the plan -/

/-- R25, R69, R391: an admitted START without a reason against it joins the job for its origin; one with a reason records the code and
joins none; one that the guard refuses does neither. Where the rules leave a reading open it rests on
the model's, log entry 28.
Concludes, from its hypotheses on state and operands alone, that exec answers a next state with the effect for: JOB_START. -/
def Obligations.StartJoinsOrIsRefusedWithItsCode : Prop :=
  (∀ (s : State) (rq : Requester), guardOpen s.block rq = true → startCode s.block = 0 →
    Yields (.jobStart rq) s (fun b => jobState b = 2 ∧ inJob b = true ∧ rd b Reg.TBS.JOB_ORIGIN = rd s.block Reg.GLB.START_T0 ∧
      rd b Reg.GLB.JOB_STATUS_START_CODE = 0 ∧ sched b = 0 ∧ sheet b = 0 ∧ guardOpen b rq = false ∧ b.plan.ream = s.block.plan.ream)) ∧
  (∀ (s : State) (rq : Requester), guardOpen s.block rq = true → startCode s.block ≠ 0 →
    Yields (.jobStart rq) s (fun b => jobState b = jobState s.block ∧ inJob b = inJob s.block ∧
      rd b Reg.GLB.JOB_STATUS_START_CODE = startCode s.block ∧ stickyBit b 0 ErrBit.GLB.START_REFUSED = true ∧
      guardOpen b rq = false ∧ memKept s.block b)) ∧
  (∀ (s : State) (rq : Requester), guardOpen s.block rq = false →
    Yields (.jobStart rq) s (fun b => stickyBit b 0 ErrBit.GLB.GUARD_REFUSED = true ∧ memKept s.block b ∧ tablesKept s.block b ∧
      regsKept ((Reg.HDR.LOCK_STATE_REFUSED 0).key :: Reg.GLB.GUARD_REFUSALS.key :: reportKeys 0) s.block b))

/-- R32, R33, R46, R48, R85: at its origin the job runs sheet 0, whose window opens; at a due boundary, which lies at B + L + 1,024 q whenever it is
taken, the next sheet begins with the agreed quanta, or the job halts where a halt was committed; a stretch quantum holds schedule time for 1,024 ticks of plan time from its place in
the sheet on. Where the rules leave a reading open it rests on
the model's, log entry 28.
Concludes, from its hypotheses on state and operands alone, that exec answers a next state with the effect for: JOB_ORIGIN, SHEET_BOUNDARY,
STRETCH_QUANTUM_START, STRETCH_QUANTUM_END. -/
def Obligations.SheetsAndStretchQuantaBeginOnTime : Prop :=
  (∀ s : State, jobState s.block = 2 → rd s.block Reg.TBS.JOB_ORIGIN ≤ now s.block →
    Yields .jobOrigin s (fun b => jobState b = 3 ∧ sheet b = 0 ∧ b.plan.windowOpen = true ∧ b.plan.quanta = 0 ∧ b.plan.halted = false ∧
      b.plan.sheetPlan = rd s.block Reg.TBS.JOB_ORIGIN ∧ b.plan.sheetStart = 0)) ∧
  (∀ s : State, boundaryDue s.block = true → s.block.plan.haltNext = false →
    (s.block.plan.teardownNamed = false ∨ s.block.plan.teardownSheet ≠ sheet s.block + 1) →
    Yields .sheetBoundary s (fun b => sheet b = (sheet s.block + 1) % 2 ^ 48 ∧ jobState b = 3 ∧ b.plan.windowOpen = true ∧
      b.plan.quanta = recQ s.block.plan.committed ∧ b.plan.nextQuantum = 0 ∧
      b.plan.sheetStart = s.block.plan.sheetStart + lenOfSheet s.block (sheet s.block) ∧
      b.plan.sheetPlan = s.block.plan.sheetPlan + lenOfSheet s.block (sheet s.block) + 1024 * s.block.plan.quanta)) ∧
  (∀ s : State, boundaryDue s.block = true → s.block.plan.haltNext = true →
    Yields .sheetBoundary s (fun b => jobState b = 4 ∧ b.plan.halted = true ∧ b.plan.haltNext = false ∧ b.plan.teardownNamed = false ∧
      rd b Reg.TBS.HALT_SHEET = (sheet s.block + 1) % 2 ^ 48)) ∧
  (∀ s : State, inJob s.block = true → s.block.plan.halted = false → s.block.plan.inQuantum = false →
    s.block.plan.nextQuantum < s.block.plan.quanta →
    s.block.plan.sheetStart + quantumAt s.block s.block.plan.nextQuantum ≤ sched s.block →
    Yields .stretchQuantumStart s (fun b => b.plan.inQuantum = true ∧ b.plan.nextQuantum = s.block.plan.nextQuantum + 1 ∧
      b.plan.quantumEnd = rd s.block Reg.TBS.STRETCH_OFFSET + 1024 ∧ b.store = s.block.store)) ∧
  (∀ s : State, s.block.plan.inQuantum = true → s.block.plan.quantumEnd ≤ rd s.block Reg.TBS.STRETCH_OFFSET →
    Yields .stretchQuantumEnd s (fun b => b = { s.block with plan := { s.block.plan with inQuantum := false } }))

/-- A deckle flit's header names a slot of the echo half (R192). -/
def inEchoHalf (s : Block) (h : Nat) : Bool :=
  decide (s.plan.sheetStart + deckleLen s / 2 ≤ 2 * slotOfHeader s (bits h 44 12))

/-- R36, R38, R41, R42, R50, R52, R53, R199: the window combines what it receives into the held record and compares digests in its echo half; a flit
after its half, or outside a window, is a late arrival; at the end of a half an absent flit is a late slot of its port; at the window's end
the held record is committed where every digest agreed, and a disagreement, an absence, or a record that carries a fault or a request to halt, commits
the halt of the next boundary. Where the rules leave a reading open it rests on the model's, log entries 6, 17 and 29.
Concludes, from its hypotheses on state and operands alone, that exec answers a next state with the effect for: DECKLE_FLIT_ARRIVAL,
ANNOUNCE_HALF_END, DECKLE_COMMIT. -/
def Obligations.TheWindowCombinesComparesAndCommits : Prop :=
  (∀ (s : State) (p : Fin 12) (h : BitVec 128) (hops : Fin 64) (d : List Byte), d.length = 256 → bits h.toNat 0 2 = 3 →
    inJob s.block = true → s.block.plan.windowOpen = true → s.block.plan.halted = false → inJobPort s.block p = true →
    s.block.plan.echoing = false → inEchoHalf s.block h.toNat = false → isStream s.block d = false →
    Yields (.deckleFlitArrival p h hops d) s (fun b => b.plan.ann = (64 * sideOfPort p + hops) :: s.block.plan.ann ∧
      b.plan.held = (if recordBad s.block.plan.contribution d = true then s.block.plan.held else combineRec s.block.plan.held d) ∧
      b.plan.disagree = (s.block.plan.disagree || recordBad s.block.plan.contribution d) ∧ memKept s.block b)) ∧
  (∀ (s : State) (p : Fin 12) (h : BitVec 128) (hops : Fin 64) (d : List Byte), d.length = 256 → bits h.toNat 0 2 = 3 →
    inJob s.block = true → s.block.plan.windowOpen = true → s.block.plan.halted = false → inJobPort s.block p = true →
    s.block.plan.echoing = false → inEchoHalf s.block h.toNat = false → isStream s.block d = true →
    Yields (.deckleFlitArrival p h hops d) s (fun b => b.plan.stepFlits = s.block.plan.stepFlits ++ [d] ∧
      b.plan.held = s.block.plan.held ∧ b.plan.disagree = s.block.plan.disagree ∧ memKept s.block b)) ∧
  (∀ (s : State) (p : Fin 12) (h : BitVec 128) (hops : Fin 64) (d : List Byte), d.length = 256 → bits h.toNat 0 2 = 3 →
    inJob s.block = true → s.block.plan.windowOpen = true → s.block.plan.halted = false → inJobPort s.block p = true →
    s.block.plan.echoing = true → inEchoHalf s.block h.toNat = true →
    Yields (.deckleFlitArrival p h hops d) s (fun b => b.plan.ech = (64 * sideOfPort p + hops) :: s.block.plan.ech ∧
      b.plan.held = s.block.plan.held ∧
      b.plan.disagree = (s.block.plan.disagree || (fieldLe d 0 4 != crc32c s.block.plan.held || bit (fieldLe d 4 1) 0)) ∧
      memKept s.block b)) ∧
  (∀ (s : State) (p : Fin 12) (h : BitVec 128) (hops : Fin 64) (d : List Byte), d.length = 256 → bits h.toNat 0 2 = 3 →
    inJob s.block = true → s.block.plan.halted = false → inJobPort s.block p = true →
    (s.block.plan.windowOpen = false ∨ (s.block.plan.echoing = true ∧ inEchoHalf s.block h.toNat = false)) →
    Yields (.deckleFlitArrival p h hops d) s (fun b => stickyBit b (prtPage p) ErrBit.PRT.LATE_ARRIVAL = true ∧
      rd b (Reg.PRT.LATE_ARRIVALS (prtPage p)) =
        min (rd s.block (Reg.PRT.LATE_ARRIVALS (prtPage p)) + 1) (2 ^ (Reg.PRT.LATE_ARRIVALS 0).width - 1) ∧
      b.plan = s.block.plan ∧ memKept s.block b)) ∧
  (∀ s : State, s.block.plan.windowOpen = true → s.block.plan.echoing = false → s.block.plan.halted = false →
    s.block.plan.sheetStart + deckleLen s.block / 2 ≤ sched s.block →
    Yields .announceHalfEnd s (fun b => b.plan.echoing = true ∧ b.plan.held = s.block.plan.held ∧ memKept s.block b ∧
      b.plan.disagree = (s.block.plan.disagree || !(sidesLate s.block s.block.plan.ann).isEmpty || !streamOk s.block) ∧
      (∀ d ∈ sidesLate s.block s.block.plan.ann, stickyBit b (prtPage (sidePort s.block d)) ErrBit.PRT.LATE_SLOT = true))) ∧
  (∀ s : State, s.block.plan.windowOpen = true → s.block.plan.halted = false →
    s.block.plan.sheetStart + deckleLen s.block ≤ sched s.block →
    Yields .deckleCommit s (fun b => b.plan.windowOpen = false ∧ memKept s.block b ∧
      (s.block.plan.disagree = false → s.block.plan.echoing = true → sidesLate s.block s.block.plan.ech = [] →
        b.plan.committed = s.block.plan.held ∧ b.plan.committedValid = true ∧
        (recHalts s.block = false → b.plan.haltNext = s.block.plan.haltNext)) ∧
      (s.block.plan.disagree = true ∨ s.block.plan.echoing = false ∨ sidesLate s.block s.block.plan.ech ≠ [] ∨
          recHalts s.block = true →
        b.plan.haltNext = true ∧ rd b Reg.TBS.HALT_SHEET_VALID = 1 ∧ rd b Reg.TBS.HALT_SHEET = (sheet s.block + 1) % 2 ^ 48)))

/-! ### Core-engine operations -/

/-- R83, R84, R94, R96, R103, R112, R325: NOP and SYNC leave everything but the engine's place in its program; END halts the engine with its
own address; SHEET_END makes it wait; SETCNT sets its counter; HINT is kept. Where the rules leave a reading open it rests on
the model's, log entries 22 and 23.
Concludes, from its hypotheses on state and operands alone, that exec answers a next state with the effect for: NOP, END, SHEET_END, SETCNT, SYNC,
HINT. -/
def Obligations.PlainAndControlOperationsIssue : Prop :=
  (∀ (s : State) (e : CoreEng), readyFor s.block (ceNum e) (isOp opNOP) →
    Yields (.nop e) s (fun b => issuedAs s.block b (ceNum e) 1 (issueAt s.block (ceNum e) + 1) .none ∧ issueOnly [] s.block b (ceNum e))) ∧
  (∀ (s : State) (e : CoreEng), readyFor s.block (ceNum e) (isOp opSYNC) →
    Yields (.sync e) s (fun b => issuedAs s.block b (ceNum e) 1 (issueAt s.block (ceNum e) + 1) .none ∧ issueOnly [] s.block b (ceNum e))) ∧
  (∀ (s : State) (e : CoreEng), readyFor s.block (ceNum e) (isOp opEND) →
    Yields (.opEnd e) s (fun b => haltedWith b (ceNum e) rsEND (nextOp s.block (ceNum e)) (now s.block) ∧ memKept s.block b ∧
      (eng b (ceNum e)).inflight = (eng s.block (ceNum e)).inflight)) ∧
  (∀ (s : State) (e : CoreEng), readyFor s.block (ceNum e) (isOp opSHEETEND) →
    Yields (.sheetEnd e) s (fun b => engState b (ceNum e) = 3 ∧
      issuedAs s.block b (ceNum e) 1 (issueAt s.block (ceNum e) + 1) (.sheetEnd (fDeadline (opWord s.block (ceNum e)))) ∧
      issueOnly [] s.block b (ceNum e))) ∧
  (∀ (s : State) (e : CoreEng), readyFor s.block (ceNum e) (isOp opSETCNT) → fCntSrc (opWord s.block (ceNum e)) = false →
    Yields (.setcnt e) s (fun b => rd b (Reg.ENG.CNT (engBlock (ceNum e)) (fCntReg (opWord s.block (ceNum e)))) =
        fCntImm (opWord s.block (ceNum e)) ∧
      issuedAs s.block b (ceNum e) 1 (issueAt s.block (ceNum e) + 1) .none ∧
      issueOnly [(Reg.ENG.CNT (engBlock (ceNum e)) (fCntReg (opWord s.block (ceNum e)))).key] s.block b (ceNum e))) ∧
  (∀ (s : State) (e : CoreEng), readyFor s.block (ceNum e) (isOp opSETCNT) → fCntSrc (opWord s.block (ceNum e)) = true →
    accessCauses s.block (ceNum e) (opWord s.block (ceNum e))
      ⟨fCntSpace (opWord s.block (ceNum e)), fCntAddr (opWord s.block (ceNum e)), 4, false, none⟩ = [] →
    Yields (.setcnt e) s (fun b => rd b (Reg.ENG.CNT (engBlock (ceNum e)) (fCntReg (opWord s.block (ceNum e)))) =
        devNum s.block (spaceAddr (ceNum e) (fCntSpace (opWord s.block (ceNum e))) (fCntAddr (opWord s.block (ceNum e)))) 4)) ∧
  (∀ (s : State) (e : CoreEng), readyFor s.block (ceNum e) (isOp opHINT) → fHintCount (opWord s.block (ceNum e)) ≤ 4 →
    256 ≤ fHintLead (opWord s.block (ceNum e)) →
    Yields (.hint e) s (fun b =>
      rd b (Reg.SY.HINT_LAST_COUNT (engBlock (ceNum e))) = fHintCount (opWord s.block (ceNum e)) ∧
      rd b (Reg.SY.HINT_LAST_LEAD (engBlock (ceNum e))) = fHintLead (opWord s.block (ceNum e)) ∧
      issuedAs s.block b (ceNum e) 1 (issueAt s.block (ceNum e) + 1) .none ∧ memKept s.block b))

/-- R85, R93, R101, R102: loops open and close with their pad, barriers gather their participants, and a wait that holds ends. Where the rules leave a reading open it rests on
the model's, log entry 22.
Concludes, from its hypotheses on state and operands alone, that exec answers a next state with the effect for: LOOP, LOOP_PAD_END, BAR,
BARRIER_COMPLETE, WAIT_SATISFIED. -/
def Obligations.LoopsBarriersAndWaits : Prop :=
  (∀ (s : State) (e : CoreEng), readyFor s.block (ceNum e) (isOp opLOOP) → (eng s.block (ceNum e)).loops.length < 4 →
    fLoopSrc (opWord s.block (ceNum e)) = false → 1 ≤ fLoopCount (opWord s.block (ceNum e)) →
    Yields (.loop e) s (fun b => nextOp b (ceNum e) = (nextOp s.block (ceNum e) + 16) % 2 ^ 16 ∧ memKept s.block b ∧
      (eng b (ceNum e)).loops = (eng s.block (ceNum e)).loops ++ [⟨nextOp s.block (ceNum e) + 16,
        nextOp s.block (ceNum e) + 16 * fLoopBody (opWord s.block (ceNum e)), fLoopM (opWord s.block (ceNum e)),
        fLoopT (opWord s.block (ceNum e)), min (fLoopCount (opWord s.block (ceNum e))) (fLoopM (opWord s.block (ceNum e))), 0,
        issueAt s.block (ceNum e) + 1 + fLoopM (opWord s.block (ceNum e)) * fLoopT (opWord s.block (ceNum e))⟩])) ∧
  (∀ (s : State) (e : CoreEng), readyFor s.block (ceNum e) (isOp opLOOP) → (eng s.block (ceNum e)).loops.length < 4 →
    fLoopSrc (opWord s.block (ceNum e)) = false → fLoopCount (opWord s.block (ceNum e)) = 0 →
    Yields (.loop e) s (fun b => memKept s.block b ∧ nextOp b (ceNum e) =
      nextAfter s.block (ceNum e) (nextOp s.block (ceNum e) + 16 * fLoopBody (opWord s.block (ceNum e))))) ∧
  (∀ (s : State) (e : CoreEng), engState s.block (ceNum e) = 3 → rd s.block (Reg.ENG.STATE_WAIT_KIND (engBlock (ceNum e))) = 5 →
    (eng s.block (ceNum e)).padUntil ≤ cycleOf s.block (ceNum e) →
    Yields (.loopPadEnd e) s (fun b => engState b (ceNum e) = 2 ∧ nextOp b (ceNum e) = nextOp s.block (ceNum e) ∧
      issueOnly [] s.block b (ceNum e))) ∧
  (∀ (s : State) (e : CoreEng), readyFor s.block (ceNum e) (isOp opBAR) →
    bit (rd s.block (Reg.COR.BAR_MASK (corPage e.cl e.core) (fBarrier (opWord s.block (ceNum e))))) e.eng = true →
    Yields (.bar e) s (fun b => engState b (ceNum e) = 3 ∧ rd b (Reg.ENG.STATE_WAIT_KIND (engBlock (ceNum e))) = 3 ∧
      bit (rd b (Reg.COR.BAR_STATE_ARRIVED (corPage e.cl e.core) (fBarrier (opWord s.block (ceNum e))))) e.eng = true ∧
      issuedAs s.block b (ceNum e) 1 (issueAt s.block (ceNum e) + 1) (.bar (fBarrier (opWord s.block (ceNum e)))) ∧
      issueOnly [(Reg.COR.BAR_STATE_ARRIVED (corPage e.cl e.core) (fBarrier (opWord s.block (ceNum e)))).key] s.block b (ceNum e))) ∧
  (∀ (s : State) (cl : Fin 16) (k : Fin 6) (i : Fin 16), rd s.block (Reg.COR.BAR_MASK (corPage cl k) i) ≠ 0 →
    rd s.block (Reg.COR.BAR_STATE_ARRIVED (corPage cl k) i) = rd s.block (Reg.COR.BAR_MASK (corPage cl k) i) →
    (∀ x : Fin 8, bit (rd s.block (Reg.COR.BAR_MASK (corPage cl k) i)) x = true → barOnly s.block (engCore cl k x) i = true) →
    Yields (.barrierComplete cl k i) s (fun b => rd b (Reg.COR.BAR_STATE_ARRIVED (corPage cl k) i) = 0 ∧
      rd b (Reg.COR.BAR_STATE_GEN (corPage cl k) i) =
        (rd s.block (Reg.COR.BAR_STATE_GEN (corPage cl k) i) + 1) % 2 ^ (Reg.COR.BAR_STATE_GEN 0 0).width ∧
      (∀ x : Fin 8, bit (rd s.block (Reg.COR.BAR_MASK (corPage cl k) i)) x = true → (eng b (engCore cl k x)).inflight = []) ∧
      memKept s.block b)) ∧
  (∀ (s : State) (e : CoreEng), engState s.block (ceNum e) = 3 →
    (rd s.block (Reg.ENG.STATE_WAIT_KIND (engBlock (ceNum e))) = 1 ∨ rd s.block (Reg.ENG.STATE_WAIT_KIND (engBlock (ceNum e))) = 2) →
    flag s.block (Reg.CLK.FREQ_NOW_STOPPED (clkPage e.cl)) = false →
    waitOkRace s.block (ceNum e) (eng s.block (ceNum e)).awaited (eng s.block (ceNum e)).partner = true →
    Yields (.waitSatisfied e) s (fun b => engState b (ceNum e) = 2 ∧ rd b (Reg.ENG.STATE_WAIT_KIND (engBlock (ceNum e))) = 0 ∧
      issueOnly [] s.block b (ceNum e))) ∧
  (∀ (s : State) (e : CoreEng), flag s.block (Reg.CLK.FREQ_NOW_STOPPED (clkPage e.cl)) = true →
    Yields (.waitSatisfied e) s (fun b => b = s.block))

/-- The commands by which a core engine issues its next operation. -/
def issueCommands (e : CoreEng) : List Instr :=
  [.nop e, .opEnd e, .sheetEnd e, .loop e, .setcnt e, .bar e, .sync e, .hint e, .mma e, .wload e, .swap e, .drain e, .vadd e, .vsub e,
   .vmul e, .vfma e, .vdiv e, .vsqrt e, .vrecip e, .vrsqrt e, .vexp2 e, .vlog2 e, .vmin e, .vmax e, .vabs e, .vneg e, .vcmp e, .vsel e,
   .vcvtTo e, .vcvtFrom e, .aclr e, .aacc e, .aload e, .alane e, .acvt e, .astore e, .fred e, .fmacc e, .rand e, .gather e, .imload e,
   .svcread e]

/-- R84, R100, R110, R112: whichever command asks an engine to issue, one that is not running does nothing, one past its program halts with
OVERRUN, one whose operation cannot be fetched with IMEM_UNCORRECTABLE, and one that stands at an encoding its kind may not issue with
ILLEGAL_OP. Where the rules leave a reading open it rests on
the model's, log entry 23. -/
def Obligations.EveryIssueHaltsOnWhatMayNotIssue : Prop :=
  ∀ (s : State) (e : CoreEng) (c : Instr), c ∈ issueCommands e →
    (canIssue s.block (ceNum e) = false → Yields c s (fun b => b = s.block)) ∧
    (canIssue s.block (ceNum e) = true → rd s.block (Reg.ENG.ACTIVE_LEN (engBlock (ceNum e))) ≤ nextOp s.block (ceNum e) →
      Yields c s (fun b => haltedWith b (ceNum e) rsOVERRUN (nextOp s.block (ceNum e)) (now s.block) ∧ memKept s.block b)) ∧
    (canIssue s.block (ceNum e) = true → nextOp s.block (ceNum e) < rd s.block (Reg.ENG.ACTIVE_LEN (engBlock (ceNum e))) →
      fetchBad s.block (ceNum e) (activeBank s.block (ceNum e)) (nextOp s.block (ceNum e)) = true →
      Yields c s (fun b => haltedWith b (ceNum e) rsIMEMUE (nextOp s.block (ceNum e)) (now s.block) ∧
        engSticky b (ceNum e) ErrBit.ENG.IMEM_UNCORRECTABLE = true ∧ memKept s.block b)) ∧
    (canIssue s.block (ceNum e) = true → nextOp s.block (ceNum e) < rd s.block (Reg.ENG.ACTIVE_LEN (engBlock (ceNum e))) →
      fetchBad s.block (ceNum e) (activeBank s.block (ceNum e)) (nextOp s.block (ceNum e)) = false →
      opLegal e.eng (opWord s.block (ceNum e)) = false →
      Yields c s (fun b => haltedWith b (ceNum e) rsILLEGAL (nextOp s.block (ceNum e)) (now s.block) ∧
        engSticky b (ceNum e) ErrBit.ENG.ILLEGAL_OP = true ∧ memKept s.block b))

/-- The bytes that a copy of an engine has read in its first k steps of 256. -/
def copied (s : Block) (src k : Nat) : List Byte := (List.range k).flatMap (fun i => devRead s (src + 256 * i) 256)

/-- R123–R126: WLOAD fills the shadow weights row by row and SWAP makes them live for every array of the core. Where the rules leave a reading open
it rests on the model's, log entry 22.
Concludes, from its hypotheses on state and operands alone, that exec answers a next state with the effect for: WLOAD, WLOAD_BROADCAST_END, SWAP,
SWAP_EFFECT. -/
def Obligations.WeightsLoadAndSwap : Prop :=
  (∀ (s : State) (e : CoreEng) (w : Nat), w = opWord s.block (ceNum e) → readyFor s.block (ceNum e) (isOp opWLOAD) →
    isLeader s.block (ceNum e) = true → shadowState s.block e.cl e.core = 0 →
    accessCauses s.block (ceNum e) w ⟨0, fWlAddr w, tileBytes (fWlFmt w), false, none⟩ = [] →
    Yields (.wload e) s (fun b => shadowState b e.cl e.core = 1 ∧
      (core b e.cl e.core).shadow = ⟨fWlFmt w, fWlK w, fWlTag w, (List.range (stepsNow s.block (ceNum e) 1 128)).flatMap (fun i =>
        devRead s.block (spaceAddr (ceNum e) 0 (fWlAddr w + i * rowBytes (fWlFmt w))) (rowBytes (fWlFmt w)))⟩ ∧
      (core b e.cl e.core).live = (core s.block e.cl e.core).live ∧ (core b e.cl e.core).loadEnd = issueAt s.block (ceNum e) + 128 ∧
      issuedSteps s.block b (ceNum e) 1 (issueAt s.block (ceNum e) + 128) 128 .wload ∧ memKept s.block b)) ∧
  (∀ (s : State) (cl : Fin 16) (k : Fin 6), shadowState s.block cl k = 1 → (core s.block cl k).loadEnd ≤ (clus s.block cl).cycle →
    Yields (.wloadBroadcastEnd cl k) s (fun b =>
      onlyRegs ((mxPages cl k).map (fun p => (Reg.MX.ARRAY_STATUS_SHADOW p).key)) s.block b ∧ shadowState b cl k = 2)) ∧
  (∀ (s : State) (e : CoreEng), readyFor s.block (ceNum e) (isOp opSWAP) →
    Yields (.swap e) s (fun b => flag b (Reg.MX.ARRAY_STATUS_SWAP_PENDING (engBlock (ceNum e))) = true ∧ engState b (ceNum e) = 3 ∧
      issuedAs s.block b (ceNum e) 1 (issueAt s.block (ceNum e) + 1) .swap ∧
      issueOnly [(Reg.MX.ARRAY_STATUS_SWAP_PENDING (engBlock (ceNum e))).key] s.block b (ceNum e))) ∧
  (∀ (s : State) (cl : Fin 16) (k : Fin 6), swapGroup s.block cl k ≠ [] → (swapGroup s.block cl k).all (swapArrived s.block) = true →
    shadowState s.block cl k = 2 →
    Yields (.swapEffect cl k) s (fun b => (core b cl k).live = (core s.block cl k).shadow ∧ shadowState b cl k = 0 ∧
      (∀ x : Fin 4, rd b (Reg.MX.WEIGHT_GEN_GEN (engPage8 cl k x)) =
          (rd s.block (Reg.MX.WEIGHT_GEN_GEN (engPage8 cl k x)) + 1) % 2 ^ (Reg.MX.WEIGHT_GEN_GEN 0).width) ∧
      (∀ n ∈ swapGroup s.block cl k, flag b (Reg.MX.ARRAY_STATUS_SWAP_PENDING (engBlock n)) = false) ∧ memKept s.block b))

/-- The anchor that an MMA's vectors enter with: what its CLEAR sets, or the half's (R135, R148). -/
def anchorFor (s : Block) (n w : Nat) (live : Tile) : Int :=
  if fClear w = true then clearAnchor live w ((List.range (fN w)).map (fun u =>
    devRead s (spaceAddr n 1 (fMmaAddr w + u * 32 * fStride w)) (vectorBytes (fAFmt w))))
  else toSigned 10 (rd s (Reg.MX.ACC_HDR_ANCHOR (engBlock n) (fHalf w)))

/-- R128–R138, R147: MMA takes its vectors one after the other against the live tile, and a CLEAR empties its half as it issues; its rows enter the half
when it completes, unless a later CLEAR came first; DRAIN writes rows to memory and opens the half again. Where the rules leave a reading open it
rests on the model's, log entry 22.
Concludes, from its hypotheses on state and operands alone, that exec answers a next state with the effect for: MMA, MMA_COMPLETE, DRAIN,
DRAIN_COMPLETE. -/
def Obligations.MatricesMultiplyAccumulateAndDrain : Prop :=
  (∀ (s : State) (e : CoreEng) (w : Nat), w = opWord s.block (ceNum e) → readyFor s.block (ceNum e) (isOp opMMA) →
    (eng s.block (ceNum e)).arrayFree ≤ issueAt s.block (ceNum e) →
    rd s.block (Reg.MX.ACC_HDR_STATE (engBlock (ceNum e)) (fHalf w)) ≠ 2 → mmaCauses s.block (ceNum e) w = [] →
    Yields (.mma e) s (fun b => memKept s.block b ∧
      (eng b (ceNum e)).inflight.length = (eng s.block (ceNum e)).inflight.length + 1 ∧
      nextOp b (ceNum e) = nextAfter s.block (ceNum e) (nextOp s.block (ceNum e)) ∧
      rd b (Reg.MX.ARRAY_STATUS_MODE (engBlock (ceNum e))) = fMode w ∧
      (fClear w = true → rd b (Reg.MX.ACC_HDR_STATE (engBlock (ceNum e)) (fHalf w)) = 1 ∧
        rd b (Reg.MX.ACC_HDR_OVF (engBlock (ceNum e)) (fHalf w)) = 0 ∧ rd b (Reg.MX.ACC_UNDERFLOW (engBlock (ceNum e)) (fHalf w)) = 0 ∧
        halfOf b (ceNum e) (fHalf w) = { fill := identity (fMode w), acc := [] }) ∧
      (fClear w = false → halfOf b (ceNum e) (fHalf w) = halfOf s.block (ceNum e) (fHalf w)) ∧
      ∃ x heavy inexact ovf, (eng b (ceNum e)).inflight.getLast? = some x ∧ x.word = w ∧ x.units = fN w ∧
        x.done = stepsNow s.block (ceNum e) x.per (fN w) ∧
        x.effect = .mma (fHalf w) (fR0 w) (fMode w) heavy false
          ((List.range x.done).map (fun v => (vectorResult (core s.block e.cl e.core).live (fAFmt w) (fMode w)
            (anchorFor s.block (ceNum e) w (core s.block e.cl e.core).live)
            (devRead s.block (spaceAddr (ceNum e) 1 (fMmaAddr w + v * 32 * fStride w)) (vectorBytes (fAFmt w)))).1)) inexact ovf)) ∧
  (∀ (s : State) (e : CoreEng) (x : InFlight) (h r0 mode : Nat) (heavy : Bool) (rows : List (List Int)) (inexact : Nat) (ovf : Bool),
    dueWith s.block (ceNum e) x (.mma h r0 mode heavy false rows inexact ovf) → fOpcode x.word = opMMA →
    Yields (.mmaComplete e) s (fun b => memKept s.block b ∧
      halfOf b (ceNum e) h = (accRows mode r0 (halfOf s.block (ceNum e) h) rows).1 ∧
      (eng b (ceNum e)).inflight = (eng s.block (ceNum e)).inflight.tail)) ∧
  (∀ (s : State) (e : CoreEng) (x : InFlight) (h r0 mode : Nat) (heavy : Bool) (rows : List (List Int)) (inexact : Nat) (ovf : Bool),
    dueWith s.block (ceNum e) x (.mma h r0 mode heavy true rows inexact ovf) → fOpcode x.word = opMMA →
    Yields (.mmaComplete e) s (fun b => memKept s.block b ∧ halfOf b (ceNum e) h = halfOf s.block (ceNum e) h ∧
      (eng b (ceNum e)).inflight = (eng s.block (ceNum e)).inflight.tail)) ∧
  (∀ (s : State) (e : CoreEng) (w : Nat), w = opWord s.block (ceNum e) → readyFor s.block (ceNum e) (isOp opDRAIN) →
    (eng s.block (ceNum e)).drainFree ≤ issueAt s.block (ceNum e) →
    rd s.block (Reg.MX.ACC_HDR_STATE (engBlock (ceNum e)) (fDrHalf w)) = 1 →
    accessCauses s.block (ceNum e) w ⟨1 + fDrDest w, fDrAddr w, fDrRows w * drainRowBytes (fDrOut w), true, none⟩ = [] →
    Yields (.drain e) s (fun b => rd b (Reg.MX.ACC_HDR_STATE (engBlock (ceNum e)) (fDrHalf w)) = 2 ∧
      (∃ narrow, issuedSteps s.block b (ceNum e) (drainRate (fDrOut w)) (issueAt s.block (ceNum e) + fDrRows w * drainRate (fDrOut w)) (fDrRows w)
        (.drain (fDrHalf w) ((List.range (stepsNow s.block (ceNum e) (drainRate (fDrOut w)) (fDrRows w))).map (fun i =>
          (spaceAddr (ceNum e) (1 + fDrDest w) (fDrAddr w) + i * drainRowBytes (fDrOut w),
            (drainRow s.block (ceNum e) w (fDrRow w + i)).1))) narrow)) ∧
      issueOnly [(Reg.MX.ACC_HDR_STATE (engBlock (ceNum e)) (fDrHalf w)).key] s.block b (ceNum e))) ∧
  (∀ (s : State) (e : CoreEng) (x : InFlight) (h : Nat) (ws : List (Nat × List Byte)) (narrow : Bool),
    dueWith s.block (ceNum e) x (.drain h ws narrow) → fOpcode x.word = opDRAIN →
    Yields (.drainComplete e) s (fun b => rd b (Reg.MX.ACC_HDR_STATE (engBlock (ceNum e)) h) = 1 ∧ devAfter s.block ws b ∧
      (eng b (ceNum e)).inflight = (eng s.block (ceNum e)).inflight.tail))
/-- A vector command issues its function with these accesses, and its effect is computed from what it reads as it issues (R84, R152). -/
def vopIssues (c : CoreEng → Instr) (f : Nat) (acc : Nat → List Access) (eff : Block → CoreEng → Nat → Effect) : Prop :=
  ∀ (s : State) (e : CoreEng) (w : Nat), w = opWord s.block (ceNum e) →
    readyFor s.block (ceNum e) (fun v => isOp opVOP v && fFunc v == f) →
    (acc w).flatMap (accessCauses s.block (ceNum e) w) = [] →
    Yields (c e) s (fun b =>
      issuedAs s.block b (ceNum e) 1 (issueAt s.block (ceNum e) + 1) (eff s.block e w) ∧
      issueOnly [] s.block b (ceNum e))

/-- The write of the lanes that a function of one source lane gives. -/
def laneMap1 (g : Nat → VRes) (t : Block) (e : CoreEng) (w : Nat) : Effect :=
  vxOut (ceNum e) w ((lanes32 t (ceNum e) (fVa w)).map g)

/-- The write of the lanes that a function of two source lanes gives. -/
def laneMap2 (g : Nat → Nat → VRes) (t : Block) (e : CoreEng) (w : Nat) : Effect :=
  vxOut (ceNum e) w (List.zipWith g (lanes32 t (ceNum e) (fVa w)) (lanes32 t (ceNum e) (fVb w)))

/-- R152, R153, R427: the elementwise functions read 256 lanes of each source and write 256 lanes; of them VABS and VNEG change the sign alone,
VMIN and VMAX choose one of two numbers, and the number where the other lane is a NaN; a NaN becomes the canonical one. Where the rules leave a reading open it rests on
the model's, log entry 50.
Concludes, from its hypotheses on state and operands alone, that exec answers a next state with the effect for: ADD, SUBTRACT, MULTIPLY,
FUSED_MULTIPLY_ADD, DIVIDE, SQUARE_ROOT, RECIPROCAL, RECIPROCAL_SQUARE_ROOT, EXP2, LOG2, MINIMUM, MAXIMUM, ABSOLUTE_VALUE, NEGATION, SELECT. -/
def Obligations.ElementwiseFunctionsWriteTheirLanes : Prop :=
  vopIssues .vadd 0x00 acc2 (laneMap2 vAdd) ∧ vopIssues .vsub 0x01 acc2 (laneMap2 vSub) ∧ vopIssues .vmul 0x02 acc2 (laneMap2 vMul) ∧
  vopIssues .vfma 0x03 acc3 (fun t e w => vxOut (ceNum e) w (List.zipWith (fun a bc => vFma a bc.1 bc.2) (lanes32 t (ceNum e) (fVa w))
    (List.zip (lanes32 t (ceNum e) (fVb w)) (lanes32 t (ceNum e) (fVc w))))) ∧
  vopIssues .vdiv 0x04 acc2 (laneMap2 vDiv) ∧ vopIssues .vsqrt 0x05 acc1 (laneMap1 vSqrt) ∧ vopIssues .vrecip 0x06 acc1 (laneMap1 vRecip) ∧
  vopIssues .vrsqrt 0x07 acc1 (laneMap1 vRsqrt) ∧ vopIssues .vexp2 0x08 acc1 (laneMap1 vExp2) ∧ vopIssues .vlog2 0x09 acc1 (laneMap1 vLog2) ∧
  vopIssues .vmin 0x0A acc2 (laneMap2 vMin) ∧ vopIssues .vmax 0x0B acc2 (laneMap2 vMax) ∧ vopIssues .vabs 0x0C acc1 (laneMap1 vAbs) ∧
  vopIssues .vneg 0x0D acc1 (laneMap1 vNeg) ∧
  vopIssues .vsel 0x0F acc3 (fun t e w => vxOut (ceNum e) w (List.zipWith (fun a bc => vSel a bc.1 bc.2)
    (lanes32 t (ceNum e) (fVa w)) (List.zip (lanes32 t (ceNum e) (fVb w)) (lanes32 t (ceNum e) (fVc w))))) ∧
  (∀ c, c < 2 ^ 32 → (num32 c).isNan = false → (vAbs c).code = c % 2 ^ 31 ∧ (vNeg c).code = (c + 2 ^ 31) % 2 ^ 32) ∧
  (∀ a b c, (num32 a).isNan = false → (num32 b).isNan = false → (vSel a b c).code = if Config.selectsA c then a else b) ∧
  (∀ a b c, (vSel a b c).code = a ∨ (vSel a b c).code = b ∨ (vSel a b c).code = nan32) ∧
  (∀ a b c, (num32 a).isNan = true → (num32 b).isNan = true → (vSel a b c).code = nan32) ∧
  (∀ c, (num32 c).isNan = true → (vAbs c).code = nan32 ∧ (vNeg c).code = nan32) ∧
  (∀ a b, (num32 a).isNan = false → (num32 b).isNan = false →
    ((vMin a b).code = a ∧ (vMax a b).code = b) ∨ ((vMin a b).code = b ∧ (vMax a b).code = a)) ∧
  (∀ a b, (num32 a).isNan = true → (num32 b).isNan = false → (vMin a b).code = b ∧ (vMax a b).code = b) ∧
  (∀ a b, (num32 a).isNan = false → (num32 b).isNan = true → (vMin a b).code = a ∧ (vMax a b).code = a) ∧
  (∀ a b, (num32 a).isNan = true → (num32 b).isNan = true → (vMin a b).code = nan32 ∧ (vMax a b).code = nan32)

/-- R152, R154, R155, R156, R278: comparison, conversions, anchored registers, reductions and the generator. Where the rules leave a reading open it rests on
the model's, log entry 8.
Concludes, from its hypotheses on state and operands alone, that exec answers a next state with the effect for: COMPARE, CONVERT_TO_FP32,
CONVERT_FROM_FP32, ACLR, AACC, ALOAD, ALANE, ACVT, ASTORE, FRED, FMACC, RAND. -/
def Obligations.OtherVectorFunctionsHaveTheirEffects : Prop :=
  vopIssues .vcmp 0x0E acc2 (fun t e w => laneMap2 (fun a b =>
    { code := (if cmpHolds (fVFmt w) a b = true then Config.compareTrue else Config.compareFalse) % 2 ^ 32 }) t e w) ∧
  vopIssues .vcvtTo 0x10 (fun w => [vxAccess (fVa w) (256 * narrowBytes (fVFmt w)) false, vxAccess (fVd w) 1024 true]) (fun t e w =>
    vxOut (ceNum e) w ((codesLe (narrowBytes (fVFmt w)) 256
      (devRead t (spaceAddr (ceNum e) 1 (1024 * fVa w)) (256 * narrowBytes (fVFmt w)))).map (fun v => { code := toFp32 (fVFmt w) v }))) ∧
  vopIssues .vcvtFrom 0x11 (fun w => [vxAccess (fVa w) 1024 false, vxAccess (fVd w) (cvtBytes (fVFmt w)) true]) (fun t e w =>
    .writes [(spaceAddr (ceNum e) 1 (1024 * fVd w), (cvtLanes (fVFmt w) (lanes32 t (ceNum e) (fVa w))).1)]
      (b2n (cvtLanes (fVFmt w) (lanes32 t (ceNum e) (fVa w))).2 * 2 ^ ErrBit.VX.VX_OVERFLOW)) ∧
  vopIssues .aclr 0x20 (fun _ => []) (fun _ _ w => .ar (fVAr w) (.clr (fVAnchor w))) ∧
  vopIssues .aacc 0x21 (fun w => [vxAccess (fVa w) 1024 false]) (fun t e w => .ar (fVAr w) (.add (lanes32 t (ceNum e) (fVa w)))) ∧
  vopIssues .aload 0x22 (fun w => [vxAccess (fVa w) (2 * rawRowBytes (fVWidth w)) false]) (fun t e w => .ar (fVAr w) (.rows
    [readRawRow (fVWidth w) ((devRead t (spaceAddr (ceNum e) 1 (1024 * fVa w)) (2 * rawRowBytes (fVWidth w))).take (rawRowBytes (fVWidth w))),
      readRawRow (fVWidth w) ((devRead t (spaceAddr (ceNum e) 1 (1024 * fVa w)) (2 * rawRowBytes (fVWidth w))).drop (rawRowBytes (fVWidth w)))])) ∧
  vopIssues .alane 0x23 (fun _ => []) (fun _ _ w => .ar (fVAr w) .lane) ∧
  vopIssues .acvt 0x24 (fun w => [vxAccess (fVd w) (256 * acvtBytes (fVFmt w)) true]) (fun t e w =>
    .writes [(spaceAddr (ceNum e) 1 (1024 * fVd w), bytesLe (acvtBytes (fVFmt w)) ((arVals t (ceNum e) (fVAr w)).map
      (fun v => convertWin (fVFmt w) v (arAnchor t (ceNum e) (fVAr w)))))]
      (b2n (((arVals t (ceNum e) (fVAr w)).map (fun v => convertWin (fVFmt w) v (arAnchor t (ceNum e) (fVAr w)))).any (infOut (fVFmt w))) *
        2 ^ ErrBit.VX.VX_OVERFLOW)) ∧
  (∀ (s : State) (e : CoreEng) (w : Nat), w = opWord s.block (ceNum e) →
    readyFor s.block (ceNum e) (fun v => isOp opVOP v && fFunc v == 0x25) →
    accessCauses s.block (ceNum e) w (vxAccess (fVd w) (2 * rawRowBytes (fVWidth w)) true) = [] →
    Yields (.astore e) s (fun b => ∃ bytes flags, issuedAs s.block b (ceNum e) 1 (issueAt s.block (ceNum e) + 1)
        (.writes [(spaceAddr (ceNum e) 1 (1024 * fVd w), bytes)] flags) ∧ issueOnly [] s.block b (ceNum e))) ∧
  vopIssues .fred 0x30 acc1 (fun t e w => vxOut (ceNum e) w
    (treeSum 8 ((lanes32 t (ceNum e) (fVa w)).map (fun v => { code := v })) ++ List.replicate 255 { code := 0 })) ∧
  vopIssues .fmacc 0x31 (fun w => vxAccess (fVd w) 1024 false :: acc1 w) (fun t e w =>
    vxOut (ceNum e) w (List.zipWith vAdd (lanes32 t (ceNum e) (fVd w)) (lanes32 t (ceNum e) (fVa w)))) ∧
  vopIssues .rand 0x40 acc2 (fun t e w => laneMap2 (fun a b => { code := genU (rd t Reg.SES.GEN_SEED) a b (fVFmt w % 2) }) t e w)

/-- R104–R109, R97, R249, R427: MOVE, GATHER, IMLOAD and SVCREAD issue, and read what they reach. Where the rules leave a reading open it rests on
the model's, log entries 6, 20 and 22.
Concludes, from its hypotheses on state and operands alone, that exec answers a next state with the effect for: MOVE, GATHER, IMLOAD, SVCREAD. -/
def Obligations.MovesIssueAndReadWhatTheyReach : Prop :=
  (∀ (s : State) (e : CoreEng) (w : Nat), w = opWord s.block (ceNum e) → readyFor s.block (ceNum e) (isOp opMOVE) →
    accessCauses s.block (ceNum e) w (devAccess s.block w (fMvDev w * 256) (256 * fMvLen w) (fMvDir w == 1)) = [] →
    accessCauses s.block (ceNum e) w ⟨fMvSpace w, fMvLocal w, 256 * fMvLen w, fMvDir w == 0, none⟩ = [] →
    Yields (.move e none) s (fun b =>
      issuedSteps s.block b (ceNum e) 1 (issueAt s.block (ceNum e) + fMvLen w) (fMvLen w)
        (.copy (moveSrc s.block (ceNum e) w) (moveDst s.block (ceNum e) w)
          (copied s.block (moveSrc s.block (ceNum e) w) (stepsNow s.block (ceNum e) 1 (fMvLen w)))) ∧
      issueOnly [] (noteCe s.block (moveSrc s.block (ceNum e) w) (256 * fMvLen w)) b (ceNum e))) ∧
  (∀ (s : State) (e : CoreEng) (p : Fin 128) (w src : Nat), w = opWord s.block (ceNum e) → standsAt s.block (ceNum e) (isOp opMOVE) →
    waitOkRace s.block (ceNum e) w (some p.val) = true → fWaitK w = 1 → fWSpace w = 1 →
    src = raceSource s.block (ceNum e) w p (moveSrc s.block (ceNum e) w) →
    accessCauses s.block (ceNum e) w (devAccess s.block w (fMvDev w * 256) (256 * fMvLen w) (fMvDir w == 1)) = [] →
    accessCauses s.block (ceNum e) w ⟨fMvSpace w, fMvLocal w, 256 * fMvLen w, fMvDir w == 0, none⟩ = [] →
    Yields (.move e (some p)) s (fun b =>
      issuedSteps s.block b (ceNum e) 1 (issueAt s.block (ceNum e) + fMvLen w) (fMvLen w)
        (.race src (moveDst s.block (ceNum e) w) (copied s.block src (stepsNow s.block (ceNum e) 1 (fMvLen w))) p) ∧ memKept s.block b)) ∧
  (∀ (s : State) (e : CoreEng) (w k : Nat) (d : GDesc), w = opWord s.block (ceNum e) → readyFor s.block (ceNum e) (isOp opGATHER) →
    d = gatherDesc s.block (ceNum e) w → d.ok = true → k = stepsNow s.block (ceNum e) (ceilDiv d.size 256) (fGaN w) →
    accessCauses s.block (ceNum e) w ⟨1 + fGaISpace w, fGaIAddr w, 4 * fGaN w, false, none⟩ = [] →
    accessCauses s.block (ceNum e) w ⟨fGaSpace w, fGaDest w, d.size * fGaN w, true, none⟩ = [] →
    (gatherFetched s.block (ceNum e) w d).any (fun a => poisoned s.block a d.size) = false →
    Yields (.gather e) s (fun b =>
      issuedSteps s.block b (ceNum e) (ceilDiv d.size 256) (issueAt s.block (ceNum e) + max 1 (ceilDiv d.size 256 * fGaN w)) (fGaN w)
        (.gather d (spaceAddr (ceNum e) (1 + fGaISpace w) (fGaIAddr w)) (spaceAddr (ceNum e) (fGaSpace w) (fGaDest w))
          ((List.range k).flatMap (fun i => (gatherEntry s.block w d
            (devNum s.block (spaceAddr (ceNum e) (1 + fGaISpace w) (fGaIAddr w) + 4 * i) 4)).1))
          ((List.range k).map (fun i => (gatherEntry s.block w d
            (devNum s.block (spaceAddr (ceNum e) (1 + fGaISpace w) (fGaIAddr w) + 4 * i) 4)).2))) ∧
      issueOnly [] (overL (gatherFetched s.block (ceNum e) w d) (fun a t => noteCe t a d.size) s.block) b (ceNum e))) ∧
  (∀ (s : State) (e : CoreEng) (w src : Nat), w = opWord s.block (ceNum e) → readyFor s.block (ceNum e) (isOp opIMLOAD) →
    src = fImDev w * 256 + wptrAdd s.block w → src < 0x80000000000 →
    accessCauses s.block (ceNum e) w (devAccess s.block w (fImDev w * 256) (256 * fImLen w) false) = [] →
    Yields (.imload e) s (fun b =>
      issuedSteps s.block b (ceNum e) 1 (issueAt s.block (ceNum e) + fImLen w) (fImLen w)
        (.imload (engCore e.cl e.core (fImEng w)) (256 * fImOff w) src (copied s.block src (stepsNow s.block (ceNum e) 1 (fImLen w)))) ∧
      issueOnly [] (noteCe s.block src (256 * fImLen w)) b (ceNum e))) ∧
  (∀ (s : State) (e : CoreEng) (w : Nat), w = opWord s.block (ceNum e) → readyFor s.block (ceNum e) (isOp opSVCREAD) →
    accessCauses s.block (ceNum e) w (svcAccess w) = [] →
    Yields (.svcread e) s (fun b => ∃ token, issuedAs s.block b (ceNum e) 1 (issueAt s.block (ceNum e) + 1)
      (.svcread token (spaceAddr (ceNum e) (1 + fSrSpace w) (256 * fSrLocal w)) (32 * fSrLen w))))

/-- R84, R94, R96, R97, R110: the oldest operation completes with its writes, its bank, its done mark; a GATHER that met a bad index
halts. Where the rules leave a reading open it rests on
the model's, log entry 22.
Concludes, from its hypotheses on state and operands alone, that exec answers a next state with the effect for: GATHER_COMPLETE, OP_COMPLETE. -/
def Obligations.OperationsCompleteInOrder : Prop :=
  (∀ (s : State) (e : CoreEng) (x : InFlight), dueWith s.block (ceNum e) x .none →
    Yields (.opComplete e) s (fun b => (eng b (ceNum e)).inflight = (eng s.block (ceNum e)).inflight.tail ∧ memKept s.block b)) ∧
  (∀ (s : State) (e : CoreEng) (x : InFlight) (ws : List (Nat × List Byte)), dueWith s.block (ceNum e) x (.writes ws 0) →
    Yields (.opComplete e) s (fun b => (eng b (ceNum e)).inflight = (eng s.block (ceNum e)).inflight.tail ∧ devAfter s.block ws b)) ∧
  (∀ (s : State) (e : CoreEng) (x : InFlight) (r a : Nat), dueWith s.block (ceNum e) x (.ar r (.clr a)) →
    Yields (.opComplete e) s (fun b => (eng b (ceNum e)).inflight = (eng s.block (ceNum e)).inflight.tail ∧
      arLanes b (ceNum e) r = [] ∧ memKept s.block b)) ∧
  (∀ (s : State) (e : CoreEng) (x : InFlight) (m off src : Nat) (data : List Byte), dueWith s.block (ceNum e) x (.imload m off src data) →
    (eng s.block m).tailBank ≠ some (inactiveBank s.block m) → m ≠ ceNum e →
    Yields (.opComplete e) s (fun b => (eng b (ceNum e)).inflight = (eng s.block (ceNum e)).inflight.tail ∧
      ∀ a, Memory.read b.store.imem a =
        Memory.read (Memory.writeN s.block.store.imem ((2 * m + inactiveBank s.block m) * 65536 + off) data) a)) ∧
  (∀ (s : State) (e : CoreEng) (x : InFlight) (d : Nat), dueWith s.block (ceNum e) x (.sheetEnd d) → e.eng ≠ 7 →
    Yields (.opComplete e) s (fun b => (eng b (ceNum e)).inflight = (eng s.block (ceNum e)).inflight.tail ∧
      (eng b (ceNum e)).doneSheet = true ∧ (eng b (ceNum e)).nextDeadline = d ∧
      bit (rd b (Reg.COR.SHEET_DONE_ENGINES (corPage e.cl e.core))) e.eng = true ∧ memKept s.block b)) ∧
  (∀ (s : State) (e : CoreEng) (x : InFlight) (src dst : Nat) (data : List Byte), dueWith s.block (ceNum e) x (.copy src dst data) →
    Yields (.opComplete e) s (fun b => (eng b (ceNum e)).inflight = (eng s.block (ceNum e)).inflight.tail ∧ devAfter s.block [(dst, data)] b)) ∧
  (∀ (s : State) (e : CoreEng) (x : InFlight) (d : GDesc) (idx dst : Nat) (data : List Byte) (codes : List Nat),
    dueWith s.block (ceNum e) x (.gather d idx dst data codes) → gatherHalt codes = 0 →
    Yields (.gatherComplete e) s (fun b => (eng b (ceNum e)).inflight = (eng s.block (ceNum e)).inflight.tail ∧ devAfter s.block [(dst, data)] b ∧
      (4 ∈ codes → engSticky b (ceNum e) ErrBit.ENG.XTENANT_GATHER = true) ∧
      (1 ∈ codes → engSticky b (ceNum e) ErrBit.ENG.INDEX_RANGE = true))) ∧
  (∀ (s : State) (e : CoreEng) (x : InFlight) (d : GDesc) (idx dst : Nat) (data : List Byte) (codes : List Nat),
    dueWith s.block (ceNum e) x (.gather d idx dst data codes) → gatherHalt codes ≠ 0 → engState s.block (ceNum e) ≠ 4 →
    Yields (.gatherComplete e) s (fun b => (eng b (ceNum e)).inflight = [] ∧ devAfter s.block [(dst, data)] b ∧
      haltedWith b (ceNum e) (gatherHalt codes) (x.addr % 2 ^ 16) (now s.block)))
/-! ### Halts, checks, tables and resets below the module -/

/-- R95, R110–R112, R328: an admitted HALT_REQ halts an engine that runs or waits at its next operation; an engine late at its deadline halts
with DEADLINE and sets HUNG, and a die-level engine that has issued what its program names is left alone. What the microcode of the headbox and the
session engine names is the model's reading, log entry 28.
Concludes, from its hypotheses on state and operands alone, that exec answers a next state with the effect for: DEADLINE_CHECK, DIE_ENGINE_HANG_CHECK,
HALT_REQ. -/
def Obligations.EnginesHaltOnRequestAndWhenLate : Prop :=
  (∀ (s : State) (rq : Requester) (e : EngineId), guardOpen s.block rq = true → pageResponds s.block (engPage (engNum e)) = true →
    (engState s.block (engNum e) = 2 ∨ engState s.block (engNum e) = 3) →
    Yields (.haltReq rq e) s (fun b => haltedWith b (engNum e) rsHOSTHALT (nextOp s.block (engNum e)) (now s.block) ∧
      guardOpen b rq = false ∧ memKept s.block b)) ∧
  (∀ (s : State) (e : CoreEng), inJob s.block = true → engInJob s.block (ceNum e) = true → jobState s.block = 3 →
    checkPoint s.block (ceNum e) ≤ sched s.block → (eng s.block (ceNum e)).doneSheet = false → engState s.block (ceNum e) ≠ 4 →
    Yields (.deadlineCheck e) s (fun b => haltedWith b (ceNum e) rsDEADLINE (nextOp s.block (ceNum e)) (now s.block) ∧
      engSticky b (ceNum e) ErrBit.ENG.HUNG = true ∧ memKept s.block b)) ∧
  (∀ (s : State) (e : EngineId) (tick : Nat), 768 ≤ engNum e → engState s.block (engNum e) ≠ 4 → engState s.block (engNum e) ≠ 0 →
    missed s.block (engNum e) tick = true → tick + rd s.block (Reg.ENG.GRACE (engBlock (engNum e))) ≤ sched s.block →
    Yields (.dieEngineHangCheck e tick) s (fun b => haltedWith b (engNum e) rsDEADLINE (nextOp s.block (engNum e)) (now s.block) ∧
      engSticky b (engNum e) ErrBit.ENG.HUNG = true ∧ memKept s.block b)) ∧
  (∀ (s : State) (e : EngineId) (tick : Nat), missed s.block (engNum e) tick = false →
    Yields (.dieEngineHangCheck e tick) s (fun b => b = s.block))

/-- R87, R98, R113: CHECK publishes the CRC of the inactive bank, and a bank of an engine that runs no slot program is READY when it matches
its reference; a write of a core's token slot outside a job that meets no other slot takes effect.
Concludes, from its hypotheses on state and operands alone, that exec answers a next state with the effect for: CHECK, TOKEN_TABLE_WRITE. -/
def Obligations.BanksAreCheckedAndTokenSlotsWritten : Prop :=
  (∀ (s : State) (e : EngineId) (crc : Nat), pageResponds s.block (engPage (engNum e)) = true →
    crc = crc32c (imemRead s.block ((2 * engNum e + (1 - activeBank s.block (engNum e))) * 65536)
      (min (rd s.block (Reg.ENG.IMEM_LEN (engBlock (engNum e)))) 65536)) →
    Yields (.check e) s (fun b => rd b (Reg.ENG.IMEM_CRC (engBlock (engNum e))) = crc % 2 ^ 32 ∧ memKept s.block b ∧
      (crc = rd s.block (Reg.ENG.IMEM_REF (engBlock (engNum e))) → engIsSlot (engNum e) = false → bankReady b (engNum e) = true) ∧
      (crc ≠ rd s.block (Reg.ENG.IMEM_REF (engBlock (engNum e))) → engSticky b (engNum e) ErrBit.ENG.CRC_MISMATCH = true ∧
        bankReady b (engNum e) = bankReady s.block (engNum e)))) ∧
  (∀ (s : State) (rq : Requester) (cl : Fin 16) (k : Fin 6) (i : Fin 64) (a : BitVec 26) (v : BitVec 32),
    a.toNat = corPage cl k + 0x400 + 8 * i.val → pageResponds s.block (corPage cl k) = true →
    flag s.block (Reg.COR.ENGINE_MASK_IN_JOB (corPage cl k)) = false → regionRefused s.block a.toNat 0 i v.toNat = false →
    takesAll s.block rq (a.toNat) = true →
    Yields (.tokenTableWrite rq a v) s (fun b =>
        rd b (Reg.COR.TOK_REGION_BASE (corPage cl k) i) = bits v.toNat 0 12 ∧
        rd b (Reg.COR.TOK_REGION_SPACE (corPage cl k) i) = bits v.toNat 12 1 ∧
        rd b (Reg.COR.TOK_REGION_LEN (corPage cl k) i) = bits v.toNat 13 13 ∧
        flag b (Reg.COR.TOK_REGION_VALID (corPage cl k) i) = bit v.toNat 31 ∧ memKept s.block b))

/-- What an accepted reset request leaves: every engine of the domain is claimed by its requester, and lies in RESET with nothing in flight
if nothing of the domain was in flight. -/
def resetAsked (s : Block) (d : Dom) (by_ : Nat) (b : Block) : Prop :=
  (∀ n ∈ d.engines, (eng b n).resetBy = by_) ∧ resetting b d = true ∧
    (drained s d = true → ∀ n ∈ d.engines, engState b n = 0 ∧ (eng b n).inflight = [])

/-- R85, R329, R330: an admitted reset request of an engine, a mesh engine, a core or a cluster claims its engines; ten microseconds after it
what is still in flight is abandoned; when its domain has drained, the reset completes and its engines are IDLE, unless a larger domain that
holds them is still in reset. Where the rules leave a reading open it rests on
the model's, log entry 27.
Concludes, from its hypotheses on state and operands alone, that exec answers a next state with the effect for: ENGINE_RESET, CORE_RESET,
CLUSTER_RESET, ME_RESET, RESET_ABANDON_TIMEOUT, RESET_COMPLETE. -/
def Obligations.ResetRequestsClaimTheirDomainAndComplete : Prop :=
  (∀ (s : State) (rq : Requester) (e : CoreEng), guardOpen s.block rq = true → pageResponds s.block (corPage e.cl e.core) = true →
    resetting s.block (.engine (ceNum e)) = false → heldForward s.block (.engine (ceNum e)) = false →
    Yields (.engineReset rq (.core e)) s (fun b => resetAsked s.block (.engine (ceNum e)) (rqCode rq) b ∧ guardOpen b rq = false)) ∧
  (∀ (s : State) (rq : Requester) (cl : Fin 16) (k : Fin 6), guardOpen s.block rq = true → pageResponds s.block (corPage cl k) = true →
    resetting s.block (.core cl k) = false → heldForward s.block (.core cl k) = false →
    Yields (.coreReset rq cl k) s (fun b => resetAsked s.block (.core cl k) (rqCode rq) b ∧ guardOpen b rq = false)) ∧
  (∀ (s : State) (rq : Requester) (cl : Fin 16), guardOpen s.block rq = true → pageResponds s.block (cluPage cl) = true →
    resetting s.block (.cluster cl) = false → heldForward s.block (.cluster cl) = false →
    Yields (.clusterReset rq cl) s (fun b => resetAsked s.block (.cluster cl) (rqCode rq) b ∧ guardOpen b rq = false)) ∧
  (∀ (s : State) (rq : Requester) (cl : Fin 16) (i : Fin 2), guardOpen s.block rq = true → pageResponds s.block (cluPage cl) = true →
    resetting s.block (.engine (engME cl i)) = false →
    Yields (.meReset rq cl i) s (fun b => resetAsked s.block (.engine (engME cl i)) (rqCode rq) b ∧ guardOpen b rq = false)) ∧
  (∀ (s : State) (n : Fin 12), resetting s.block (.engine (engPE n)) = false →
    Yields (.engineReset .mgt (.pe n)) s (fun b => resetAsked s.block (.engine (engPE n)) rqMgt b)) ∧
  (∀ (s : State) (d : Domain), resetting s.block (domOf d) = true → (eng s.block (domOf d).eng).resetBy ≠ 0 →
    (eng s.block (domOf d).eng).resetAt + 10000 ≤ now s.block → drained s.block (domOf d) = false →
    Yields (.resetAbandonTimeout d) s (fun b => ∀ n ∈ (domOf d).engines, engState b n = 0 ∧ (eng b n).inflight = [])) ∧
  (∀ (s : State) (d : Domain), resetting s.block (domOf d) = true → drained s.block (domOf d) = true →
    inLarger s.block (domOf d) = false →
    Yields (.resetComplete d) s (fun b => ∀ n ∈ (domOf d).engines, engState b n = 1 ∧ (eng b n).resetBy = 0)) ∧
  (∀ (s : State) (d : Domain), inLarger s.block (domOf d) = true → Yields (.resetComplete d) s (fun b => b = s.block))

/-! ### Memory tiers -/

/-- R169, R174: in its slot a tier engine reads a slot's worth into the mesh's reach, an uncorrectable block noted there and then, the read is delivered when it is due, and a scheduled
write takes its flits from the mesh.
Concludes, from its hypotheses on state and operands alone, that exec answers a next state with the effect for: TREAD, TREAD_DELIVER, TWRITE. -/
def Obligations.TiersReadAndWriteOnSchedule : Prop :=
  (∀ (s : State) (u : MemUnit) (o : SlotOp) (x a : Nat), tierOp s.block (unitNum u) opTREAD = some (o, x) →
    tierRuns s.block (unitNum u) = true → tierFresh s.block (unitNum u) x = true →
    a = stepAddr (fTAddr o.word) (fTStep o.word) (fTFirst o.word) x → unitOf s.block a = some (unitNum u) →
    inRanges s.block a (slotBytes (unitNum u)) = true →
    Yields (.tread u) s (fun b => memKept s.block b ∧ (eng b (tierEng (unitNum u))).lastTick = sched s.block ∧
      ∃ r : ReadData, (unit b (unitNum u)).reads = (unit s.block (unitNum u)).reads ++ [r] ∧ r.chan = fChan o.word ∧ r.addr = a ∧
        r.delivered = false ∧ sched s.block < r.due ∧ r.data = devReadSafe s.block a (slotBytes (unitNum u)) ∧
        r.bad = badBlocks s.block a (slotBytes (unitNum u) / 64) ∧
        (r.bad ≠ [] → stickyBit b (unitPage (unitNum u)) ErrBit.HBM.UE_PLAN = true))) ∧
  (∀ (s : State) (u : MemUnit) (r : ReadData), (unit s.block (unitNum u)).reads.find? (fun q => !q.delivered) = some r →
    r.due ≤ sched s.block →
    Yields (.treadDeliver u) s (fun b => (unit b (unitNum u)).reads.head? = some { r with delivered := true } ∧ memKept s.block b)) ∧
  (∀ (s : State) (u : MemUnit) (o : SlotOp) (x a : Nat), tierOp s.block (unitNum u) opTWRITE = some (o, x) →
    tierRuns s.block (unitNum u) = true → tierFresh s.block (unitNum u) x = true →
    a = stepAddr (fTAddr o.word) (fTStep o.word) (fTFirst o.word) x → unitOf s.block a = some (unitNum u) →
    inRanges s.block a (slotBytes (unitNum u)) = true →
    (∀ f ∈ s.block.mesh, f.payload.length = 256) →
    Yields (.twrite u) s (fun b => (eng b (tierEng (unitNum u))).lastTick = sched s.block ∧
      ∀ y, (y < a ∨ a + slotBytes (unitNum u) ≤ y) → Memory.read b.store.dev y = Memory.read s.block.store.dev y)) ∧
  (∀ (s : State) (n : Fin 8) (o : SlotOp) (x a : Nat) (f : MeshFlit), tierOp s.block (12 + n) opTWRITE = some (o, x) →
    tierRuns s.block (12 + n) = true → tierFresh s.block (12 + n) x = true →
    a = stepAddr (fTAddr o.word) (fTStep o.word) (fTFirst o.word) x → unitOf s.block a = some (12 + n.val) →
    inRanges s.block a 256 = true → s.block.mesh.find? (fun g => g.node == unitNode (12 + n) && g.chan == fChan o.word &&
      decide (2 * g.slot + unitHop s.block (12 + n) ≤ sched s.block)) = some f → f.hollow = false → f.bad = false →
    Yields (.twrite (.ddr n)) s (fun b => devAfter s.block [(a, f.payload)] b ∧ b.mesh = s.block.mesh.erase f))

/-- R166, R168, R170, R173, R175: refresh windows, the patrol and the move slots use their place in the 1,024-tick period. Where the rules leave a reading open it rests on
the model's, log entry 35.
Concludes, from its hypotheses on state and operands alone, that exec answers a next state with the effect for: REFRESH_WINDOW, PATROL_SCRUB,
MOVE_SLOT. -/
def Obligations.RefreshPatrolAndMovesKeepTheirPlaces : Prop :=
  (∀ (s : State) (u : MemUnit), now s.block % 1024 < 64 →
    Yields (.refreshWindow u) s (fun b => (unit b (unitNum u)).refreshed = now s.block / 1024 + 1 ∧ b.store = s.block.store)) ∧
  (∀ (s : State) (u : MemUnit) (c e : Bool), 64 ≤ now s.block % 1024 → now s.block % 1024 < 69 →
    (unit s.block (unitNum u)).scrubbed ≠ now s.block / 1024 + 1 →
    Yields (.patrolScrub (.unit u) c e) s (fun b => (unit b (unitNum u)).scrubbed = now s.block / 1024 + 1 ∧
      (e = false → s.block.poison = [] → memKept s.block b) ∧
      (unit b (unitNum u)).scrubAt = (if unitSize s.block (unitNum u) ≤ (unit s.block (unitNum u)).scrubAt + slotBytes (unitNum u)
        then 0 else (unit s.block (unitNum u)).scrubAt + slotBytes (unitNum u)))) ∧
  (∀ (s : State) (u : MemUnit) (c e : Bool), 69 ≤ now s.block % 1024 → now s.block % 1024 < 74 →
    (unit s.block (unitNum u)).reserved ≠ now s.block / 1024 + 1 → (unit s.block (unitNum u)).readback = [] →
    Yields (.patrolScrub (.unit u) c e) s (fun b => (unit b (unitNum u)).reserved = now s.block / 1024 + 1 ∧
      (e = false → s.block.poison = [] → memKept s.block b) ∧
      (unit b (unitNum u)).scrubAt = (if unitSize s.block (unitNum u) ≤ (unit s.block (unitNum u)).scrubAt + slotBytes (unitNum u)
        then 0 else (unit s.block (unitNum u)).scrubAt + slotBytes (unitNum u)))) ∧
  (∀ (s : State) (u : MemUnit) (c e : Bool), (now s.block % 1024 < 64 ∨ 74 ≤ now s.block % 1024) →
    (unit s.block (unitNum u)).waited ≠ now s.block / 1024 + 1 →
    Yields (.patrolScrub (.unit u) c e) s (fun b => (unit b (unitNum u)).waited = now s.block / 1024 + 1 ∧ memKept s.block b ∧
      regsKept [(regU (unitNum u) Reg.HBM.RESERVE_WAIT Reg.DDR.RESERVE_WAIT).key] s.block b ∧
      rd b (regU (unitNum u) Reg.HBM.RESERVE_WAIT Reg.DDR.RESERVE_WAIT) =
        min (rd s.block (regU (unitNum u) Reg.HBM.RESERVE_WAIT Reg.DDR.RESERVE_WAIT) + 1)
          (2 ^ (regU (unitNum u) Reg.HBM.RESERVE_WAIT Reg.DDR.RESERVE_WAIT).width - 1))) ∧
  (∀ (s : State) (u : MemUnit) (c e : Bool), (now s.block % 1024 < 64 ∨ 74 ≤ now s.block % 1024) →
    (unit s.block (unitNum u)).waited = now s.block / 1024 + 1 → Yields (.patrolScrub (.unit u) c e) s (fun b => b = s.block)) ∧
  (∀ (s : State) (cl : Fin 16) (k : Fin 13) (c e : Bool),
    Yields (.patrolScrub (.sram cl k) c e) s (fun b => b.store = s.block.store ∧
      Tab.get b.sramScrub 0 (cl * 13 + k) = (if (sramRange cl k).2 ≤ Tab.get s.block.sramScrub 0 (cl * 13 + k) + 32 then 0
        else Tab.get s.block.sramScrub 0 (cl * 13 + k) + 32))) ∧
  (∀ (s : State) (u : MemUnit) (c : MoveClass), slotOpen s.block (unitNum u) (classCode c) = true →
    (unit s.block (unitNum u)).lastSlot ≠ now s.block / 1024 * 190 + (now s.block % 1024 - 74) / 5 + 1 →
    Yields (.moveSlot u c) s (fun b =>
      (unit b (unitNum u)).lastSlot = now s.block / 1024 * 190 + (now s.block % 1024 - 74) / 5 + 1)) ∧
  (∀ (s : State) (u : MemUnit) (m : Move) (r : List Move), slotOpen s.block (unitNum u) 1 = true →
    (unit s.block (unitNum u)).lastSlot ≠ now s.block / 1024 * 190 + (now s.block % 1024 - 74) / 5 + 1 →
    (unit s.block (unitNum u)).kv = m :: r → m.kind = 3 → m.len ≠ 0 →
    Yields (.moveSlot u .kv) s (fun b =>
      (unit b (unitNum u)).kv = { m with len := m.len - min (slotBytes (unitNum u)) m.len } :: r ∧ memKept s.block b))

/-! ### Slot programs and the mesh -/

/-- A slot engine's turn: it runs, scheduled slots run, the output is free, and an operation of its program names it in this slot. -/
def turnOf (s : Block) (n op ch : Nat) (o : SlotOp) : Prop :=
  engState s n = 2 ∧ (eng s n).resetBy = 0 ∧ slotsRun s = true ∧ outFree s n ch = true ∧ txOp s n op ch = some o

/-- The engine issued an operation: its outputs are taken for the slot and NEXT_OP is the operation after it; no other engine changed, and
no memory. -/
def sentOn (s b : Block) (n : Nat) (o : SlotOp) (chs : List Nat) : Prop :=
  (∀ c ∈ chs, outFree b n c = false) ∧ (eng b n).lastTick = sched s ∧ (eng b n).issued = (eng s n).issued + 1 ∧
    nextOp b n = 16 * (o.idx + 1) % 2 ^ (Reg.ENG.NEXT_OP 0).width ∧ (∀ m, m ≠ n → eng b m = eng s m) ∧ memKept s b

/-- A flit left on an output: at a port it waits for this slot's position, on the mesh it is under way. -/
def carries (s b : Block) (n ch : Nat) (hollow empty : Bool) (data : List Byte) : Prop :=
  (engIsPe n = true → portSends s (outPort (n - 768) ch) = true →
    (prt b (outPort (n - 768) ch)).txSlot = some (data, txMeta hollow (activeBank s n) (jobSlot s))) ∧
  (engIsPe n = false → ∀ d, meshDest n ch = some d → ⟨d.1, d.2, jobSlot s, hollow, empty, false, data⟩ ∈ b.mesh)

/-- R189, R190, R200, R205: departures. IDLE sends nothing; SEND sends what its source holds, a hollow flit of zeros where the source does
not have it; FWD sends a held entry, which is then consumed; MCAST sends one flit on every output of its set. Where the rules leave a reading open it rests on
the model's, log entry 16.
Concludes, from its hypotheses on state and operands alone, that exec answers a next state with the effect for: IDLE, SEND, FWD, MCAST. -/
def Obligations.SlotsDepart : Prop :=
  (∀ (s : State) (e : SlotEng) (ch : Fin 128) (o : SlotOp), turnOf s.block (slotNum e) opIDLE ch o →
    Yields (.idle e ch) s (fun b => sentOn s.block b (slotNum e) o [ch] ∧ b.mesh = s.block.mesh ∧
      (engIsPe (slotNum e) = true → (prt b (outPort (slotNum e - 768) ch)).txSlot = none) ∧
      regsKept [(Reg.ENG.NEXT_OP (engBlock (slotNum e))).key, (Reg.SLT.IDLE_SHEET (sltPage (slotNum e - 768))).key] s.block b)) ∧
  (∀ (s : State) (e : SlotEng) (ch : Fin 128) (partner : Option RaceMember) (o : SlotOp) (t : Taken), turnOf s.block (slotNum e) opSEND ch o →
    usable s.block (slotNum e) [ch] = [ch.val] →
    takeSource s.block (slotNum e) o (slotNow s.block) partner = t →
    Yields (.send e ch partner) s (fun b => sentOn s.block b (slotNum e) o [ch] ∧
      carries s.block b (slotNum e) ch t.hollow t.empty (if t.hollow then zeros 256 else t.data) ∧
      (t.hollow = true → engSticky b (slotNum e) ErrBit.PE.HOLLOW_SENT = true))) ∧
  (∀ (s : State) (e : SlotEng) (ch : Fin 128) (o : SlotOp) (h : HeldEntry), turnOf s.block (slotNum e) opFWD ch o →
    usable s.block (slotNum e) [ch] = [ch.val] →
    (eng s.block (slotNum e)).held.find? (fun h => h.input == fInChan o.word && h.slot == jobSlot s.block - fK o.word) = some h →
    Yields (.fwd e ch) s (fun b => sentOn s.block b (slotNum e) o [ch] ∧
      carries s.block b (slotNum e) ch h.hollow false (if h.hollow then zeros 256 else h.payload) ∧
      (eng b (slotNum e)).held = (eng s.block (slotNum e)).held.map
        (fun g => if g.input = h.input ∧ g.slot = h.slot then { g with consumed := true } else g))) ∧
  (∀ (s : State) (e : SlotEng) (o : SlotOp) (c : Nat) (chs : List Nat) (h : HeldEntry),
    outsOf (eng s.block (slotNum e)).outBase (eng s.block (slotNum e)).outMask = c :: chs → turnOf s.block (slotNum e) opMCAST c o →
    usable s.block (slotNum e) (c :: chs) ≠ [] → fKind o.word = 15 →
    (eng s.block (slotNum e)).held.find? (fun h => h.input == fInChan o.word && h.slot == jobSlot s.block - fK o.word) = some h →
    Yields (.mcast e) s (fun b => sentOn s.block b (slotNum e) o (c :: chs) ∧
      ∀ ch ∈ usable s.block (slotNum e) (c :: chs),
        carries s.block b (slotNum e) ch h.hollow false (if h.hollow then zeros 256 else h.payload)))

/-- R188, R190, R200, R202, R208: OUTSET sets the outputs of the next MCAST, REPEAT runs its span again, entries leave a slot engine after
their 2,046 pt, and the tail of the versions before a boundary ends; a side flit enters at its router and moves toward its target over the routers, each with a
credit of the next; at the last one a write is written there, an answer comes back to I/O die W, and what is for a memory unit of a job
waits there for its slot. Where the rules leave a reading open it rests on
the model's, log entry 21.
Concludes, from its hypotheses on state and operands alone, that exec answers a next state with the effect for: OUTSET, REPEAT, HELD_ENTRY_DISCARD,
EPOCH_TAIL_END, SIDE_FLIT. -/
def Obligations.SlotProgramsAndSideFlitsMoveOn : Prop :=
  (∀ (s : State) (e : SlotEng), engState s.block (slotNum e) = 2 → fOpcode (opWord s.block (slotNum e)) = opOUTSET →
    (bankProgram s.block (slotNum e) (activeBank s.block (slotNum e))).find?
      (fun o => fOpcode o.word == opMCAST && o.names (slotNow s.block)) = none →
    Yields (.outset e) s (fun b => (eng b (slotNum e)).outBase = fChan (opWord s.block (slotNum e)) ∧
      (eng b (slotNum e)).outMask = fMask (opWord s.block (slotNum e)) ∧
      nextOp b (slotNum e) = (nextOp s.block (slotNum e) + 16) % 2 ^ (Reg.ENG.NEXT_OP 0).width ∧ memKept s.block b ∧
      regsKept [(Reg.ENG.NEXT_OP (engBlock (slotNum e))).key] s.block b ∧ (∀ m, m ≠ slotNum e → eng b m = eng s.block m))) ∧
  (∀ (s : State) (e : SlotEng) (o : SlotOp), engState s.block (slotNum e) = 2 →
    (bankProgram s.block (slotNum e) (activeBank s.block (slotNum e))).find?
      (fun o => fOpcode o.word == opMCAST && o.names (slotNow s.block)) = some o → fOpcode o.outset = opOUTSET →
    Yields (.outset e) s (fun b => outsOf (eng b (slotNum e)).outBase (eng b (slotNum e)).outMask = o.outs ∧ memKept s.block b)) ∧
  (∀ (s : State) (e : SlotEng), engState s.block (slotNum e) = 2 → fOpcode (opWord s.block (slotNum e)) = opREPEAT →
    Yields (.repeatOp e) s (fun b => memKept s.block b ∧ (∀ m, m ≠ slotNum e → eng b m = eng s.block m) ∧
      regsKept [(Reg.ENG.NEXT_OP (engBlock (slotNum e))).key] s.block b ∧
      (Tab.get (eng s.block (slotNum e)).repeats 0 (nextOp s.block (slotNum e) / 16) < fRuns (opWord s.block (slotNum e)) →
        nextOp b (slotNum e) = nextOp s.block (slotNum e) - 16 * fBack (opWord s.block (slotNum e)) ∧
        Tab.get (eng b (slotNum e)).repeats 0 (nextOp s.block (slotNum e) / 16) =
          Tab.get (eng s.block (slotNum e)).repeats 0 (nextOp s.block (slotNum e) / 16) + 1) ∧
      (fRuns (opWord s.block (slotNum e)) ≤ Tab.get (eng s.block (slotNum e)).repeats 0 (nextOp s.block (slotNum e) / 16) →
        nextOp b (slotNum e) = (nextOp s.block (slotNum e) + 16) % 2 ^ (Reg.ENG.NEXT_OP 0).width ∧
        Tab.get (eng b (slotNum e)).repeats 0 (nextOp s.block (slotNum e) / 16) = 0))) ∧
  (∀ (s : State) (e : SlotEng) (i : Fin 128), Yields (.heldEntryDiscard e i) s (fun b =>
    ({ s.block with engines := b.engines } : Block) = b ∧ (∀ m, m ≠ slotNum e → eng b m = eng s.block m) ∧
    ∀ h, h ∈ (eng b (slotNum e)).held ↔
      h ∈ (eng s.block (slotNum e)).held ∧ (h.input = i.val → sched s.block ≤ 2 * h.slot + 2046))) ∧
  (∀ s : State, (inJob s.block = true → s.block.plan.sheetStart + 2048 ≤ sched s.block) →
    Yields .epochTailEnd s (fun b => (∀ e : SlotEng, (eng b (slotNum e)).tailBank = none) ∧
      (∀ p : Fin 12, rd b (Reg.SLT.SLOT_NOW_TAIL (sltPage p)) = 0) ∧ memKept s.block b ∧
      (∀ f : Field, (∀ p : Fin 12, f.key ≠ (Reg.SLT.SLOT_NOW_TAIL (sltPage p)).key) → rd b f = rd s.block f))) ∧
  (∀ (s : State) (cl : Fin 16) (out : Fin 128) (f : SideFlit) (r : List SideFlit), 4 ≤ out.val → out.val < 14 →
    sideSlot s.block cl out = true → sideHeld s.block cl out = false → sideQueue s.block cl out = f :: r → f.back = false → f.write = true →
    f.tag = 0 → mapped s.block = false ∨ unitOf s.block f.addr = none →
    Yields (.sideFlit cl out) s (fun b => devAfter s.block [(f.addr, f.data)] b ∧ sideQueue b cl out = r ∧
      b.store.regs = s.block.store.regs ∧
      ({ s.block with store := b.store, poison := b.poison, soft := b.soft, side := b.side } : Block) = b)) ∧
  (∀ (s : State) (cl : Fin 16) (out : Fin 128) (f : SideFlit) (r : List SideFlit), 4 ≤ out.val → out.val < 14 →
    sideSlot s.block cl out = true → sideHeld s.block cl out = false → sideQueue s.block cl out = f :: r → f.back = true →
    Yields (.sideFlit cl out) s (fun b => b.sideIn = s.block.sideIn ++ [f] ∧ sideQueue b cl out = r ∧
      ({ s.block with side := b.side, sideIn := b.sideIn } : Block) = b)) ∧
  (∀ (s : State) (cl : Fin 16) (out : Fin 128) (f : SideFlit) (r : List SideFlit) (u : Nat), 4 ≤ out.val → out.val < 14 →
    sideSlot s.block cl out = true → sideHeld s.block cl out = false → sideQueue s.block cl out = f :: r → f.back = false →
    mapped s.block = true → unitOf s.block f.addr = some u →
    Yields (.sideFlit cl out) s (fun b => sideQueue b cl out = r ∧ b.store = s.block.store ∧
      (f.host = true → (unit b u).hostq =
        (unit s.block u).hostq ++ [⟨8, f.addr, f.len, f.tag, f.write, f.data, [], f.len⟩]) ∧
      (f.host = false → (unit b u).readback = (unit s.block u).readback ++ [f]))) ∧
  (∀ (s : State) (cl : Fin 16) (out : Fin 4) (f : SideFlit) (c o : Nat) (r : List SideFlit),
    sideSlot s.block cl out = true → sideQueue s.block cl out = f :: r → c = nextRouter cl out → o = sideOut c (f.target s.block) →
    (sideQueue s.block c o).length < 32 →
    Yields (.sideFlit cl (Fin.castLE (by decide) out)) s (fun b =>
      sideQueue b c o = sideQueue (setSide s.block cl out r) c o ++ [f] ∧
      ({ s.block with side := b.side } : Block) = b)) ∧
  (∀ (s : State) (cl : Fin 16) (f : SideFlit) (o : Nat) (r : List SideFlit),
    sideSlot s.block cl 14 = true → sideQueue s.block cl 14 = f :: r → o = sideOut cl (f.target s.block) →
    (sideQueue s.block cl o).length < 32 →
    Yields (.sideFlit cl 14) s (fun b =>
      sideQueue b cl o = sideQueue (setSide s.block cl 14 r) cl o ++ [f] ∧ ({ s.block with side := b.side } : Block) = b))

/-- R191, R192, R203: a scheduled flit of the job, expected and not late, enters the couch; one of another job is dropped at the fence, and
one that no operation expects is stray.
Concludes, from its hypotheses on state and operands alone, that exec answers a next state with the effect for: SCHEDULED_FLIT_ARRIVAL. -/
def Obligations.ScheduledFlitsArrive : Prop :=
  (∀ (s : State) (p : Fin 12) (h : BitVec 128) (d : List Byte) (o : SlotOp) (bank x js : Nat), d.length = 256 → bits h.toNat 0 2 = 1 →
    rd s.block (Reg.PRT.JOB_TAG_TAG (prtPage p)) ≠ 0 → bits h.toNat 56 16 = rd s.block (Reg.PRT.JOB_TAG_TAG (prtPage p)) →
    js = slotOfHeader s.block (bits h.toNat 44 12) → rxOp s.block (engPE p) 0 js (fun _ => true) = some (o, bank, x) →
    bank = bits h.toNat 41 1 → released s.block (2 * js + releaseDelay s.block (engPE p) 0) = false →
    Yields (.scheduledFlitArrival p h d) s (fun b =>
      (∃ e, (js % 1024, e) ∈ (prt b p).couch ∧ e.slot = js ∧ e.payload = d ∧ e.hollow = bit h.toNat 42 ∧ e.bad = false ∧
        e.time = sched s.block) ∧
      rd b (Reg.PRT.JOB_TAG_NEAR_TAG (prtPage p)) = bits h.toNat 56 16 ∧ flag b (Reg.PRT.PORT_STATUS_FENCED (prtPage p)) = false ∧
      memKept s.block b ∧ regsKept [(Reg.PRT.JOB_TAG_NEAR_TAG (prtPage p)).key, (Reg.PRT.PORT_STATUS_FENCED (prtPage p)).key] s.block b)) ∧
  (∀ (s : State) (p : Fin 12) (h : BitVec 128) (d : List Byte), d.length = 256 → bits h.toNat 0 2 = 1 →
    rd s.block (Reg.PRT.JOB_TAG_TAG (prtPage p)) = 0 ∨ bits h.toNat 56 16 ≠ rd s.block (Reg.PRT.JOB_TAG_TAG (prtPage p)) →
    Yields (.scheduledFlitArrival p h d) s (fun b => (prt b p).couch = (prt s.block p).couch ∧
      rd b (Reg.PRT.FENCE_DROPS (prtPage p)) =
        min (rd s.block (Reg.PRT.FENCE_DROPS (prtPage p)) + 1) (2 ^ (Reg.PRT.FENCE_DROPS 0).width - 1) ∧
      stickyBit b (prtPage p) ErrBit.PRT.FENCE_DROP = true ∧ memKept s.block b)) ∧
  (∀ (s : State) (p : Fin 12) (h : BitVec 128) (d : List Byte), d.length = 256 → bits h.toNat 0 2 = 1 →
    rd s.block (Reg.PRT.JOB_TAG_TAG (prtPage p)) ≠ 0 → bits h.toNat 56 16 = rd s.block (Reg.PRT.JOB_TAG_TAG (prtPage p)) →
    rxOp s.block (engPE p) 0 (slotOfHeader s.block (bits h.toNat 44 12)) (fun _ => true) = none →
    Yields (.scheduledFlitArrival p h d) s (fun b => (prt b p).couch = (prt s.block p).couch ∧
      rd b (Reg.PRT.STRAY_DROPS (prtPage p)) =
        min (rd s.block (Reg.PRT.STRAY_DROPS (prtPage p)) + 1) (2 ^ (Reg.PRT.STRAY_DROPS 0).width - 1) ∧
      stickyBit b (prtPage p) ErrBit.PRT.STRAY = true ∧ memKept s.block b))

/-- A receive operation's release tick: a running slot engine of a job expects an arrival of this slot on an input. -/
def releasesNow (s : Block) (n input op js : Nat) (o : SlotOp) (bank x : Nat) : Prop :=
  engState s n = 2 ∧ inJob s = true ∧ s.plan.inQuantum = false ∧ releaseDelay s n input ≤ sched s ∧ js = (sched s - releaseDelay s n input) / 2 ∧
    Tab.get (eng s n).recvAt 0 input ≠ js + 1 ∧ rxOp s n input js (· == op) = some (o, bank, x)

/-- The flit that a receive operation finds: in a port's couch, or off the mesh. -/
def foundAt (s : Block) (n input js : Nat) (d : List Byte) : Prop :=
  (engIsPe n = true → ∃ c, (prt s (n - 768)).couch.find? (fun c => c.1 == js % 1024 && c.2.slot == js) = some c ∧ c.2.bad = false ∧
    c.2.hollow = false ∧ c.2.payload = d) ∧
  (engIsPe n = false → ∃ f, s.mesh.find? (fun f => f.node == meshNode n && f.chan == input && f.slot == js) = some f ∧ f.bad = false ∧
    f.hollow = false ∧ f.empty = false ∧ f.payload = d)

/-- R91, R190, R192, R207: at its release a HOLD keeps the flit, and a DELIVER writes it where it names and posts its slot, what is for a stopped region being held at its crossing (R72); where no flit
came, HOLD keeps a hollow entry of zeros and the port counts the late slot. Where the rules leave a reading open it rests on
the model's, log entry 16.
Concludes, from its hypotheses on state and operands alone, that exec answers a next state with the effect for: DELIVER, HOLD. -/
def Obligations.ReleasesHoldOrDeliver : Prop :=
  (∀ (s : State) (e : SlotEng) (i : Fin 128) (o : SlotOp) (js bank x : Nat) (d : List Byte),
    releasesNow s.block (slotNum e) i opHOLD js o bank x → foundAt s.block (slotNum e) i js d →
    Yields (.hold e i) s (fun b => (eng b (slotNum e)).held = (eng s.block (slotNum e)).held ++ [⟨i, js, false, false, d⟩] ∧
      (eng b (slotNum e)).issued = (eng s.block (slotNum e)).issued + 1 ∧ memKept s.block b ∧
      (∀ m, m ≠ slotNum e → eng b m = eng s.block m))) ∧
  (∀ (s : State) (p : Fin 12) (i : Fin 128) (o : SlotOp) (js bank x : Nat), releasesNow s.block (engPE p) i opHOLD js o bank x →
    (prt s.block p).couch.find? (fun c => c.1 == js % 1024 && c.2.slot == js) = none →
    Yields (.hold (.pe p) i) s (fun b => (eng b (engPE p)).held = (eng s.block (engPE p)).held ++ [⟨i, js, true, false, zeros 256⟩] ∧
      rd b (Reg.PRT.LATE_COUNT (prtPage p)) =
        min (rd s.block (Reg.PRT.LATE_COUNT (prtPage p)) + 1) (2 ^ (Reg.PRT.LATE_COUNT 0).width - 1) ∧
      stickyBit b (prtPage p) ErrBit.PRT.LATE_SLOT = true ∧ memKept s.block b)) ∧
  (∀ (s : State) (e : SlotEng) (i : Fin 128) (o : SlotOp) (js bank x a : Nat) (d : List Byte),
    releasesNow s.block (slotNum e) i opDELIVER js o bank x → foundAt s.block (slotNum e) i js d →
    a = stepAddr (fSAddr o.word) (fStep o.word) (fFirst o.word) x → fKind o.word = 2 ∨ fKind o.word = 3 →
    (unitOf s.block a).isSome = true → devIn s.block a 256 = true → inRanges s.block a 256 = true →
    Yields (.deliver e i) s (fun b => devAfter s.block [(a, d)] b ∧ (eng b (slotNum e)).held = (eng s.block (slotNum e)).held ∧
      (∀ m, m ≠ slotNum e → eng b m = eng s.block m))) ∧
  (∀ (s : State) (e : SlotEng) (i : Fin 128) (o : SlotOp) (js bank x a c k pg : Nat) (d : List Byte),
    releasesNow s.block (slotNum e) i opDELIVER js o bank x → foundAt s.block (slotNum e) i js d →
    a = sramAddr (stepAddr (fSAddr o.word) (fStep o.word) (fFirst o.word) x) → fKind o.word < 2 →
    kindFits s.block (fKind o.word) a = true → sramOwner s.block a = some (c, k) → pg = tokPageAt c k (tokTable o.word) →
    slotUsable s.block pg (tokTable o.word) (fTok o.word) = true → flag s.block (Reg.CLK.FREQ_NOW_STOPPED (clkPage c)) = false →
    Yields (.deliver e i) s (fun b => devAfter s.block [(a, d)] b ∧
      rd b (fPosted pg (tokTable o.word) (fTok o.word)) = (rd s.block (fPosted pg (tokTable o.word) (fTok o.word)) + 1) % 2 ^ 16 ∧
      (tokFull s.block pg (tokTable o.word) (fTok o.word) = true → stickyBit b pg ErrBit.COR.DELIVERY_OVERLAP = true))) ∧
  (∀ (s : State) (e : SlotEng) (i : Fin 128) (o : SlotOp) (js bank x a c k : Nat) (d : List Byte),
    releasesNow s.block (slotNum e) i opDELIVER js o bank x → foundAt s.block (slotNum e) i js d →
    a = sramAddr (stepAddr (fSAddr o.word) (fStep o.word) (fFirst o.word) x) → fKind o.word < 2 →
    kindFits s.block (fKind o.word) a = true → sramOwner s.block a = some (c, k) → flag s.block (Reg.CLK.FREQ_NOW_STOPPED (clkPage c)) = true →
    Yields (.deliver e i) s (fun b => memKept s.block b ∧
      ∃ x ∈ (clus b c).inbound, x.addr = a ∧ x.data = d))
/-! ### The link layer -/

/-- What a link leaves when it goes down: no lanes, nothing to replay, nothing outstanding, no change pending. -/
def linkGone (b : Block) (p st : Nat) : Prop :=
  linkUp b p = false ∧ trainState b p = st ∧ txMask b p = 0 ∧ rxMask b p = 0 ∧ txWidth b p = 0 ∧ rxWidth b p = 0 ∧
    flag b (Reg.PRT.PORT_STATUS_TRAINED (prtPage p)) = false ∧ (prt b p).replayBuf = [] ∧ (prt b p).replayQ = [] ∧
    (prt b p).missing = [] ∧ (prt b p).outstanding = [] ∧ (prt b p).txPend = none ∧ (prt b p).rxPend = none

/-- R227: training goes state by state, ends in ACTIVE with fresh sequence numbers and the neighbour known, and starts over when a state
exceeds its limit. Where the rules leave a reading open it rests on
the model's, log entry 31.
Concludes, from its hypotheses on state and operands alone, that exec answers a next state with the effect for: SIGNAL_DETECTED, EQUALISE_COMPLETE,
ALIGN_COMPLETE, IDENTIFY_COMPLETE, TRAIN_TIMEOUT. -/
def Obligations.LinksTrain : Prop :=
  (∀ (s : State) (p : Fin 12), trainState s.block p = 1 →
    Yields (.signalDetected p) s (fun b => trainState b p = 2 ∧ (prt b p).trainSince = now s.block ∧ memKept s.block b ∧
      regsKept [(Reg.LNK.LINK_STATUS_TRAIN_STATE (lnkPage p)).key] s.block b)) ∧
  (∀ (s : State) (p : Fin 12) (tx rx : BitVec 8), trainState s.block p = 2 →
    Yields (.equaliseComplete p tx rx) s (fun b => trainState b p = 3 ∧ (prt b p).eqTx = tx.toNat ∧ (prt b p).eqRx = rx.toNat ∧
      (prt b p).trainSince = now s.block ∧ memKept s.block b ∧
      regsKept [(Reg.LNK.LINK_STATUS_TRAIN_STATE (lnkPage p)).key] s.block b)) ∧
  (∀ (s : State) (p : Fin 12) (m : BitVec 8), trainState s.block p = 3 → (prt s.block p).eqRx &&& m.toNat ≠ 0 →
    Yields (.alignComplete p m) s (fun b => trainState b p = 4 ∧ (prt b p).eqRx = (prt s.block p).eqRx &&& m.toNat ∧
      (prt b p).trainSince = now s.block ∧ memKept s.block b ∧
      regsKept [(Reg.LNK.LINK_STATUS_TRAIN_STATE (lnkPage p)).key] s.block b)) ∧
  (∀ (s : State) (p pp : Fin 12) (x y z : Fin 64) (rx ry rz : Fin 128) (mt mr : BitVec 8), trainState s.block p = 4 →
    (prt s.block p).eqTx &&& mr.toNat ≠ 0 → (prt s.block p).eqRx &&& mt.toNat ≠ 0 →
    Yields (.identifyComplete p x y z rx ry rz pp mt mr 1) s (fun b => linkUp b p = true ∧ trainState b p = 5 ∧
      flag b (Reg.PRT.PORT_STATUS_TRAINED (prtPage p)) = true ∧ txMask b p = ((prt s.block p).eqTx &&& mr.toNat) % 256 ∧
      rxMask b p = ((prt s.block p).eqRx &&& mt.toNat) % 256 ∧ (prt b p).peerRings = [rx.val, ry.val, rz.val] ∧ rd b (Reg.LNK.TX_SEQ_NEXT (lnkPage p)) = 0 ∧
      rd b (Reg.LNK.TX_SEQ_ACKED (lnkPage p)) = 0xFFF ∧ rd b (Reg.LNK.RX_SEQ_ACK_SENT (lnkPage p)) = 0xFFF ∧
      (prt b p).predicted = 0 ∧ (prt b p).replayBuf = [] ∧ flag b (Reg.PRT.NEIGHBOUR_VALID (prtPage p)) = true ∧
      rd b (Reg.PRT.NEIGHBOUR_X (prtPage p)) = x ∧ rd b (Reg.PRT.NEIGHBOUR_Y (prtPage p)) = y ∧
      rd b (Reg.PRT.NEIGHBOUR_Z (prtPage p)) = z ∧ rd b (Reg.PRT.NEIGHBOUR_PORT (prtPage p)) = pp ∧ memKept s.block b)) ∧
  (∀ (s : State) (p : Fin 12) (l : Nat), trainLimit (trainState s.block p) = some l → (prt s.block p).trainSince + l ≤ now s.block →
    Yields (.trainTimeout p) s (fun b => trainState b p = 1 ∧ (prt b p).trainSince = now s.block ∧
      rd b (Reg.LNK.TRAIN_FAILS (lnkPage p)) = min (rd s.block (Reg.LNK.TRAIN_FAILS (lnkPage p)) + 1) (2 ^ 32 - 1) ∧
      stickyBit b (lnkPage p) ErrBit.LNK.TRAIN_FAIL = true ∧ memKept s.block b))

/-- R226, R227, R230, R234, R433: a link goes down after its timeout without an intact flit, at the peer's LINK_OFF, at an admitted RETRAIN_LINK or when
ENABLE is cleared, which also takes the cable's supply away; a lane message of which no copy checks changes nothing. Where the rules leave a reading open it rests on
the model's, log entry 31.
Concludes, from its hypotheses on state and operands alone, that exec answers a next state with the effect for: LINK_DOWN_TIMEOUT, RETRAIN_LINK,
LINK_OFF, ENABLE_WRITE. -/
def Obligations.LinksGoDown : Prop :=
  (∀ (s : State) (p : Fin 12), linkUp s.block p = true →
    (prt s.block p).lastGood + 1000 * rd s.block (Reg.LNK.DOWN_TIMEOUT (lnkPage p)) ≤ now s.block →
    Yields (.linkDownTimeout p) s (fun b => linkGone b p (if flag s.block (Reg.LNK.CTRL_AUTO_RETRAIN (lnkPage p)) then 1 else 0) ∧
      rd b (Reg.LNK.DOWN_COUNT (lnkPage p)) = min (rd s.block (Reg.LNK.DOWN_COUNT (lnkPage p)) + 1) (2 ^ 32 - 1) ∧
      rd b (Reg.LNK.LAST_DOWN (lnkPage p)) = now s.block ∧ stickyBit b (lnkPage p) ErrBit.LNK.LINK_DOWN = true ∧ memKept s.block b)) ∧
  (∀ (s : State) (p : Fin 12) (copies : List (BitVec 40)) (c : BitVec 40), linkUp s.block p = true →
    goodCopy copies opLINKOFF = some c →
    Yields (.linkOff p copies) s (fun b => linkGone b p (if flag s.block (Reg.LNK.CTRL_AUTO_RETRAIN (lnkPage p)) then 1 else 0) ∧
      rd b (Reg.LNK.LAST_DOWN (lnkPage p)) = now s.block ∧ stickyBit b (lnkPage p) ErrBit.LNK.LINK_DOWN = true ∧ memKept s.block b)) ∧
  (∀ (s : State) (p : Fin 12) (copies : List (BitVec 40)), goodCopy copies opLINKOFF = none →
    Yields (.linkOff p copies) s (fun b => b = s.block)) ∧
  (∀ (s : State) (rq : Requester) (p : Fin 12), linkUp s.block p = true → guardOpen s.block rq = true →
    pageResponds s.block (lnkPage p) = true →
    Yields (.retrainLink rq p) s (fun b => linkGone b p (if flag s.block (Reg.LNK.CTRL_AUTO_RETRAIN (lnkPage p)) then 1 else 0) ∧
      guardOpen b rq = false ∧ rd b (Reg.LNK.LAST_DOWN (lnkPage p)) = now s.block ∧ memKept s.block b)) ∧
  (∀ (s : State) (rq : Requester) (p : Fin 12) (v : BitVec 32), linkUp s.block p = true → guardOpen s.block rq = true →
    pageResponds s.block (lnkPage p) = true → bit v.toNat 0 = false →
    takesAll s.block rq (lnkPage p + 0x48) = true →
    Yields (.enableWrite rq p v) s (fun b => linkGone b p 0 ∧ cableSupply b p = false ∧
      (prt b p).laneTx = (prt s.block p).laneTx ++ [laneMsg opLINKOFF 0 0] ∧ guardOpen b rq = false ∧ memKept s.block b)) ∧
  (∀ (s : State) (rq : Requester) (p : Fin 12) (v : BitVec 32), trainState s.block p = 0 → guardOpen s.block rq = true →
    pageResponds s.block (lnkPage p) = true → bit v.toNat 0 = true → flag s.block Reg.PCI.PCI_STATUS_MODULE_RESET = false →
    takesAll s.block rq (lnkPage p + 0x48) = true →
    Yields (.enableWrite rq p v) s (fun b => trainState b p = 1 ∧ cableSupply b p = true ∧
      guardOpen b rq = false ∧ memKept s.block b))

/-- A flit of a type left with this payload: its header gives the last number taken in order, and the CRC covers what was sent. -/
def sentFlit (s b : Block) (p type : Nat) (d : List Byte) : Prop :=
  ∃ h, (prt b p).txLast = natLe 16 h ++ slice d 0 256 ++ natLe 8 (crc64 (natLe 16 h ++ slice d 0 256)) ∧ bits h 0 2 = type ∧
    bits h 4 12 = rd s (Reg.LNK.TX_SEQ_NEXT (lnkPage p)) ∧ bit h 2 = true ∧ bits h 16 12 = rd s (Reg.LNK.RX_SEQ_ACK_SENT (lnkPage p))

/-- R193, R218, R220, R223, R225: as its wire position begins, a slot position carries the slot's flit, or a blank, under the next sequence number, kept for replay; a replay
position, and at five lanes or fewer any, carries the oldest flit asked for again; with 768 flits outstanding nothing new leaves. Where the rules leave a reading open it rests on
the model's, log entry 31.
Concludes, from its hypotheses on state and operands alone, that exec answers a next state with the effect for: FLIT_TRANSMIT. -/
def Obligations.FlitsAreNumberedAndReplayed : Prop :=
  (∀ (s : State) (p : Fin 12) (pos : Fin 16) (d : List Byte) (m : Nat), linkUp s.block p = true → positionNow s.block p pos = true →
    (6 ≤ txWidth s.block p → (positionSlot (txWidth s.block p) pos).isSome = true) →
    (txWidth s.block p < 6 → (prt s.block p).replayQ = []) → (prt s.block p).replayBuf.length < 768 → inDeckleSlot s.block = false → (prt s.block p).txSlot = some (d, m) →
    Yields (.flitTransmit p pos) s (fun b => sentFlit s.block b p 1 d ∧ (prt b p).txSlot = none ∧
      rd b (Reg.LNK.TX_SEQ_NEXT (lnkPage p)) = (rd s.block (Reg.LNK.TX_SEQ_NEXT (lnkPage p)) + 1) % 4096 ∧
      (∃ h, (prt b p).replayBuf = (prt s.block p).replayBuf ++
        [(rd s.block (Reg.LNK.TX_SEQ_NEXT (lnkPage p)), natLe 16 h ++ slice d 0 256)]) ∧ memKept s.block b)) ∧
  (∀ (s : State) (p : Fin 12) (pos : Fin 16), linkUp s.block p = true → 6 ≤ txWidth s.block p → positionNow s.block p pos = true →
    (positionSlot (txWidth s.block p) pos).isSome = true → (prt s.block p).replayBuf.length < 768 →
    inDeckleSlot s.block = false → (prt s.block p).txSlot = none → serviceHere s.block p = false →
    Yields (.flitTransmit p pos) s (fun b => sentFlit s.block b p 0 (zeros 256) ∧
      rd b (Reg.LNK.TX_SEQ_NEXT (lnkPage p)) = (rd s.block (Reg.LNK.TX_SEQ_NEXT (lnkPage p)) + 1) % 4096 ∧ memKept s.block b)) ∧
  (∀ (s : State) (p : Fin 12) (pos : Fin 16) (q n : Nat) (r : List Nat) (d : List Byte), linkUp s.block p = true →
    positionNow s.block p pos = true → txWidth s.block p < 6 ∨ positionSlot (txWidth s.block p) pos = none →
    (prt s.block p).replayQ = q :: r → (prt s.block p).replayBuf.find? (fun e => e.1 == q) = some (n, d) →
    Yields (.flitTransmit p pos) s (fun b => (prt b p).replayQ = r ∧ (prt b p).replayBuf = (prt s.block p).replayBuf ∧
      (∃ h, (prt b p).txLast = natLe 16 h ++ slice (d.drop 16) 0 256 ++ natLe 8 (crc64 (natLe 16 h ++ slice (d.drop 16) 0 256))) ∧
      rd b (Reg.LNK.REPLAYS_SENT (lnkPage p)) = min (rd s.block (Reg.LNK.REPLAYS_SENT (lnkPage p)) + 1) (2 ^ 32 - 1) ∧
      rd b (Reg.LNK.TX_SEQ_NEXT (lnkPage p)) = rd s.block (Reg.LNK.TX_SEQ_NEXT (lnkPage p)) ∧ memKept s.block b)) ∧
  (∀ (s : State) (p : Fin 12) (pos : Fin 16), linkUp s.block p = true → positionNow s.block p pos = true →
    (6 ≤ txWidth s.block p → (positionSlot (txWidth s.block p) pos).isSome = true) →
    (txWidth s.block p < 6 → (prt s.block p).replayQ = []) → 768 ≤ (prt s.block p).replayBuf.length →
    Yields (.flitTransmit p pos) s (fun b => (prt b p).txSlot = none ∧ (prt b p).replayBuf = (prt s.block p).replayBuf ∧
      stickyBit b (lnkPage p) ErrBit.LNK.REPLAY_FULL = true ∧
      rd b (Reg.LNK.TX_SEQ_NEXT (lnkPage p)) = rd s.block (Reg.LNK.TX_SEQ_NEXT (lnkPage p)) ∧ memKept s.block b))

/-- R216, R221, R222, R223: a lost flit of a slot position is asked for again; an intact one is noted, and its number, where it is the next
in order, is acknowledged; a number still missing after a retry cycle is asked for again. Where the rules leave a reading open it rests on
the model's, log entry 31.
Concludes, from its hypotheses on state and operands alone, that exec answers a next state with the effect for: FLIT_RECEIVE, NAK_REPEAT. -/
def Obligations.FlitsAreTakenInOrder : Prop :=
  (∀ (s : State) (p : Fin 12), linkUp s.block p = true → 6 ≤ rxWidth s.block p →
    seqSub (prt s.block p).predicted (rd s.block (Reg.LNK.RX_SEQ_ACK_SENT (lnkPage p))) ≤ 768 →
    Yields (.flitReceive p true .uncorrectable) s (fun b =>
      rd b (Reg.LNK.CRC_ERRORS (lnkPage p)) = min (rd s.block (Reg.LNK.CRC_ERRORS (lnkPage p)) + 1) (2 ^ 32 - 1) ∧
      (prt b p).predicted = ((prt s.block p).predicted + 1) % 4096 ∧
      (prt b p).missing.any (fun m => m.1 == (prt s.block p).predicted) = true ∧ memKept s.block b)) ∧
  (∀ (s : State) (p : Fin 12) (slotPos : Bool) (f : List Byte) (h : Nat), linkUp s.block p = true → f.length = 280 →
    h = leNat (f.take 16) → crc64 (f.take 272) = fieldLe f 272 8 → bits h 120 4 = 1 → bit h 2 = false →
    Yields (.flitReceive p slotPos (.bytes f)) s (fun b => (prt b p).lastGood = now s.block ∧
      rd b (Reg.LNK.XOFF_STATE_REMOTE (lnkPage p)) = bits h 76 8 ∧ rd b (Reg.PRT.JOB_TAG_NEAR_TAG (prtPage p)) = bits h 56 16 ∧
      (seqSub (bits h 16 12) (rd s.block (Reg.LNK.TX_SEQ_ACKED (lnkPage p))) ≤
          seqSub ((rd s.block (Reg.LNK.TX_SEQ_NEXT (lnkPage p)) + 4095) % 4096) (rd s.block (Reg.LNK.TX_SEQ_ACKED (lnkPage p))) →
        rd b (Reg.LNK.TX_SEQ_ACKED (lnkPage p)) = bits h 16 12) ∧ memKept s.block b)) ∧
  (∀ (s : State) (p : Fin 12) (f : List Byte) (h q : Nat), linkUp s.block p = true → 6 ≤ rxWidth s.block p → f.length = 280 →
    h = leNat (f.take 16) → crc64 (f.take 272) = fieldLe f 272 8 → bits h 120 4 = 1 → bit h 2 = true → bits h 0 2 = 0 →
    q = bits h 4 12 → q = (rd s.block (Reg.LNK.RX_SEQ_ACK_SENT (lnkPage p)) + 1) % 4096 → (prt s.block p).got = [] →
    Yields (.flitReceive p true (.bytes f)) s (fun b => rd b (Reg.LNK.RX_SEQ_ACK_SENT (lnkPage p)) = q ∧ (prt b p).got = [] ∧
      (prt b p).predicted = (q + 1) % 4096 ∧ (prt b p).missing.any (fun m => m.1 == q) = false ∧ memKept s.block b)) ∧
  (∀ (s : State) (p : Fin 12) (seq : Fin 4096) (t n : Nat), linkUp s.block p = true →
    (prt s.block p).missing.find? (fun m => m.1 == seq.val) = some (seq.val, t, n) →
    t + retryCycle (flightOf s.block p) (rxWidth s.block p) ≤ now s.block →
    Yields (.nakRepeat p seq) s (fun b => (prt b p).nakQ.contains seq.val = true ∧ (prt b p).missing = (prt s.block p).missing ∧
      ({ s.block with ports := b.ports } : Block) = b))

/-- R229, R230, R231: by a lane message of which a copy checks, lanes are asked away or back, the sender announces the switch point, the receiver acknowledges it, and each side
switches at the boundary after it. Where the rules leave a reading open it rests on
the model's, log entry 31.
Concludes, from its hypotheses on state and operands alone, that exec answers a next state with the effect for: DROP_REQ, ADD_REQ, CHANGE, CHANGE_ACK,
LANE_REQUEST_RESEND, WIDTH_SWITCH. -/
def Obligations.WidthChangesAreAgreed : Prop :=
  (∀ (s : State) (p : Fin 12) (copies : List (BitVec 40)) (c : BitVec 40) (m : Nat), linkUp s.block p = true →
    goodCopy copies opDROP = some c → m = bits c.toNat 4 8 → (∀ x, (prt s.block p).txPend = some x → x.acked = false) → m ≠ 0 →
    m ≠ txMask s.block p → txMask s.block p &&& m = m →
    Yields (.dropReq p copies) s (fun b => (prt b p).txPend = some ⟨m, switchPoint s.block p, false⟩ ∧
      (prt b p).laneTx = (prt s.block p).laneTx ++ [laneMsg opCHANGE m (switchPoint s.block p)] ∧
      txMask b p = txMask s.block p ∧ memKept s.block b)) ∧
  (∀ (s : State) (p : Fin 12) (copies : List (BitVec 40)) (c : BitVec 40) (m : Nat), linkUp s.block p = true →
    goodCopy copies opADD = some c → m = bits c.toNat 4 8 → (∀ x, (prt s.block p).txPend = some x → x.acked = false) → m ≠ 0 →
    m ≠ txMask s.block p → txMask s.block p &&& m = txMask s.block p →
    Yields (.addReq p copies) s (fun b => (prt b p).txPend = some ⟨m, switchPoint s.block p, false⟩ ∧
      (prt b p).laneTx = (prt s.block p).laneTx ++ [laneMsg opCHANGE m (switchPoint s.block p)] ∧
      txMask b p = txMask s.block p ∧ memKept s.block b)) ∧
  (∀ (s : State) (p : Fin 12) (copies : List (BitVec 40)) (c : BitVec 40) (m q : Nat), linkUp s.block p = true →
    goodCopy copies opCHANGE = some c → m = bits c.toNat 4 8 → q = bits c.toNat 12 12 → m ≠ 0 →
    Yields (.change p copies) s (fun b => (prt b p).rxPend = some ⟨m, q, true⟩ ∧
      (∀ op t, (prt s.block p).reqPend = some (op, m, t) → (prt b p).reqPend = none) ∧
      (prt b p).laneTx = (prt s.block p).laneTx ++ [laneMsg opCHANGEACK m q] ∧ rxMask b p = rxMask s.block p ∧
      memKept s.block b)) ∧
  (∀ (s : State) (p : Fin 12) (copies : List (BitVec 40)) (c : BitVec 40) (m q early : Nat), linkUp s.block p = true →
    goodCopy copies opCHANGEACK = some c → m = bits c.toNat 4 8 → q = bits c.toNat 12 12 →
    (prt s.block p).txPend = some ⟨m, q, false⟩ →
    Yields (.changeAck p copies early) s (fun b => memKept s.block b ∧
      (16 ≤ early → (prt b p).txPend = some ⟨m, q, true⟩ ∧ b.store = s.block.store) ∧
      (early < 16 → (prt b p).txPend = some ⟨m, switchPoint s.block p, false⟩ ∧
        stickyBit b (lnkPage p) ErrBit.LNK.CHANGE_CANCELLED = true))) ∧
  (∀ (s : State) (p : Fin 12) (op m t w : Nat), linkUp s.block p = true → (prt s.block p).reqPend = some (op, m, t) →
    t + 1024 ≤ now s.block → w = wantedMask s.block p op → w ≠ 0 → w ≠ rxMask s.block p →
    Yields (.laneRequestResend p) s (fun b => (prt b p).reqPend = some (op, w, now s.block) ∧
      (prt b p).laneTx = (prt s.block p).laneTx ++ [laneMsg op w 0] ∧ memKept s.block b)) ∧
  (∀ (s : State) (p : Fin 12) (c : LaneChange), linkUp s.block p = true → (prt s.block p).txPend = some c → c.acked = true →
    seqAfter (rd s.block (Reg.LNK.TX_SEQ_NEXT (lnkPage p))) c.s = true →
    Yields (.widthSwitch p true) s (fun b => txMask b p = c.mask % 256 ∧ txWidth b p = popcount 8 (c.mask % 256) ∧
      (prt b p).txPend = none ∧ stickyBit b (lnkPage p) ErrBit.LNK.WIDTH_CHANGED = true ∧ rxMask b p = rxMask s.block p ∧
      memKept s.block b)) ∧
  (∀ (s : State) (p : Fin 12) (c : LaneChange), linkUp s.block p = true → (prt s.block p).rxPend = some c →
    seqAfter (prt s.block p).predicted c.s = true →
    Yields (.widthSwitch p false) s (fun b => rxMask b p = c.mask % 256 ∧ rxWidth b p = popcount 8 (c.mask % 256) ∧
      (prt b p).rxPend = none ∧ stickyBit b (lnkPage p) ErrBit.LNK.WIDTH_CHANGED = true ∧ txMask b p = txMask s.block p ∧
      memKept s.block b))

/-- R228, R229, R342: at the end of a window of 2^20 pt its counts are published, and judge the lanes of a link that is up; a lane that is lost is off at once, and is asked away where
AUTO_DROP says so; a peer's notice of a link event is charged here. Where the rules leave a reading open it rests on
the model's, log entry 31.
Concludes, from its hypotheses on state and operands alone, that exec answers a next state with the effect for: DEGRADE_WINDOW_END, LANE_LOST,
RETRAIN_LANE, LINK_EVENT_NOTICE. -/
def Obligations.LanesAreJudged : Prop :=
  (∀ (s : State) (p : Fin 12) (sym sb : List Nat) (uncorr : Nat) (held : BitVec 8) (l : Fin 8), now s.block % 2 ^ 20 = 0 →
    Yields (.degradeWindowEnd p sym sb uncorr held) s (fun b =>
      rd b (Reg.LNK.FEC_CORR (lnkPage p) l) = min (sym.getD l 0) (2 ^ 32 - 1) ∧
      rd b (Reg.LNK.SB_ERRORS (lnkPage p) l) = min (sb.getD l 0) 65535 ∧
      rd b (Reg.LNK.FEC_UNCORR (lnkPage p)) = min uncorr (2 ^ 32 - 1) ∧
      rd b (Reg.LNK.FEC_UNCORR_TOTAL (lnkPage p)) = min (rd s.block (Reg.LNK.FEC_UNCORR_TOTAL (lnkPage p)) + uncorr) (2 ^ 32 - 1) ∧
      memKept s.block b ∧
      (linkUp s.block p = true → bit (rxMask s.block p) l = true → laneCode s.block p l = 1 →
        rd s.block (Reg.LNK.DEGRADE_SYM_LIMIT (lnkPage p)) ≤ sym.getD l 0 →
        laneCode b p l = 2 ∧ stickyBit b (lnkPage p) ErrBit.LNK.LANE_DEGRADED = true))) ∧
  (∀ (s : State) (p : Fin 12) (l : Fin 8), linkUp s.block p = true → bit (rxMask s.block p) l = true → laneCode s.block p l ≠ 0 →
    Yields (.laneLost p l) s (fun b => laneCode b p l = 0 ∧ stickyBit b (lnkPage p) ErrBit.LNK.LANE_LOST = true ∧ memKept s.block b ∧
      (∀ k : Fin 8, k ≠ l → laneCode b p k = laneCode s.block p k) ∧
      (flag s.block (Reg.LNK.CTRL_AUTO_DROP (lnkPage p)) = true →
        (∃ k : Fin 8, k ≠ l ∧ bit (rxMask s.block p) k = true ∧ laneCode s.block p k ≠ 0) →
        ∃ m, (prt b p).reqPend = some (opDROP, m, now s.block) ∧ bit m l = false))) ∧
  (∀ (s : State) (rq : Requester) (p : Fin 12) (lanes : BitVec 8), linkUp s.block p = true → guardOpen s.block rq = true →
    pageResponds s.block (lnkPage p) = true →
    Yields (.retrainLane rq p lanes) s (fun b => guardOpen b rq = false ∧ memKept s.block b ∧
      regsKept [(Reg.LNK.LANE_CMD_RETRAIN_LANE (lnkPage p)).key] s.block b ∧
      ∀ l : Fin 8, bit lanes.toNat l = true → bit (rxMask s.block p) l = false →
        bit (rd b (Reg.LNK.LANE_CMD_RETRAIN_LANE (lnkPage p))) l = true)) ∧
  (∀ (s : State) (p : Fin 12) (kind : Fin 4) (t : Nat), chargedWithin s.block (9 + kind.val) p 10000000 = false →
    Yields (.linkEventNotice p kind t) s (fun b => (∃ w, b.mgmt.events = s.block.mgmt.events ++ [⟨9 + kind.val, w, s.block.mgmt.clock, p⟩]) ∧
      memKept s.block b))
/-! ### The service plane -/

/-- A packet joined the flits that wait on its VC at a port. -/
def queuedAt (s b : Block) (p : Nat) (pkt : List Byte) : Prop :=
  (Tab.get (prt b p).txVc [] (vcOf pkt)).map (fun f => f.payload) =
    (Tab.get (prt s p).txVc [] (vcOf pkt)).map (fun f => f.payload) ++ packetFlits (hFlits pkt) pkt

/-- A packet that came in by a port goes to another: to its queue, or, where that lies on the other I/O die, to the near end of the bridge. -/
def passedTo (s b : Block) (src : Option (Fin 12)) (q : Nat) (pkt : List Byte) : Prop :=
  (crosses src q = false → queuedAt s b q pkt) ∧
  (crosses src q = true → (bridgeBuf b (1 - q / 6) 0 (vcOf pkt)).map (fun f => (f.port, f.flit.payload)) =
    (bridgeBuf s (1 - q / 6) 0 (vcOf pkt)).map (fun f => (f.port, f.flit.payload)) ++ (packetFlits (hFlits pkt) pkt).map (fun d => (q, d)))

/-- The response to a request waits at the port that the request came in by. -/
def respondsAt (s b : Block) (p : Nat) (h : List Byte) (status : Nat) (data : List Byte) : Prop :=
  queuedAt s b p (responseOf s h status (hAddr h) data)

/-- A waiting request of this module, made by a requester other than management firmware, has this answer. -/
def answeredWith (s b : Block) (token status : Nat) (data : List Byte) : Prop :=
  ∀ r ∈ s.ni.requests, r.token = token → r.done = none → r.requester ≠ 0 →
    { r with done := some status, data := data } ∈ b.ni.requests

/-- R234, R239, R240, R246, R248: a malformed packet is dropped; a request is delivered here, forwarded, over the I/O-die bridge where its way leads there, or answered where it may not go on, and waits where there is no room; a
response retraces its request's entries; a request of this module that stays without one ends in TIMEOUT, and a stale entry is freed. Where the rules leave a reading open it rests on
the model's, log entry 14.
Concludes, from its hypotheses on state and operands alone, that exec answers a next state with the effect for: SERVICE_PACKET_RECEIVE,
SERVICE_RESPONSE, NI_REQUEST_TIMEOUT, STALE_ENTRY_FREE. -/
def Obligations.PacketsFindTheirWay : Prop :=
  (∀ (s : State) (src : Option (Fin 12)) (vc : Fin 8) (flits : List (List Byte)), flits ≠ [] → (∀ f ∈ flits, f.length = 256) →
    headerOk flits.flatten = false ∨ hFlits flits.flatten ≠ flits.length →
    Yields (.servicePacketReceive src vc flits) s (fun b => b.ni = s.block.ni ∧ stickyBit b niPg ErrBit.NI.SVC_MALFORMED = true ∧
      memKept s.block b)) ∧
  (∀ (s : State) (src : Option (Fin 12)) (vc : Fin 8) (flits : List (List Byte)), flits ≠ [] → (∀ f ∈ flits, f.length = 256) →
    headerOk flits.flatten = true → hFlits flits.flatten = flits.length → hResponse flits.flatten = false →
    (hCoord flits.flatten = true → hOpcode flits.flatten = svMCTP) → mustWait s.block src flits.flatten = false →
    Yields (.servicePacketReceive src vc flits) s (fun b => memKept s.block b ∧
      (route s.block flits.flatten = .deliver → knownOp (hOpcode flits.flatten) = true →
        b.ni.inbox = s.block.ni.inbox ++ [(src, flits.flatten)]) ∧
      (∀ q pkt, route s.block flits.flatten = .forward q pkt → passedTo s.block b src q pkt) ∧
      (∀ p : Fin 12, src = some p → linkUp s.block p = true → route s.block flits.flatten = .noRoute →
        respondsAt s.block b p flits.flatten stNOROUTE []))) ∧
  (∀ (s : State) (src : Option (Fin 12)) (vc : Fin 8) (flits : List (List Byte)), flits ≠ [] → (∀ f ∈ flits, f.length = 256) →
    headerOk flits.flatten = true → hFlits flits.flatten = flits.length → mustWait s.block src flits.flatten = true →
    Yields (.servicePacketReceive src vc flits) s (fun b => b = s.block)) ∧
  (∀ (s : State) (p : Fin 12) (h d : List Byte) (e : OutEntry), h.length = 48 → d.length = hLength h → hResponse h = true →
    (prt s.block p).outstanding.find? (fun e => e.token == hToken h) = some e →
    Yields (.serviceResponse (some p) h d) s (fun b => memKept s.block b ∧
      (e.input = none → (prt b p).outstanding = (prt s.block p).outstanding.erase e ∧
        answeredWith s.block b (hToken h) (hStatus h) d) ∧
      (∀ q : Fin 12, e.input = some q → linkUp s.block q = true → passedTo s.block b (some p) q (h ++ d)))) ∧
  (∀ (s : State) (token : BitVec 32) (r : Pending),
    s.block.ni.requests.find? (fun r => r.token == token.toNat && r.done == none) = some r →
    r.since + 1000 * rd s.block Reg.NI.NI_REQ_TIMEOUT ≤ now s.block →
    Yields (.niRequestTimeout token) s (fun b => answeredWith s.block b token.toNat stTIMEOUT [] ∧
      rd b Reg.NI.TIMEOUTS = min (rd s.block Reg.NI.TIMEOUTS + 1) (2 ^ 32 - 1) ∧
      (∀ p : Fin 12, ∀ e ∈ (prt b p).outstanding, e.token = token.toNat → e.input ≠ none) ∧ memKept s.block b)) ∧
  (∀ (s : State) (p : Fin 12) (token : BitVec 32) (e : OutEntry),
    (prt s.block p).outstanding.find? (fun e => e.token == token.toNat) = some e → e.since + 2000000 ≤ now s.block →
    Yields (.staleEntryFree p token) s (fun b => (prt b p).outstanding = (prt s.block p).outstanding.erase e ∧
      rd b Reg.NI.STALE_FREED = min (rd s.block Reg.NI.STALE_FREED + 1) (2 ^ 32 - 1) ∧ memKept s.block b))

/-- R208, R235, R241, R249–R253, R360: a request delivered here is executed and answered; one that is not idempotent is executed once, and a
repetition gets the first execution's status; what touches device memory in a job is answered once its side traffic is back. Where the rules leave a reading open it rests on
the model's, log entry 32.
Concludes, from its hypotheses on state and operands alone, that exec answers a next state with the effect for: READ, WRITE, MAILBOX, TEL_READ, MCTP. -/
def Obligations.RequestsAreExecutedOnce : Prop :=
  (∀ (s : State) (p : Fin 12) (h : List Byte), h.length = 48 → hCoord h = false → linkUp s.block p = true → mapped s.block = false →
    s.block.side = [] → (∀ x ∈ s.block.units, x.2.readback = []) → 32 ≤ hLength h → hLength h ≤ 2048 → hLength h % 32 = 0 →
    devIn s.block (hAddr h) (hLength h) = true → badBlocks s.block (hAddr h) (ceilDiv (hAddr h % 64 + hLength h) 64) = [] →
    Yields (.svcRead (some p) h) s (fun b =>
      respondsAt s.block b p h stOK (devReadSafe s.block (hAddr h) (hLength h)) ∧ memKept s.block b)) ∧
  (∀ (s : State) (p : Fin 12) (h : List Byte) (k : Nat) (got : List SideFlit), h.length = 48 → hCoord h = false →
    linkUp s.block p = true → mapped s.block = true → Tab.get s.block.sideWait 0 (2 ^ 40 + hToken h) = k + 1 →
    got = s.block.sideIn.filter (fun f => f.tag == 2 ^ 40 + hToken h) → k ≤ got.length → 32 ≤ hLength h → hLength h ≤ 2048 →
    hLength h % 32 = 0 → devIn s.block (hAddr h) (hLength h) = true →
    badBlocks s.block (hAddr h) (ceilDiv (hAddr h % 64 + hLength h) 64) = [] →
    Yields (.svcRead (some p) h) s (fun b => memKept s.block b ∧
      respondsAt s.block b p h stOK (gatherAnswers got (hAddr h) (hLength h)) ∧
      b.sideIn = s.block.sideIn.filter (fun f => f.tag != 2 ^ 40 + hToken h))) ∧
  (∀ (s : State) (p : Fin 12) (h : List Byte), h.length = 48 → hCoord h = false → linkUp s.block p = true →
    devIn s.block (hAddr h) (hLength h) = false →
    Yields (.svcRead (some p) h) s (fun b => respondsAt s.block b p h stRANGE [] ∧ memKept s.block b)) ∧
  (∀ (s : State) (p : Fin 12) (h d : List Byte), h.length = 48 → d.length = hLength h → hCoord h = false → linkUp s.block p = true →
    recentOf s.block (hToken h) = none → recentFull s.block = false → inWindow s.block (hAddr h) d.length = true →
    (remoteAccess s.block true (hAddr h) d.length (hToken h) d).2.isSome = true →
    Yields (.svcWrite (some p) h d) s (fun b => respondsAt s.block b p h stOK [] ∧ (recentOf b (hToken h)).isSome = true ∧
      (mapped s.block = false → s.block.side = [] → (∀ x ∈ s.block.units, x.2.readback = []) → devAfter s.block [(hAddr h, d)] b))) ∧
  (∀ (s : State) (p : Fin 12) (h d : List Byte) (r : Recent), h.length = 48 → d.length = hLength h → hCoord h = false →
    linkUp s.block p = true → recentOf s.block (hToken h) = some r →
    Yields (.svcWrite (some p) h d) s (fun b => respondsAt s.block b p h (r.response.getD 0 0).toNat [] ∧ memKept s.block b)) ∧
  (∀ (s : State) (p : Fin 12) (h d : List Byte), h.length = 48 → d.length = hLength h → hCoord h = false → linkUp s.block p = true →
    recentOf s.block (hToken h) = none → recentFull s.block = false → flag s.block Reg.PCI.MBX_CTRL_ENABLE = true →
    dist32 (rd s.block Reg.PCI.MBX_WRITTEN) (rd s.block Reg.PCI.MBX_CONSUMED) < 16 →
    Yields (.svcMailbox (some p) h d) s (fun b => respondsAt s.block b p h stOK [] ∧ (recentOf b (hToken h)).isSome = true ∧
      rd b Reg.PCI.MBX_WRITTEN = (rd s.block Reg.PCI.MBX_WRITTEN + 1) % 2 ^ 32 ∧ memKept s.block b)) ∧
  (∀ (s : State) (p : Fin 12) (h : List Byte), h.length = 48 → hCoord h = false → linkUp s.block p = true → hAddr h % 16 < 12 →
    Yields (.telRead (some p) h) s (fun b =>
      respondsAt s.block b p h stOK (readWords s.block (telPage (hAddr h % 16) + 0x40) 48) ∧ memKept s.block b)) ∧
  (∀ (s : State) (tagOk : Bool) (t : Fin 256) (d : List Byte), mctpOf s.block d = none →
    Yields (.mctp true tagOk t d) s (fun b => memKept s.block b ∧
      (tagOk = true → (sess s.block (fieldLe d 5 4 % 16)).opened = true → b.mgmt.inbox = s.block.mgmt.inbox ++ [d] ∧
        (sess b (fieldLe d 5 4 % 16)).heard = s.block.mgmt.clock) ∧
      (tagOk = false → b.mgmt.inbox = s.block.mgmt.inbox ∧ stickyBit b niPg ErrBit.NI.AUTH_FAIL = true ∧
        rd b Reg.NI.AUTH_FAILS = min (rd s.block Reg.NI.AUTH_FAILS + 1) (2 ^ 32 - 1)))) ∧
  (∀ (s : State) (tagOk : Bool) (t : Fin 256) (d : List Byte), mctpOf s.block d = none →
    Yields (.mctp false tagOk t d) s (fun b => memKept s.block b ∧
      (openType t = true → (t.val = 5 → spdmAnswer (fieldLe d 6 1) = none) →
        b.mgmt.inbox = s.block.mgmt.inbox ++ [d] ∧ b.store.regs = s.block.store.regs) ∧
      (∀ a, t.val = 5 → spdmAnswer (fieldLe d 6 1) = some a →
        b.mgmt.inbox = s.block.mgmt.inbox ∧ b.mgmt.outbox = s.block.mgmt.outbox ++ [natLe 1 5 ++ a]) ∧
      (openType t = false → b.mgmt.inbox = s.block.mgmt.inbox ∧
        rd b Reg.NI.UNAUTH_DROPS = min (rd s.block Reg.NI.UNAUTH_DROPS + 1) (2 ^ 32 - 1)))) ∧
  (∀ (s : State) (p : Fin 12) (t : Fin 256) (d pkt : List Byte), mctpOf s.block d = some (some p, pkt) → linkUp s.block p = true →
    recentOf s.block (hToken (pkt.take 48)) = none → recentFull s.block = false → d.length ≤ 1028 →
    (sess s.block (fieldLe d 5 4 % 16)).opened = true →
    Yields (.mctp true true t d) s (fun b => b.mgmt.inbox = s.block.mgmt.inbox ++ [d] ∧
      (recentOf b (hToken (pkt.take 48))).isSome = true ∧ b.ni.inbox = s.block.ni.inbox.erase (some p, pkt) ∧ memKept s.block b ∧
      (tagOwner d = true → respondsAt s.block b p (pkt.take 48) stOK []))) ∧
  (∀ (s : State) (p : Fin 12) (secured tagOk : Bool) (t : Fin 256) (d pkt : List Byte) (r : Recent),
    mctpOf s.block d = some (some p, pkt) → linkUp s.block p = true → recentOf s.block (hToken (pkt.take 48)) = some r →
    Yields (.mctp secured tagOk t d) s (fun b => b.mgmt = s.block.mgmt ∧ memKept s.block b ∧
      (tagOwner d = true → respondsAt s.block b p (pkt.take 48) (r.response.getD 0 0).toNat [])))

/-- R243, R244, R254: the inactive rank table is READY once it passes its check, the tables exchange outside a job at once and inside one at
the next boundary, the old one serves its tail; a port's window of counts is published at its end. Where the rules leave a reading open it rests on
the model's, log entry 32.
Concludes, from its hypotheses on state and operands alone, that exec answers a next state with the effect for: RT_CHECK, FLIP, RT_TAIL_END,
TELEMETRY_WINDOW_END. -/
def Obligations.RankTablesFlipAndWindowsAreCounted : Prop :=
  (∀ s : State, pageResponds s.block niPg = true → tableOk s.block (1 - activeTable s.block) = true →
    Yields .rtCheck s (fun b => flag b Reg.NI.NI_TABLE_READY = true ∧
      members b (1 - activeTable s.block) = validCoords s.block (1 - activeTable s.block) (rd s.block Reg.NI.NI_RT_LEN) ∧
      members b (activeTable s.block) = members s.block (activeTable s.block) ∧ activeTable b = activeTable s.block ∧
      memKept s.block b ∧ regsKept [Reg.NI.NI_TABLE_READY.key] s.block b)) ∧
  (∀ s : State, pageResponds s.block niPg = true → tableOk s.block (1 - activeTable s.block) = false →
    Yields .rtCheck s (fun b => flag b Reg.NI.NI_TABLE_READY = false ∧ stickyBit b niPg ErrBit.NI.RT_CHECK_FAIL = true ∧
      b.ni = s.block.ni ∧ memKept s.block b)) ∧
  (∀ (s : State) (rq : Requester), pageResponds s.block niPg = true → guardOpen s.block rq = true →
    flag s.block Reg.NI.NI_TABLE_READY = true →
    Yields (.rtFlip rq) s (fun b => guardOpen b rq = false ∧ memKept s.block b ∧
      (inJob s.block = false → activeTable b = 1 - activeTable s.block ∧ flag b Reg.NI.NI_TABLE_READY = false ∧
        flag b Reg.NI.NI_TABLE_TAIL = true ∧ b.ni.tailEnd = now s.block + 1000000) ∧
      (inJob s.block = true → activeTable b = activeTable s.block ∧ b.ni.flipPending = true ∧ flag b Reg.NI.NI_CMD_FLIP = true))) ∧
  (∀ s : State, flag s.block Reg.NI.NI_TABLE_TAIL = true → s.block.ni.tailEnd ≤ now s.block →
    Yields .rtTailEnd s (fun b => flag b Reg.NI.NI_TABLE_TAIL = false ∧ onlyRegs [Reg.NI.NI_TABLE_TAIL.key] s.block b)) ∧
  (∀ (s : State) (p : Fin 12), ((prt s.block p).winStart / 2 ^ (prt s.block p).winLog2 + 1) * 2 ^ (prt s.block p).winLog2 ≤ now s.block →
    Yields (.telemetryWindowEnd p) s (fun b =>
      (∀ i : Fin 4, rd b (Reg.TEL.TX_FLITS (telPage p) i) = Tab.get (prt s.block p).counts 0 i % 2 ^ 32 ∧
        rd b (Reg.TEL.RX_FLITS (telPage p) i) = Tab.get (prt s.block p).counts 0 (4 + i) % 2 ^ 32) ∧
      rd b (Reg.TEL.REPLAYS (telPage p)) = Tab.get (prt s.block p).counts 0 8 % 2 ^ 32 ∧
      rd b (Reg.TEL.NAKS (telPage p)) = Tab.get (prt s.block p).counts 0 9 % 2 ^ 32 ∧
      rd b (Reg.TEL.TEL_START (telPage p)) = (prt s.block p).winStart % 2 ^ 64 ∧
      rd b (Reg.TEL.TEL_SEQ (telPage p)) = (rd s.block (Reg.TEL.TEL_SEQ (telPage p)) + 1) % 2 ^ 32 ∧
      (prt b p).winStart % 2 ^ (prt s.block p).winLog2 = 0 ∧ now s.block < (prt b p).winStart + 2 ^ (prt s.block p).winLog2 ∧ memKept s.block b))
/-! ### The management subsystem -/

/-- R252, R293, R396, R409, R411, R413: SPDM sessions open, answer and end; keys, endpoints and the behaviour level change on signed or
sealed requests only. Where the rules leave a reading open it rests on
the model's, log entries 19 and 41.
Concludes, from its hypotheses on state and operands alone, that exec answers a next state with the effect for: KEY_EXCHANGE, GET_CERTIFICATE,
CHALLENGE, GET_MEASUREMENTS, HEARTBEAT, KEY_UPDATE, SESSION_HEARTBEAT_TIMEOUT, KEY_ENROL, OPERATOR_ROOT_KEY_WRITE, ENDPOINT_TABLE_WRITE,
LEVEL_CHANGE_REQUEST, BEHAVIOUR_REQUESTED_WRITE. -/
def Obligations.SessionsAndKeysAreManaged : Prop :=
  (∀ (s : State) (i : Nat), (List.range 16).find? (fun i => !(sess s.block i).opened) = some i →
    Yields (.keyExchange true) s (fun b => sess b i = ⟨true, s.block.mgmt.clock, 1, 1, 0⟩ ∧ (∀ j, j ≠ i → sess b j = sess s.block j) ∧
      (s.block.mgmt.askers = [] →
        b.mgmt.outbox = s.block.mgmt.outbox ++ [Config.signed (natLe 1 spKEYEX ++ natLe 1 i ++ natLe 8 0)]) ∧
      b.mgmt.askers = s.block.mgmt.askers.drop 1 ∧ memKept s.block b)) ∧
  (∀ s : State, (List.range 16).find? (fun i => !(sess s.block i).opened) = none →
    s.block.mgmt.askers = [] →
    Yields (.keyExchange true) s (fun b => b = { s.block with mgmt := { s.block.mgmt with outbox := s.block.mgmt.outbox ++ [spdmBusy] } })) ∧
  (∀ s : State, s.block.mgmt.askers = [] → Yields .getCertificate s (fun b => b = { s.block with mgmt := { s.block.mgmt with
    outbox := s.block.mgmt.outbox ++ [Config.signed (natLe 1 spGETCERT ++ natLe 8 (rd s.block Reg.MGT.MODULE_ID))] } })) ∧
  (∀ (s : State) (nonce : List Byte), s.block.mgmt.askers = [] → Yields (.challenge nonce) s (fun b => b = { s.block with mgmt := { s.block.mgmt with
    outbox := s.block.mgmt.outbox ++ [Config.signed (natLe 1 spCHALLENGE ++ nonce)] } })) ∧
  (∀ (s : State) (nonce : List Byte), s.block.mgmt.askers = [] → Yields (.getMeasurements nonce) s (fun b => b = { s.block with mgmt := { s.block.mgmt with
    outbox := s.block.mgmt.outbox ++ [(List.range 9).flatMap (fun i => measurementBlock s.block (i + 1)) ++
      Config.signed (natLe 1 spMEAS ++ nonce ++ (List.range 9).flatMap (fun i => measurementBlock s.block (i + 1)))] } })) ∧
  (∀ (s : State) (c : Instr) (nonce : List Byte) (a : Nat) (l : List Nat), s.block.mgmt.askers = a :: l →
    c = .getCertificate ∨ c = .challenge nonce ∨ c = .getMeasurements nonce →
    Yields c s (fun b => b.mgmt = { s.block.mgmt with askers := l } ∧ memKept s.block b)) ∧
  (∀ (s : State) (i : Fin 16), (sess s.block i).opened = true →
    Yields (.heartbeat i) s (fun b => sess b i = renewed { sess s.block i with heard := s.block.mgmt.clock, records := (sess s.block i).records + 1 } ∧
      (∀ j, j ≠ i.val → sess b j = sess s.block j) ∧ memKept s.block b ∧
      regsKept [Reg.NI.SESSIONS.key, Reg.NI.REQ_SENT.key, Reg.NI.NO_ROUTES.key] s.block b)) ∧
  (∀ (s : State) (i : Fin 16) (x : Session), (sess s.block i).opened = true →
    x = renewed { sess s.block i with heard := s.block.mgmt.clock, records := (sess s.block i).records + 1 } →
    Yields (.keyUpdate i) s (fun b => sess b i = ⟨true, s.block.mgmt.clock, 0, x.keys + 1, 0⟩ ∧
      (∀ j, j ≠ i.val → sess b j = sess s.block j) ∧ memKept s.block b ∧
      regsKept [Reg.NI.SESSIONS.key, Reg.NI.REQ_SENT.key, Reg.NI.NO_ROUTES.key] s.block b)) ∧
  (∀ (s : State) (i : Fin 16), (sess s.block i).opened = true → (sess s.block i).heard + 90000000000 ≤ s.block.mgmt.clock →
    Yields (.sessionHeartbeatTimeout i) s (fun b => (sess b i).opened = false ∧ (∀ j, j ≠ i.val → sess b j = sess s.block j) ∧
      memKept s.block b)) ∧
  (∀ (s : State) (k : Fin 8) (m : SignedMsg), firmwareUp s.block = true → rd s.block Reg.NI.SESSIONS ≠ 0 →
    operatorSigned s.block m = true → m.body.length = 388 →
    Yields (.keyEnrol false k m) s (fun b => bit (rd b Reg.HDB.KEY_VALID) k = true ∧
      b.mgmt.pubKeys.find? (fun p => p.1 == k.val) = some (k.val, m.body) ∧
      rd b (Reg.HDB.KEY_ID k) = leNat (sha256 m.body) % 2 ^ (Reg.HDB.KEY_ID 0).width ∧ memKept s.block b)) ∧
  (∀ (s : State) (k : Fin 8) (m : SignedMsg), firmwareUp s.block = true → rd s.block Reg.NI.SESSIONS ≠ 0 →
    operatorSigned s.block m = true →
    Yields (.keyEnrol true k m) s (fun b => bit (rd b Reg.HDB.KEY_VALID) k = false ∧
      b.mgmt.pubKeys.find? (fun p => p.1 == k.val) = none ∧ rd b (Reg.HDB.KEY_ID k) = 0 ∧ memKept s.block b)) ∧
  (∀ (s : State) (key : List Byte) (m : SignedMsg), firmwareUp s.block = true → key.length = 388 → s.block.mgmt.rootKey = [] →
    Yields (.operatorRootKeyWrite true key m) s (fun b => b = { s.block with mgmt := { s.block.mgmt with rootKey := key } })) ∧
  (∀ (s : State) (i : Fin 16) (eid : Fin 256) (c : Fin 262144), inSession s.block i = true →
    Yields (.endpointTableWrite i eid c) s (fun b => Tab.get b.mgmt.endpoints (2 ^ 18) eid = c.val ∧ b.store = s.block.store ∧
      ∀ j, j ≠ eid.val → Tab.get b.mgmt.endpoints (2 ^ 18) j = Tab.get s.block.mgmt.endpoints (2 ^ 18) j)) ∧
  (∀ (s : State) (i : Fin 16) (v : BitVec 8), inSession s.block i = true →
    v = 0xA1 ∨ (v = 0xB0 ∧ rd s.block Reg.MGT.BEHAVIOUR_PHYSICAL = 0xB0) →
    Yields (.levelChangeRequest i v) s (fun b => rd b Reg.MGT.BEHAVIOUR_REQUESTED = v.toNat ∧
      onlyRegs [Reg.MGT.BEHAVIOUR_REQUESTED.key] s.block b)) ∧
  (∀ (s : State) (rq : Requester) (v : BitVec 32), guardOpen s.block rq = true →
    bits v.toNat 8 8 = 0xA1 ∨ (bits v.toNat 8 8 = 0xB0 ∧ rd s.block Reg.MGT.BEHAVIOUR_PHYSICAL = 0xB0) →
    takesAll s.block rq (0x5080) = true →
    Yields (.behaviourRequestedWrite rq v) s (fun b => rd b Reg.MGT.BEHAVIOUR_REQUESTED = bits v.toNat 8 8 ∧
      rd b Reg.MGT.BEHAVIOUR_IN_FORCE = rd s.block Reg.MGT.BEHAVIOUR_IN_FORCE ∧ guardOpen b rq = false ∧
      regsKept [Reg.MGT.BEHAVIOUR_REQUESTED.key] s.block b ∧ memKept s.block b))

/-- R406–R408: an update is begun by a signed request, its data go to the slot that is not in use, a component that verifies may be
activated, and activation makes its slot the preferred one in trial. Where the rules leave a reading open it rests on
the model's, log entries 6 and 41.
Concludes, from its hypotheses on state and operands alone, that exec answers a next state with the effect for: REQUEST_UPDATE, REQUEST_FIRMWARE_DATA,
VERIFY_COMPLETE, ACTIVATE_FIRMWARE, OPERATOR_RESTART_REQUEST. -/
def Obligations.FirmwareIsUpdated : Prop :=
  (∀ (s : State) (i : Fin 16) (m : SignedMsg) (c : Fin 65536), firmwareUp s.block = true → s.block.mgmt.romMinimal = false →
    inSession s.block i = true → operatorSigned s.block m = true → c.val = 1 ∨ c.val = 2 ∨ c.val = 3 → s.block.mgmt.update = none →
    Yields (.requestUpdate i c m) s (fun b => b.mgmt.update = some ⟨c, updSlot s.block c, 0, false⟩ ∧
      flag b Reg.MGT.MGT_STATUS_UPDATE_ACTIVE = true ∧ memKept s.block b)) ∧
  (∀ (s : State) (via : Bool) (off : Nat) (d : List Byte) (u : Update), s.block.mgmt.update = some u → u.verified = false → d ≠ [] →
    d.length ≤ (if via then 512 else 960) →
    off + d.length ≤ (updBase u.component u.slot).2 →
    Yields (.requestFirmwareData via off d) s (fun b => flashRead b ((updBase u.component u.slot).1 + off) d.length = d ∧
      b.mgmt.update = some { u with received := max u.received (off + d.length) } ∧ memKept s.block b ∧
      (u.component = 2 → b.mgmt.stage1New = some u.slot))) ∧
  (∀ (s : State) (off : Nat) (d : List Byte), 512 < d.length → Yields (.requestFirmwareData true off d) s (fun b => b = s.block)) ∧
  (∀ (s : State) (u : Update) (img : List Byte), s.block.mgmt.update = some u →
    img = flashRead s.block (updBase u.component u.slot).1 u.received →
    Yields .verifyComplete s (fun b => memKept s.block b ∧
      (Config.imageVerifies img = true → Config.imageField img 0 = u.component → rd s.block Reg.MGT.SVN_FLOOR ≤ Config.imageField img 2 →
        b.mgmt.update = some { u with verified := true }) ∧
      (Config.imageVerifies img = false → b.mgmt.update = none ∧ flag b Reg.MGT.MGT_STATUS_UPDATE_ACTIVE = false ∧
        stickyBit b mgtPg ErrBit.MGT.UPDATE_FAILED = true))) ∧
  (∀ (s : State) (i : Fin 16) (m : SignedMsg) (u : Update), s.block.mgmt.update = some u → u.verified = true → s.block.mgmt.stage ≠ 4 →
    inSession s.block i = true → operatorSigned s.block m = true →
    Yields (.activateFirmware i m) s (fun b => b.mgmt.update = none ∧ flag b Reg.MGT.MGT_STATUS_ACTIVATION_PENDING = true ∧
      flag b Reg.MGT.MGT_STATUS_UPDATE_ACTIVE = false ∧
      (u.component = 1 → b.mgmt.preferred = u.slot ∧ b.mgmt.trial = some u.slot) ∧ memKept s.block b)) ∧
  (∀ (s : State) (i : Fin 16), inSession s.block i = true → inJob s.block = false →
    Yields (.operatorRestartRequest i) s (fun b => b.mgmt.stage = 0 ∧ b.mgmt.modReset = true ∧ b.mgmt.update = none))

/-- R341, R343, R397, R400, R414: the health score is recomputed, the self-test runs outside jobs and a pass leaves a score of 800, sensors
show what they measure, and LOG_SEL shows an entry of the log. Where the rules leave a reading open it rests on
the model's, log entries 6, 18 and 42.
Concludes, from its hypotheses on state and operands alone, that exec answers a next state with the effect for: HEALTH_RECOMPUTE, SELFTEST,
SELFTEST_COMPLETE, LOG_SEL_WRITE, SENSOR_SAMPLE. -/
def Obligations.HealthSensorsAndLogAreShown : Prop :=
  (∀ s : State, firmwareUp s.block = true →
    Yields .healthRecompute s (fun b => rd b Reg.MGT.HEALTH_SCORE = scoreNow s.block ∧
      flag b Reg.MGT.MGT_STATUS_EXPEL_RECOMMENDED = decide (scoreNow s.block < rd s.block Reg.MGT.HEALTH_THRESHOLD) ∧ memKept s.block b ∧
      (scoreNow s.block < rd s.block Reg.MGT.HEALTH_THRESHOLD → flag s.block Reg.MGT.MGT_STATUS_EXPEL_RECOMMENDED = false →
        stickyBit b mgtPg ErrBit.MGT.EXPEL_RECOMMENDED = true ∧
        (s.block.mgmt.askers = [] → b.mgmt.outbox.length = s.block.mgmt.outbox.length + 1)))) ∧
  (∀ (s : State) (rq : Requester), guardOpen s.block rq = true → inJob s.block = false → s.block.mgmt.stage = 3 →
    s.block.mgmt.modReset = false → flag s.block Reg.MGT.MGT_STATUS_SELFTEST_RUNNING = false →
    Yields (.selftest rq) s (fun b => flag b Reg.MGT.MGT_STATUS_SELFTEST_RUNNING = true ∧ rd b Reg.MGT.SELFTEST_RESULT_STATE = 1 ∧
      rd b Reg.MGT.SELFTEST_RESULT_PART = 0 ∧ guardOpen b rq = false ∧ memKept s.block b ∧
      regsKept [Reg.MGT.MGT_CMD_SELFTEST.key, Reg.MGT.MGT_STATUS_SELFTEST_RUNNING.key, Reg.MGT.SELFTEST_RESULT_STATE.key,
        Reg.MGT.SELFTEST_RESULT_PART.key] s.block b)) ∧
  (∀ (s : State) (part : Fin 7), flag s.block Reg.MGT.MGT_STATUS_SELFTEST_RUNNING = true →
    Yields (.selftestComplete part) s (fun b => flag b Reg.MGT.MGT_STATUS_SELFTEST_RUNNING = false ∧
      rd b Reg.MGT.SELFTEST_RESULT_PART = part ∧ memKept s.block b ∧
      (part = 0 → rd b Reg.MGT.SELFTEST_RESULT_STATE = 2 ∧ rd b Reg.MGT.HEALTH_SCORE = 800) ∧
      (part ≠ 0 → rd b Reg.MGT.SELFTEST_RESULT_STATE = 3 ∧ b.mgmt.events = s.block.mgmt.events ∧
        rd b Reg.MGT.HEALTH_SCORE = rd s.block Reg.MGT.HEALTH_SCORE))) ∧
  (∀ (s : State) (n : Fin 64) (v : Nat), firmwareUp s.block = true →
    Yields (.sensorSample n v false) s (fun b => stickyBit b mgtPg ErrBit.MGT.SENSOR_FAULT = true ∧ memKept s.block b ∧
      regsKept (reportKeys mgtPg) s.block b)) ∧
  (∀ (s : State) (n : Fin 64) (v : Nat), firmwareUp s.block = true →
    Yields (.sensorSample n v true) s (fun b => memKept s.block b ∧
      (Config.sensorInRange n v = false → stickyBit b mgtPg ErrBit.MGT.SENSOR_FAULT = true) ∧
      (Config.sensorInRange n v = true →
        (n.val ≤ 16 → rd b (Reg.MGT.RAIL_V n) = v % 2 ^ 16) ∧
        (17 ≤ n.val → n.val ≤ 28 → memTemp b (n - 17) = min v 255) ∧
        (n.val = 29 → v < 256 → rd b Reg.PWR.COOLANT_INLET = v) ∧ (n.val = 30 → v < 256 → rd b Reg.PWR.COOLANT_OUTLET = v) ∧
        (n.val = 31 → rd b Reg.PWR.INPUT_MV = v % 2 ^ 16) ∧
        (33 ≤ n.val → n.val ≤ 49 → rd b (Reg.MGT.RAIL_I (n - 33)) = v % 2 ^ 16)))) ∧
  (∀ (s : State) (rq : Requester) (v : BitVec 32), 1 ≤ dist32 (rd s.block Reg.MGT.LOG_WRITTEN) v.toNat →
    dist32 (rd s.block Reg.MGT.LOG_WRITTEN) v.toNat ≤ dist32 (rd s.block Reg.MGT.LOG_WRITTEN) (rd s.block Reg.MGT.LOG_OLDEST) →
    takesAll s.block rq (0x508C) = true →
    Yields (.logSelWrite rq v) s (fun b => rd b Reg.MGT.LOG_SEL = v.toNat ∧ flag b Reg.MGT.LOG_STATUS_VALID = true ∧
      flag b Reg.MGT.LOG_STATUS_RETAINED = true ∧ memKept s.block b ∧
      ∀ i : Fin 8, rd b (Reg.MGT.LOG_DATA i) =
        fieldLe (flashRead s.block (0x3700000 + 32 * (v.toNat % 1048576)) 32) (4 * i) 4))

/-- Everything but the management subsystem lies in reset: no job, no ream, no engine or link at work, and the volatile memories zero. -/
def moduleInReset (b : Block) : Prop :=
  b.mgmt.modReset = true ∧ flag b Reg.PCI.PCI_STATUS_MODULE_RESET = true ∧ flag b Reg.GLB.MODULE_STATE_MODULE_RESET = true ∧
    inJob b = false ∧ b.plan.ream = none ∧ b.engines = [] ∧ b.cores = [] ∧ b.ports = [] ∧ b.units = [] ∧ b.store.imem = [] ∧
    b.store.staging = [] ∧ b.store.step = [] ∧ b.store.rank = [] ∧ (∀ e : EngineId, engState b (engNum e) = 0) ∧
    ∀ a, a < 0x10000000000 → Memory.read b.store.dev a = 0

/-- R22, R350, R401–R405, R409: the boot ROM verifies stage 1, stage 1 starts the firmware and puts the configuration record in force, which
names the harvest map, the identity and the revision that the configuration header shows; BOOT_OK ends the count of failures; a failed stage restarts the
boot with its report, the third failure and a module without a stage 1 end in minimal mode, and BOOT_RETRY leaves it. Where the rules leave a reading open it rests on
the model's, log entries 5 and 40.
Concludes, from its hypotheses on state and operands alone, that exec answers a next state with the effect for: BOOT_RETRY, MANAGEMENT_RESTART,
BOOT_ROM_VERIFY, STAGE1_COMPLETE, BOOT_OK, STAGE_TIMEOUT. -/
def Obligations.TheModuleBoots : Prop :=
  (∀ (s : State) (c2 : Bool) (svn svnB : Fin 256), s.block.mgmt.stage = 0 → s.block.mgmt.pinsLow.contains 0 = false →
    rd s.block Reg.MGT.SVN_FLOOR ≤ svn →
    Yields (.bootRomVerify true c2 svn svnB) s (fun b => b.mgmt.stage = 1 ∧ b.mgmt.stage1Copy = 0 ∧ b.mgmt.svnStage1 = svn ∧
      b.store = s.block.store)) ∧
  (∀ (s : State) (svnA svn : Fin 256), s.block.mgmt.stage = 0 → s.block.mgmt.pinsLow.contains 0 = false →
    rd s.block Reg.MGT.SVN_FLOOR ≤ svn →
    Yields (.bootRomVerify false true svnA svn) s (fun b => b.mgmt.stage = 1 ∧ b.mgmt.stage1Copy = 1 ∧ memKept s.block b ∧
      rd b (Reg.MGT.BOOT_REPORT_LO_REASON 0) = 0x01)) ∧
  (∀ (s : State) (svn svnB : Fin 256), s.block.mgmt.stage = 0 → s.block.mgmt.pinsLow.contains 0 = false →
    Yields (.bootRomVerify false false svn svnB) s (fun b => b.mgmt.stage = 4 ∧ b.mgmt.romMinimal = true ∧
      flag b Reg.MGT.MGT_STATUS_MINIMAL = true ∧ flag b Reg.GLB.MODULE_STATE_MINIMAL = true ∧
      rd b (Reg.MGT.BOOT_REPORT_LO_REASON 0) = 0x02 ∧ memKept s.block b)) ∧
  (∀ (s : State) (rv : ConfigRecord) (bits_ : Nat) (svn : Fin 256), s.block.mgmt.stage = 1 →
    rd s.block Reg.MGT.BOOT_FAILS_CONSECUTIVE < 3 → rd s.block Reg.MGT.SVN_FLOOR ≤ svn →
    Yields (.stage1Complete rv true bits_ true true svn) s (fun b => b.mgmt.stage = 2 ∧
      rd b Reg.MGT.MGT_STATUS_SLOT = bootSlot s.block % 2 ∧ rd b Reg.MGT.SVN_RUNNING = svn ∧
      flag b Reg.PCI.PCI_STATUS_MGT_READY = true ∧ memKept s.block b ∧
      rd b Reg.HARV.HARVEST_SRC_RECORD_VERSION = rv.version ∧ rd b Reg.MGT.MODULE_ID = rv.identity.toNat ∧
      (∀ c : Fin 16, rd b (Reg.HARV.HARVEST_MAP_DISABLED_PHYS c) = rv.harvest.getD c 0) ∧
      b.pcie.header = { s.block.pcie.header with revisionId := if rv.b0 then 0xB0 else 0xA1, serial := rv.identity.toNat })) ∧
  (∀ (s : State) (rv : ConfigRecord) (bits_ : Nat) (ok pufOk : Bool) (svn : Fin 256), s.block.mgmt.stage = 1 →
    rd s.block Reg.MGT.BOOT_FAILS_CONSECUTIVE < 3 →
    Yields (.stage1Complete rv false bits_ pufOk ok svn) s (fun b => b.mgmt.stage = 0 ∧ moduleInReset b ∧
      rd b (Reg.MGT.BOOT_REPORT_LO_REASON 0) = 0x11 ∧
      rd b Reg.MGT.BOOT_FAILS_CONSECUTIVE = rd s.block Reg.MGT.BOOT_FAILS_CONSECUTIVE + 1)) ∧
  (∀ (s : State) (rv : ConfigRecord) (bits_ : Nat) (ok pufOk fwOk : Bool) (svn : Fin 256), s.block.mgmt.stage = 1 →
    3 ≤ rd s.block Reg.MGT.BOOT_FAILS_CONSECUTIVE →
    Yields (.stage1Complete rv ok bits_ pufOk fwOk svn) s (fun b => b.mgmt.stage = 4 ∧ b.mgmt.romMinimal = false ∧
      flag b Reg.MGT.MGT_STATUS_MINIMAL = true ∧ memKept s.block b)) ∧
  (∀ s : State, s.block.mgmt.stage = 2 → s.block.mgmt.modReset = false → s.block.mgmt.calOk = true →
    flag s.block Reg.HARV.HARVEST_SRC_SIG_OK = true → flag s.block Reg.HARV.HARVEST_SRC_BIST_OK = true →
    flag s.block Reg.PCI.PCI_STATUS_MGT_READY = true →
    Yields .bootOk s (fun b => b.mgmt.stage = 3 ∧ flag b Reg.MGT.MGT_STATUS_BOOT_OK = true ∧
      rd b Reg.MGT.BOOT_FAILS_CONSECUTIVE = 0 ∧ b.mgmt.preferred = rd s.block Reg.MGT.MGT_STATUS_SLOT ∧ memKept s.block b)) ∧
  (∀ (s : State) (st : Fin 3), s.block.mgmt.stage = st → s.block.mgmt.pinsLow.contains 0 = false →
    s.block.mgmt.since + stageLimit st ≤ s.block.mgmt.clock →
    Yields (.stageTimeout st) s (fun b => b.mgmt.stage = 0 ∧ moduleInReset b ∧ rd b (Reg.MGT.BOOT_REPORT_LO_REASON 0) = 0x30 ∧
      rd b (Reg.MGT.BOOT_REPORT_LO_STAGE 0) = st)) ∧
  (∀ (s : State) (rq : Requester), guardOpen s.block rq = true → flag s.block Reg.MGT.MGT_STATUS_MINIMAL = true → s.block.mgmt.stage = 4 →
    Yields (.bootRetry rq) s (fun b => b.mgmt.stage = 0 ∧ moduleInReset b ∧ rd b Reg.MGT.BOOT_FAILS_CONSECUTIVE = 0)) ∧
  (∀ s : State, Yields .managementRestart s (fun b => b.mgmt.stage = 0 ∧ moduleInReset b ∧
    flag b Reg.PCI.PCI_STATUS_MGT_READY = false ∧ b.mgmt.update = none))
/-! ### Serving -/

/-- The session engine serves a running job. -/
def serves (s : Block) : Prop :=
  inJob s = true ∧ jobState s = 3 ∧ s.plan.halted = false ∧ (ream s).mode ≠ 0 ∧ engState s engSSE = 2

/-- R259, R262, R271, R274: at the cutoff rank 0 takes at most 256 of the items that wait and makes the step's stream; the build makes the
step that the coming boundary begins, in its bank, which is ready if it was written by BUILD; a bank that is not ready then is late. Where the rules leave a reading open it rests on
the model's, log entries 6, 36 and 37.
Concludes, from its hypotheses on state and operands alone, that exec answers a next state with the effect for: STEP_CUTOFF, STEP_BUILD,
STEP_BUILD_DEADLINE. -/
def Obligations.StepsAreTakenBuiltAndLate : Prop :=
  (∀ (s : State) (avail : Nat), serves s.block → flag s.block Reg.SES.SES_STATUS_LEAD = true → stepStart s.block (sheet s.block + 2) = true →
    s.block.plan.stepHdr = [] → s.block.plan.sheetStart + rd s.block Reg.SES.CUTOFF ≤ sched s.block →
    s.block.serv.taken.any (fun x => x.1 == stepNumber s.block (sheet s.block + 2)) = false →
    s.block.plan.inQuantum = false → avail = dist32 (stagingNum s.block 0 4) (rd s.block Reg.SES.STEP_TAKEN) →
    Yields .stepCutoff s (fun b => memKept s.block b ∧
      fieldLe b.plan.stepHdr 0 4 = stepNumber s.block (sheet s.block + 2) % 2 ^ 32 ∧
      (avail ≤ 4096 → rd b Reg.SES.STEP_TAKEN = (rd s.block Reg.SES.STEP_TAKEN + min avail 256) % 2 ^ 32 ∧
        fieldLe b.plan.stepHdr 4 2 = min avail 256 + 1) ∧
      (4096 < avail → rd b Reg.SES.STEP_TAKEN = rd s.block Reg.SES.STEP_TAKEN ∧ fieldLe b.plan.stepHdr 4 2 = 1 ∧
        stickyBit b sesPg ErrBit.SES.RING_OVERRUN = true))) ∧
  (∀ (s : State) (step : Nat), serves s.block → s.block.serv.building = true → step = stepNumber s.block (sheet s.block + 1) →
    Yields .stepBuild s (fun b => b.serv.building = false ∧ b.serv.buildStep = step ∧ (b.serv.built.getLast?).map (fun x => x.step) = some step ∧
      stepRead b (step % 2 * 0x200000) 8 = natLe 8 step ∧
      (sched s.block ≤ s.block.plan.sheetStart + rd s.block Reg.SES.BUILD → b.serv.bankReady.contains (step % 2) = true) ∧
      (s.block.plan.sheetStart + rd s.block Reg.SES.BUILD < sched s.block → b.serv.bankReady.contains (step % 2) = false))) ∧
  (∀ s : State, inJob s.block = true → jobState s.block = 3 → s.block.plan.halted = false → (ream s.block).mode ≠ 0 →
    stepStart s.block (sheet s.block + 1) = true → s.block.plan.sheetStart + rd s.block Reg.SES.BUILD ≤ sched s.block →
    s.block.serv.building = true →
    Yields .stepBuildDeadline s (fun b => stickyBit b sesPg ErrBit.SES.STEP_LATE = true ∧
      b.serv.bankReady.contains (stepNumber s.block (sheet s.block + 1) % 2) = false ∧ memKept s.block b ∧
      regsKept (reportKeys sesPg) s.block b))

/-- The tables and pages that a page copy touches do not meet: the data, the two page records, the session's entry, the tenant's quota. -/
def copyApart (s : Block) (m : Move) : Prop :=
  List.Pairwise (fun x y : Nat × Nat => meets x.1 x.2 y.1 y.2 = false)
    [(m.addr, 65536), (pageRecAddr s (1 - bits m.tag 76 1) (bits m.tag 20 28), 8), (pageRecAddr s (bits m.tag 76 1) (bits m.tag 48 28), 8),
     (sessAddr s (bits m.tag 0 20), 64), (quotaAddr s (pageTenant s (1 - bits m.tag 76 1) (bits m.tag 20 28)), 16)]

/-- The bytes of a results entry as they go to the host (R286). -/
def resultBody (s : Block) (r : Result) : List Byte := r.head.take 24 ++ natLe 4 s.serv.lost ++ r.head.drop 28 ++ resultBytes s r

/-- R179, R267, R268, R284, R287, R365: a page copy of a live session owns its target and quarantines its source, a zero write frees its page, the page records being
written in the queue's turn; the results entry that waits longest goes to the host's ring, in a job once HOST slots have carried it there, and RING_ENTRIES restarts the ring. Where the rules leave a reading open it rests on
the model's, log entries 37 and 38.
Concludes, from its hypotheses on state and operands alone, that exec answers a next state with the effect for: PAGE_COPY_COMPLETE,
PAGE_ZERO_COMPLETE, RESULTS_COPY, RING_ENTRIES_WRITE. -/
def Obligations.PagesMoveAndResultsGoOut : Prop :=
  (∀ (s : State) (u : MemUnit) (m : Move) (r : List Move), (unit s.block (unitNum u)).kv = m :: r → m.kind = 2 → m.len = 0 → m.bad = false →
    seState s.block (bits m.tag 0 20) = seACTIVE → copyApart s.block m →
    Yields (.pageCopyComplete u true) s (fun b => devRead b m.addr 65536 = slice m.data 0 65536 ∧
      pageState b (bits m.tag 76 1) (bits m.tag 48 28) = pgOWNED ∧
      pageState b (1 - bits m.tag 76 1) (bits m.tag 20 28) = pgQUARANTINE ∧
      rd b Reg.SES.QUARANTINE = (rd s.block Reg.SES.QUARANTINE + 1) % 2 ^ Reg.SES.QUARANTINE.width ∧
      (∃ q, (unit b (unitNum u)).kv = r ++ q))) ∧
  (∀ (s : State) (u : MemUnit) (m : Move) (r : List Move), (unit s.block (unitNum u)).kv = m :: r → m.kind = 3 → m.len = 0 →
    pageState s.block (bits m.tag 28 1) (bits m.tag 0 28) = pgQUARANTINE →
    (unitOf s.block (pageRecAddr s.block (bits m.tag 28 1) (bits m.tag 0 28))).isSome = true →
    Yields (.pageZeroComplete u true) s (fun b => (∃ q, (unit b (unitNum u)).kv = r ++ q) ∧
      pageState b (bits m.tag 28 1) (bits m.tag 0 28) = pgFREE ∧
      rd b Reg.SES.QUARANTINE = rd s.block Reg.SES.QUARANTINE - 1 ∧
      ∀ a, m.addr ≤ a → a < m.addr + 65536 → Memory.read b.store.dev a = 0)) ∧
  (∀ (s : State) (u : MemUnit) (m : Move) (r : List Move), (unit s.block (unitNum u)).kv = m :: r → m.kind = 3 → m.len = 0 →
    pageState s.block (bits m.tag 28 1) (bits m.tag 0 28) = pgQUARANTINE →
    Yields (.pageZeroComplete u false) s (fun b => (∃ q, (unit b (unitNum u)).kv = r ++ q) ∧ stickyBit b sesPg ErrBit.SES.PAGE_RETIRED = true ∧
      rd b Reg.SES.RETIRED = (rd s.block Reg.SES.RETIRED + 1) % 2 ^ Reg.SES.RETIRED.width)) ∧
  (∀ (s : State) (r : Result) (rest : List Result), s.block.serv.results = r :: rest → rd s.block Reg.SES.RING_ENTRIES ≠ 0 →
    dist32 s.block.serv.written (rd s.block Reg.SES.RING_CONSUMED) < rd s.block Reg.SES.RING_ENTRIES →
    (resultsAcross s.block (resultsUnit s.block) (2 ^ 42 + r.step) (resultBody s.block r).length).2 = true →
    Yields .resultsCopy s (fun b => b.serv.results = rest ∧ b.serv.written = (s.block.serv.written + 1) % 2 ^ 32 ∧ b.serv.lost = 0 ∧
      rd b Reg.SES.RESULTS_PENDING = rest.length % 2 ^ Reg.SES.RESULTS_PENDING.width ∧ memKept s.block b ∧
      regsKept [Reg.SES.RESULTS_PENDING.key] s.block b)) ∧
  (∀ (s : State) (r : Result) (rest : List Result) (u : Nat), s.block.serv.results = r :: rest → rd s.block Reg.SES.RING_ENTRIES ≠ 0 →
    dist32 s.block.serv.written (rd s.block Reg.SES.RING_CONSUMED) < rd s.block Reg.SES.RING_ENTRIES →
    inJob s.block = true → jobState s.block < 5 → u = resultsUnit s.block → (unit s.block u).hostq.length < 256 →
    (unit s.block u).hostq.find? (fun m => m.tag == 2 ^ 42 + r.step && m.kind == 9) = none →
    Yields .resultsCopy s (fun b => b.serv = s.block.serv ∧ b.store = s.block.store ∧ (unit b u).hostq = (unit s.block u).hostq ++
      [⟨9, 0, (resultBody s.block r).length, 2 ^ 42 + r.step, false, [], [], (resultBody s.block r).length⟩])) ∧
  (∀ (s : State) (rq : Requester) (v : BitVec 32), pageResponds s.block sesPg = true →
    takesAll s.block rq (Reg.SES.RING_ENTRIES.addr) = true →
    Yields (.ringEntriesWrite rq v) s (fun b => rd b Reg.SES.RING_ENTRIES = v.toNat % 2 ^ Reg.SES.RING_ENTRIES.width ∧
      memKept s.block b ∧ regsKept [Reg.SES.RING_ENTRIES.key] s.block b ∧
      (rd s.block Reg.SES.RING_ENTRIES = 0 → v.toNat % 2 ^ Reg.SES.RING_ENTRIES.width ≠ 0 →
        b.serv.written = rd s.block Reg.SES.RING_CONSUMED)))
/-! ### Weight intake -/

/-- The intake ended with a code: the set of an intake of weights is VERIFIED, EMPTY after an abort, else FAILED. -/
def intakeEnded (s b : Block) (code : Nat) : Prop :=
  intakeState b = 3 ∧ rd b Reg.HDB.HDB_STATUS_FAIL_CODE = code ∧ flag b Reg.HDB.HDB_STATUS_FAIL = (code != 0) ∧
    (intakeKind s = 0 → wsState b (intakeDesc s) = (if code = 0 then wsVERIFIED else if code = 11 then wsEMPTY else wsFAILED))

/-- R294–R296, R299–R301: OPEN begins an intake, its manifest is checked in order, each chunk that matches its leaf is decoded and written
where its entry says, at once or, in a job, in HEADBOX slots; the last one makes the set VERIFIED. Where the rules leave a reading open it rests on
the model's, log entry 34.
Concludes, from its hypotheses on state and operands alone, that exec answers a next state with the effect for: INTAKE_OPEN, MANIFEST_CHECK_COMPLETE,
CHUNK_COMPLETE, CHUNKS_AVAIL_WRITE, ABORT. -/
def Obligations.IntakeRunsFromManifestToLastChunk : Prop :=
  (∀ (s : State) (rq : Requester) (d : Fin 4), guardOpen s.block rq = true → pageResponds s.block hdbPg = true → intakeBusy s.block = false →
    wsState s.block d = wsEMPTY →
    (openKind s.block = 0 → ∀ i : Fin 4, i ≠ d → wsState s.block i = wsEMPTY ∨ wsSet s.block i ≠ wsSet s.block d) →
    Yields (.intakeOpen rq d) s (fun b => intakeState b = 1 ∧ intakeDesc b = d ∧ intakeKind b = openKind s.block ∧
      rd b Reg.HDB.CHUNKS_DONE = 0 ∧ wsState b d = (if openKind s.block = 0 then wsLOADING else wsEMPTY) ∧ guardOpen b rq = false ∧
      memKept s.block b)) ∧
  (∀ (s : State) (h m : List Byte), intakeState s.block = 1 → s.block.hdb.aborting = false → intakePaused s.block = false →
    s.block.hdb.copying = false → mapped s.block = false →
    h = hostRead s.block (rd s.block Reg.HDB.MAN_ADDR) 0x100 → manBaseOk s.block (rd s.block Reg.HDB.MAN_BASE) = true →
    manHeaderOk h = true → m = hostRead s.block (rd s.block Reg.HDB.MAN_ADDR) (manLen (manChunks h)) →
    Yields .manifestCheckComplete s (fun b => devAfter s.block [(rd s.block Reg.HDB.MAN_BASE, m)] b ∧
      (manifestCode s.block h m = 0 → intakeState b = 2 ∧ b.hdb.next = 0 ∧ b.hdb.chunks = manChunks h) ∧
      (manifestCode s.block h m ≠ 0 → intakeEnded s.block b (manifestCode s.block h m)))) ∧
  (∀ (s : State) (h m : List Byte) (u : Nat), intakeState s.block = 1 → s.block.hdb.aborting = false → intakePaused s.block = false →
    s.block.hdb.copying = false → mapped s.block = true → manBaseOk s.block (rd s.block Reg.HDB.MAN_BASE) = true →
    h = hostRead s.block (rd s.block Reg.HDB.MAN_ADDR) 0x100 → manHeaderOk h = true →
    m = hostRead s.block (rd s.block Reg.HDB.MAN_ADDR) (manLen (manChunks h)) → u = rd s.block Reg.HDB.MAN_BASE / 0x1000000000 →
    Yields .manifestCheckComplete s (fun b => b.hdb.copying = true ∧ b.store = s.block.store ∧
      (unit b u).headbox = (unit s.block u).headbox ++
        [⟨5, rd s.block Reg.HDB.MAN_BASE, m.length, manifestTag, false, [], m, m.length⟩])) ∧
  (∀ (s : State) (h m : List Byte), intakeState s.block = 1 → s.block.hdb.aborting = false → intakePaused s.block = false →
    s.block.hdb.copying = true → queuedChunks s.block = [] → h = devRead s.block (rd s.block Reg.HDB.MAN_BASE) 0x100 →
    m = devRead s.block (rd s.block Reg.HDB.MAN_BASE) (manLen (manChunks h)) →
    Yields .manifestCheckComplete s (fun b => memKept s.block b ∧ b.hdb.copying = false ∧
      (manifestCode s.block h m = 0 → intakeState b = 2 ∧ b.hdb.next = 0 ∧ b.hdb.chunks = manChunks h) ∧
      (manifestCode s.block h m ≠ 0 → intakeEnded s.block b (manifestCode s.block h m)))) ∧
  (∀ (s : State) (e : Entry) (stored d o : List Byte) (a ea : Nat), intakeState s.block = 2 → intakePaused s.block = false →
    s.block.hdb.aborting = false → s.block.hdb.next < s.block.hdb.chunks →
    s.block.hdb.next < rd s.block Reg.HDB.CHUNKS_AVAIL → ea = rd s.block Reg.HDB.MAN_BASE + 0x100 + 64 * s.block.hdb.next →
    poisoned s.block ea 64 = false → e = entryOf (devRead s.block ea 64) →
    stored = hostRead s.block (rd s.block Reg.HDB.CHUNK_ADDR + 1048576 * s.block.hdb.next) e.stored → sha256 (0 :: stored) = e.leaf →
    decodeChunk e stored = some d → outputOf e d = some o →
    target s.block (intakeKind s.block) (devNum s.block (rd s.block Reg.HDB.MAN_BASE + 0x10) 8) e = some a →
    queuedChunks s.block = [] →
    Yields .chunkComplete s (fun b => b.hdb.next = s.block.hdb.next + 1 ∧
      (mapped s.block = false → devAfter s.block [(a, o)] b ∧
        rd b Reg.HDB.CHUNKS_DONE = (s.block.hdb.next + 1) % 2 ^ Reg.HDB.CHUNKS_DONE.width ∧
        (s.block.hdb.next + 1 = s.block.hdb.chunks → intakeEnded s.block b 0)) ∧
      (mapped s.block = true → memKept s.block b ∧ (a < 0xC000000000 → (unit b (a / 0x1000000000)).headbox =
        (unit s.block (a / 0x1000000000)).headbox ++ [⟨5, a, o.length, s.block.hdb.next, false, [], o, o.length⟩])))) ∧
  (∀ (s : State) (e : Entry) (ea : Nat), intakeState s.block = 2 → intakePaused s.block = false →
    s.block.hdb.aborting = false → s.block.hdb.next < s.block.hdb.chunks →
    s.block.hdb.next < rd s.block Reg.HDB.CHUNKS_AVAIL → ea = rd s.block Reg.HDB.MAN_BASE + 0x100 + 64 * s.block.hdb.next →
    poisoned s.block ea 64 = false → e = entryOf (devRead s.block ea 64) →
    sha256 (0 :: hostRead s.block (rd s.block Reg.HDB.CHUNK_ADDR + 1048576 * s.block.hdb.next) e.stored) ≠ e.leaf →
    Yields .chunkComplete s (fun b => intakeEnded s.block b 6 ∧ stickyBit b hdbPg ErrBit.HDB.CHUNK_HASH_FAIL = true ∧
      rd b Reg.HDB.FAIL_CHUNK_INDEX = s.block.hdb.next % 2 ^ 20 ∧ flag b Reg.HDB.FAIL_CHUNK_VALID = true ∧ memKept s.block b)) ∧
  (∀ (s : State) (rq : Requester) (v : BitVec 32), pageResponds s.block hdbPg = true →
    takesAll s.block rq (0x6058) = true →
    Yields (.chunksAvailWrite rq v) s (fun b => rd b Reg.HDB.CHUNKS_AVAIL = v.toNat % 2 ^ 21 ∧ memKept s.block b ∧
      regsKept [Reg.HDB.CHUNKS_AVAIL.key] s.block b)) ∧
  (∀ (s : State) (rq : Requester) (d : Fin 4), guardOpen s.block rq = true → pageResponds s.block hdbPg = true → intakeBusy s.block = true →
    intakeDesc s.block = d → queuedChunks s.block = [] →
    Yields (.hdbAbort rq d) s (fun b => intakeEnded s.block b 11 ∧ b.hdb.aborting = false ∧ guardOpen b rq = false ∧ memKept s.block b))

/-- R294, R299, R300: a VERIFIED or STANDBY set is activated outside a job and the one before it stands by, a set that nothing needs is
released, and the regions and the manifest area take a place that meets no other. Where the rules leave a reading open it rests on
the model's, log entry 34.
Concludes, from its hypotheses on state and operands alone, that exec answers a next state with the effect for: ACTIVATE, SET_RELEASE,
WS_DESCRIPTOR_WRITE, MAN_BASE_WRITE. -/
def Obligations.WeightSetsChangeHands : Prop :=
  (∀ (s : State) (rq : Requester) (d : Fin 4), guardOpen s.block rq = true → pageResponds s.block hdbPg = true → inJob s.block = false →
    wsState s.block d = wsVERIFIED ∨ wsState s.block d = wsSTANDBY →
    Yields (.hdbActivate rq d) s (fun b => wsState b d = wsACTIVE ∧ rd b Reg.HDB.WPTR = rd s.block (Reg.HDB.WS_OFFSET d) ∧
      (∀ i : Fin 4, i ≠ d → wsState b i = (if wsState s.block i = wsACTIVE then wsSTANDBY else wsState s.block i)) ∧
      guardOpen b rq = false ∧ memKept s.block b)) ∧
  (∀ (s : State) (rq : Requester) (d : Fin 4), guardOpen s.block rq = true → pageResponds s.block hdbPg = true →
    releaseRefused s.block d = false → wsState s.block d = wsVERIFIED ∨ wsState s.block d = wsSTANDBY ∨ wsState s.block d = wsFAILED →
    Yields (.setRelease rq d) s (fun b => wsState b d = wsEMPTY ∧ flag b (Reg.HDB.WS_CTRL_DAMAGED d) = false ∧ guardOpen b rq = false ∧
      memKept s.block b ∧ regsKept [(Reg.HDB.WS_CTRL_STATE d).key, (Reg.HDB.WS_CTRL_DAMAGED d).key, Reg.HDB.CMD_DESC.key] s.block b)) ∧
  (∀ (s : State) (rq : Requester) (d : Fin 4), guardOpen s.block rq = true → pageResponds s.block hdbPg = true →
    releaseRefused s.block d = true →
    Yields (.setRelease rq d) s (fun b => wsState b d = wsState s.block d ∧ stickyBit b hdbPg ErrBit.HDB.CMD_REFUSED = true ∧
      memKept s.block b)) ∧
  (∀ (s : State) (rq : Requester) (d : Fin 4) (v : BitVec 32), pageResponds s.block hdbPg = true → wsState s.block d = wsEMPTY →
    takesAll s.block rq (0x6080 + 16 * d) = true →
    Yields (.wsDescriptorWrite rq d 0 v) s (fun b => wsSet b d = v.toNat % 256 ∧ wsState b d = wsEMPTY ∧ memKept s.block b ∧
      regsKept [(Reg.HDB.WS_CTRL_SET d).key] s.block b)) ∧
  (∀ (s : State) (rq : Requester) (d : Fin 4) (v : BitVec 32), pageResponds s.block hdbPg = true → wsState s.block d = wsEMPTY →
    takesAll s.block rq (0x6084 + 16 * d) = true →
    Yields (.wsDescriptorWrite rq d 1 v) s (fun b => memKept s.block b ∧
      (regionClash s.block d (65536 * (v.toNat % 2 ^ 21)) (wsLen s.block d) = false → rd b (Reg.HDB.WS_OFFSET d) = v.toNat % 2 ^ 21 ∧
        regsKept [(Reg.HDB.WS_OFFSET d).key] s.block b) ∧
      (regionClash s.block d (65536 * (v.toNat % 2 ^ 21)) (wsLen s.block d) = true → stickyBit b hdbPg ErrBit.HDB.RANGE = true ∧
        regsKept (reportKeys hdbPg) s.block b))) ∧
  (∀ (s : State) (rq : Requester) (hi : Bool) (v : BitVec 32) (new : Nat), pageResponds s.block hdbPg = true → intakeState s.block = 0 →
    new = (if hi then rd s.block Reg.HDB.MAN_BASE % 2 ^ 32 + v.toNat % 2 ^ 16 * 2 ^ 32
      else rd s.block Reg.HDB.MAN_BASE / 2 ^ 32 * 2 ^ 32 + v.toNat) →
    takesAll s.block rq (if hi then 0x6074 else 0x6070) = true →
    Yields (.manBaseWrite rq hi v) s (fun b => memKept s.block b ∧
      (manClash s.block new = false → rd b Reg.HDB.MAN_BASE = new ∧ regsKept [Reg.HDB.MAN_BASE.key] s.block b) ∧
      (manClash s.block new = true → stickyBit b hdbPg ErrBit.HDB.RANGE = true ∧ regsKept (reportKeys hdbPg) s.block b)))
/-! ### Teardown and kept ranges -/

/-- R344–R347: an admitted TEARDOWN without a reason against it is named, at its tick the job drains, 2,048 ticks on nothing is held or
carried any more, the scrub zeroes what the job used, and at its end the module is out of the job. Where the rules leave a reading open it rests on
the model's, log entry 45.
Concludes, from its hypotheses on state and operands alone, that exec answers a next state with the effect for: TEARDOWN, TEARDOWN_TICK,
TEARDOWN_DRAIN_END, TEARDOWN_SCRUB_START, TEARDOWN_SCRUB_COMPLETE. -/
def Obligations.TeardownTakesItsCourse : Prop :=
  (∀ (s : State) (rq : Requester), guardOpen s.block rq = true → teardownCode s.block ≠ 0 →
    Yields (.teardown rq) s (fun b => rd b Reg.GLB.JOB_STATUS_TEARDOWN_CODE = teardownCode s.block ∧
      stickyBit b 0 ErrBit.GLB.TEARDOWN_REFUSED = true ∧ b.plan = s.block.plan ∧ jobState b = jobState s.block ∧ guardOpen b rq = false ∧
      memKept s.block b)) ∧
  (∀ (s : State) (rq : Requester), guardOpen s.block rq = true → teardownCode s.block = 0 → jobState s.block = 2 ∨ jobState s.block = 3 →
    Yields (.teardown rq) s (fun b => rd b Reg.GLB.JOB_STATUS_TEARDOWN_CODE = 0 ∧ b.plan.teardownNamed = true ∧
      b.plan.teardownSheet = rd s.block Reg.GLB.TEARDOWN_SHEET ∧ jobState b = jobState s.block ∧ guardOpen b rq = false ∧
      memKept s.block b)) ∧
  (∀ (s : State) (rq : Requester), guardOpen s.block rq = true → teardownCode s.block = 0 → jobState s.block = 4 →
    Yields (.teardown rq) s (fun b => b.plan.teardownNamed = true ∧
      rd b Reg.GLB.TEARDOWN_TICK = (now s.block + 1023) / 1024 * 1024 % 2 ^ 64 ∧ memKept s.block b)) ∧
  (∀ s : State, teardownDue s.block = true →
    Yields .teardownTick s (fun b => jobState b = 5 ∧ b.plan.teardownNamed = false ∧ b.plan.halted = true ∧ b.plan.granted = 0 ∧
      b.plan.drained = false ∧ b.plan.windowOpen = false)) ∧
  (∀ s : State, jobState s.block = 5 → s.block.plan.drained = false → rd s.block Reg.GLB.TEARDOWN_TICK + 2048 ≤ now s.block →
    Yields .teardownDrainEnd s (fun b => b.mesh = [] ∧ b.side = s.block.side ∧ b.plan.drained = true ∧ (∀ p : Fin 12, (prt b p).couch = []) ∧
      (∀ e : SlotEng, (eng b (slotNum e)).held = []) ∧ b.store = s.block.store)) ∧
  (∀ s : State, jobState s.block = 5 → s.block.plan.drained = true → movesDone s.block = true →
    Yields .teardownScrubStart s (fun b => jobState b = 6 ∧
      (∀ a, 0x80000000000 ≤ a → a < 0x90000000000 → Memory.read b.store.dev a = 0) ∧
      (∀ a, a < 0x1000000 → Memory.read b.store.step a = 0) ∧ (∀ a, a < 834 * 0x20000 → Memory.read b.store.imem a = 0) ∧
      (∀ a, 0x21000 ≤ a → a < 0x400000 → Memory.read b.store.staging a = 0))) ∧
  (∀ s : State, jobState s.block = 6 →
    Yields .teardownScrubComplete s (fun b => jobState b = 0 ∧ inJob b = false ∧ flag b Reg.GLB.MODULE_STATE_PENDING = false ∧
      rd b Reg.GLB.TEARDOWN_TICK = 0 ∧ (inJob s.block = true → b.plan.ream = none) ∧
      (∀ (cl : Fin 16) (k : Fin 6), flag b (Reg.COR.ENGINE_MASK_IN_JOB (corPage cl k)) = false) ∧
      (∀ p : Fin 12, flag b (Reg.PRT.PORT_STATUS_IN_JOB (prtPage p)) = false)))

/-- R392, R393: entries are named and unnamed by their length, KEPT entries are released by their selection, and a range is zero when its
release completes. Where the rules leave a reading open it rests on
the model's, log entry 45.
Concludes, from its hypotheses on state and operands alone, that exec answers a next state with the effect for: RELEASE_KEPT, KEPT_RELEASE_COMPLETE,
KEPT_ENTRY_WRITE. -/
def Obligations.KeptRangesAreNamedAndReleased : Prop :=
  (∀ (s : State) (rq : Requester) (r : Fin 16) (v : BitVec 32), keptBusy s.block r = false →
    takesAll s.block rq (0x108 + 16 * r) = true →
    Yields (.keptEntryWrite rq r 2 v) s (fun b => rd b (Reg.GLB.KEPT_LEN r) = v.toNat % 2 ^ 28 ∧
      keptState b r = (if v.toNat % 2 ^ 28 = 0 then 0 else 1) ∧ memKept s.block b ∧
      regsKept [(Reg.GLB.KEPT_LEN r).key, (Reg.GLB.KEPT_STATE_STATE r).key] s.block b)) ∧
  (∀ (s : State) (rq : Requester) (r : Fin 16) (v : BitVec 32), keptBusy s.block r = false →
    takesAll s.block rq (0x100 + 16 * r) = true →
    Yields (.keptEntryWrite rq r 0 v) s (fun b =>
      rd b (Reg.GLB.KEPT_BASE r) = rd s.block (Reg.GLB.KEPT_BASE r) / 2 ^ 32 * 2 ^ 32 + v.toNat ∧ memKept s.block b ∧
      regsKept [(Reg.GLB.KEPT_BASE r).key, (Reg.GLB.KEPT_STATE_STATE r).key] s.block b)) ∧
  (∀ (s : State) (rq : Requester) (r : Fin 16) (reg : Fin 3) (v : BitVec 32), keptBusy s.block r = true →
    Yields (.keptEntryWrite rq r reg v) s (fun b => b = s.block)) ∧
  (∀ (s : State) (rq : Requester), guardOpen s.block rq = true →
    Yields (.releaseKept rq) s (fun b => guardOpen b rq = false ∧ memKept s.block b ∧ ∀ r : Fin 16, keptState b r =
      (if bit (rd s.block Reg.GLB.KEPT_SELECT) r = true ∧ keptState s.block r = 2 ∧ keptNow s.block r = false then 3 else keptState s.block r))) ∧
  (∀ (s : State) (r : Fin 16), keptState s.block r = 3 →
    Yields (.keptReleaseComplete r) s (fun b => keptState b r = 0 ∧ rd b (Reg.GLB.KEPT_LEN r) = 0 ∧ rd b (Reg.GLB.KEPT_BASE r) = 0 ∧
      (∀ a, keptBase s.block r ≤ a → a < keptBase s.block r + keptLen s.block r → Memory.read b.store.dev a = 0) ∧
      (∀ a, a < keptBase s.block r ∨ keptBase s.block r + keptLen s.block r ≤ a →
        Memory.read b.store.dev a = Memory.read s.block.store.dev a)))
/-! ### Resets of the module, pins, supply, the PCIe function -/

/-- R306, R321, R329, R331, R336, R349, R396, R431, R436: a module reset by command, by a reset input of 500 ns, by the supply, by 112 °C or by
power-on leaves the module in reset; only the supply and power-on lose DDR5, and a supply or thermal reset leaves its last-gasp record; the end of PERST_N
lets the endpoint train, and a link that is not x16 at 128 GT/s is LINK_DOWNTRAIN. Where the rules leave a reading open it rests on
the model's, log entries 4, 9, 13, 33 and 39.
Concludes, from its hypotheses on state and operands alone, that exec answers a next state with the effect for: SUPPLY_RESET, THERMAL_RESET, PERST_N,
MOD_RST_N, MGT_RST_N, MODULE_RESET, POWER_ON, RESET_INPUT_RELEASE. -/
def Obligations.ModuleResets : Prop :=
  (∀ (s : State) (rq : Requester), guardOpen s.block rq = true → s.block.mgmt.modReset = false →
    Yields (.moduleReset (some rq)) s (fun b => moduleInReset b ∧ b.mgmt.stage = s.block.mgmt.stage ∧ guardOpen b .host = false ∧
      guardOpen b .mgt = false)) ∧
  (∀ s : State, s.block.mgmt.modReset = false →
    Yields (.moduleReset none) s (fun b => moduleInReset b ∧ b.mgmt.stage = s.block.mgmt.stage)) ∧
  (∀ (s : State) (ns : Nat), 500 ≤ ns → s.block.mgmt.pinsLow = [] →
    Yields (.perstN ns) s (fun b => moduleInReset b ∧ b.mgmt.pinsLow = [1] ∧ b.mgmt.stage = s.block.mgmt.stage ∧ b.pcie.dma = [] ∧
      b.pcie.unmasked = 0)) ∧
  (∀ (s : State) (ns : Nat), 500 ≤ ns → s.block.mgmt.pinsLow = [] →
    Yields (.modRstN ns) s (fun b => moduleInReset b ∧ b.mgmt.pinsLow = [2] ∧ b.mgmt.stage = s.block.mgmt.stage)) ∧
  (∀ (s : State) (ns : Nat), 500 ≤ ns → s.block.mgmt.pinsLow = [] →
    Yields (.mgtRstN ns) s (fun b => moduleInReset b ∧ b.mgmt.pinsLow = [0] ∧ b.mgmt.stage = 0)) ∧
  (∀ (s : State) (ns : Nat), ns < 500 → Yields (.perstN ns) s (fun b => b = s.block) ∧ Yields (.modRstN ns) s (fun b => b = s.block) ∧
    Yields (.mgtRstN ns) s (fun b => b = s.block)) ∧
  (∀ (s : State) (pin : ResetPin), pin ≠ .perst → s.block.mgmt.pinsLow = [pinNum pin] →
    Yields (.resetInputRelease pin) s (fun b =>
      b = { s.block with mgmt := { s.block.mgmt with pinsLow := [], since := s.block.mgmt.clock } })) ∧
  (∀ s : State, s.block.mgmt.pinsLow = [1] →
    Yields (.resetInputRelease .perst) s (fun b => b.mgmt.pinsLow = [] ∧ memKept s.block b ∧
      1 ≤ rd b Reg.PCI.PCI_STATUS_SPEED ∧ rd b Reg.PCI.PCI_STATUS_SPEED ≤ 7 ∧ rd b Reg.PCI.PCI_STATUS_WIDTH ∈ [1, 4, 8, 16] ∧
      (6 ≤ rd b Reg.PCI.PCI_STATUS_SPEED → flag b Reg.PCI.PCI_STATUS_FLIT = true) ∧
      (rd b Reg.PCI.PCI_STATUS_SPEED ≠ 7 ∨ rd b Reg.PCI.PCI_STATUS_WIDTH ≠ 16 → stickyBit b pciPg ErrBit.PCI.LINK_DOWNTRAIN = true))) ∧
  (∀ (s : State) (mv : Nat), mv < 38500 →
    Yields (.supplyReset mv) s (fun b => moduleInReset b ∧ b.mgmt.stage = 0 ∧ b.store.dev = [] ∧ b.poison = [] ∧
      b.mgmt.gaspCount = s.block.mgmt.gaspCount + 1)) ∧
  (∀ (s : State) (p : Fin 64) (d : Nat), 112 ≤ d → s.block.mgmt.modReset = false →
    Yields (.thermalReset p d) s (fun b => moduleInReset b ∧ b.mgmt.stage = s.block.mgmt.stage ∧
      b.mgmt.gaspCount = s.block.mgmt.gaspCount + 1)) ∧
  (∀ s : State, Yields .powerOn s (fun b => moduleInReset b ∧ b.mgmt.stage = 0 ∧ b.store.dev = [] ∧ b.pcie.dma = []))

/-- R71, R331, R351, R402, R405, R435: recovery calibrates the crossings and leaves every engine IDLE, or fails the boot; FLR and D3hot stop the
function's queues and leave the job alone. Where the rules leave a reading open it rests on
the model's, log entries 5 and 39.
Concludes, from its hypotheses on state and operands alone, that exec answers a next state with the effect for: FLR, D3HOT_ENTRY, MODULE_RESET_DONE,
FLR_COMPLETE, D3HOT_EXIT. -/
def Obligations.RecoveryEndsAndTheFunctionResets : Prop :=
  (∀ (s : State) (r : Recovery), s.block.mgmt.modReset = true → s.block.mgmt.pinsLow = [] → s.block.mgmt.stage = 2 ∨ s.block.mgmt.stage = 3 →
    xingOver s.block r = none → r.bistOk = true → r.harvestOk = true → r.trimFail = none → r.abort = none →
    Yields (.moduleResetDone r) s (fun b => b.mgmt.modReset = false ∧ b.mgmt.calOk = true ∧
      flag b Reg.GLB.MODULE_STATE_MODULE_RESET = false ∧ flag b Reg.PCI.PCI_STATUS_MODULE_RESET = false ∧
      flag b Reg.HARV.HARVEST_SRC_BIST_OK = true ∧
      (∀ i : Fin 6, rd b (Reg.TBS.XING_LAT_CAL i) = r.xing.getD i 0 % 2 ^ (Reg.TBS.XING_LAT_CAL 0).width) ∧
      (∀ e : EngineId, engState b (engNum e) = 1) ∧ (∀ cl : Fin 16, rd b (Reg.CLK.FREQ_NOW_NOW (clkPage cl)) = 130))) ∧
  (∀ (s : State) (r : Recovery), s.block.mgmt.modReset = true → s.block.mgmt.pinsLow = [] → s.block.mgmt.stage = 2 ∨ s.block.mgmt.stage = 3 →
    xingOver s.block r = none → r.bistOk = false →
    Yields (.moduleResetDone r) s (fun b => moduleInReset b ∧ b.mgmt.stage = 0 ∧ rd b (Reg.MGT.BOOT_REPORT_LO_REASON 0) = 0x20)) ∧
  (∀ (s : State) (r : Recovery) (n : Fin 64), s.block.mgmt.modReset = true → s.block.mgmt.pinsLow = [] →
    s.block.mgmt.stage = 2 ∨ s.block.mgmt.stage = 3 → xingOver s.block r = none → r.bistOk = true → r.harvestOk = true → r.trimFail = some n →
    Yields (.moduleResetDone r) s (fun b => moduleInReset b ∧ b.mgmt.stage = 0 ∧ rd b (Reg.MGT.BOOT_REPORT_LO_REASON 0) = 0x23 ∧
      rd b (Reg.MGT.BOOT_REPORT_HI 0) = n)) ∧
  (∀ s : State, Yields .flr s (fun b => b.pcie.dma = [] ∧ b.pcie.unmasked = 0 ∧ b.pcie.image = [] ∧ b.pcie.flrBusy = true ∧
    guardOpen b .host = false ∧ (∀ q : Fin 8, flag b (Reg.PCI.Q_CTRL_ENABLE q) = false) ∧ rd b Reg.SES.RING_ENTRIES = 0 ∧
    flag b Reg.PCI.EVT_CTRL_ENABLE = false ∧ flag b Reg.PCI.MBX_CTRL_ENABLE = false ∧ inJob b = inJob s.block ∧ now b = now s.block ∧
    memKept s.block b)) ∧
  (∀ s : State, s.block.pcie.flrBusy = true → flag s.block Reg.PCI.EVT_CTRL_ENABLE = false →
    Yields .flrComplete s (fun b => b = { s.block with pcie := { s.block.pcie with flrBusy := false, flrDone := true } })) ∧
  (∀ s : State, s.block.pcie.flrBusy = true → flag s.block Reg.PCI.EVT_CTRL_ENABLE = true →
    dist32 (rd s.block Reg.PCI.EVT_WRITTEN) (rd s.block Reg.PCI.EVT_CONSUMED) < 64 →
    Yields .flrComplete s (fun b => b.pcie.flrBusy = false ∧
      rd b Reg.PCI.EVT_WRITTEN = (rd s.block Reg.PCI.EVT_WRITTEN + 1) % 2 ^ 32 ∧ memKept s.block b ∧
      regsKept [Reg.PCI.EVT_WRITTEN.key] s.block b)) ∧
  (∀ s : State, Yields .d3hotEntry s (fun b => flag b Reg.PCI.PCI_STATUS_D3HOT = true ∧ b.pcie.dma = [] ∧
    (∀ q : Fin 8, flag b (Reg.PCI.Q_CTRL_ENABLE q) = false) ∧ inJob b = inJob s.block ∧ memKept s.block b)) ∧
  (∀ s : State, Yields .d3hotExit s (fun b => flag b Reg.PCI.PCI_STATUS_D3HOT = false ∧
    onlyRegs [Reg.PCI.PCI_STATUS_D3HOT.key] s.block b))

/-! ### The host's windows, staging memory, DMA, loading -/

/-- No side traffic is under way, and none waits at a memory unit. -/
def nothingUnderWay (s : Block) : Prop := s.side = [] ∧ ∀ x ∈ s.units, x.2.readback = []

/-- R208, R243, R263, R353–R356: a window shows what it maps, with the session entries that the cache holds, and zeros beyond it; in a job a
DEVICE read sets out as side traffic and shows what came back when it is asked for again; a permitted DEVICE write reaches device memory, at
once or, in a job, as side traffic; the other windows
write the inactive bank, staging memory as the plan will see it after its crossing, and the inactive rank table. Where the rules leave a reading open it rests on
the model's, log entries 21 and 43.
Concludes, from its hypotheses on state and operands alone, that exec answers a next state with the effect for: DEVICE_WINDOW_READ,
DEVICE_WINDOW_WRITE, IMEM_WINDOW_WRITE, STAGING_WRITE, NETIF_WINDOW_WRITE. -/
def Obligations.WindowsReadAndWriteWhatTheyMap : Prop :=
  (∀ (s : State) (off n w a : Nat), w = off / winSize s.block → w < 16 → winKind s.block w = 1 → a = winBase s.block w + off % winSize s.block →
    (devIn s.block a n = true → mapped s.block = false → badBlocks (drainSide s.block) a (ceilDiv (a % 64 + n) 64) = [] →
      Yields (.deviceWindowRead off n) s (fun b =>
        b.reply = (cachedView s.block a (devReadSafe (drainSide s.block) a n)).map (fun x => x.toNat) ∧
        b.store.regs = s.block.store.regs)) ∧
    (devIn s.block a n = true → mapped s.block = true → Tab.get s.block.sideWait 0 (windowTag a n) = 0 →
      Yields (.deviceWindowRead off n) s (fun b => b.reply = s.block.reply ∧ b.store = s.block.store ∧
        Tab.get b.sideWait 0 (windowTag a n) = (linesOf a n).length + 1)) ∧
    (∀ (k : Nat) (got : List SideFlit), devIn s.block a n = true → mapped s.block = true →
      Tab.get s.block.sideWait 0 (windowTag a n) = k + 1 → got = s.block.sideIn.filter (fun f => f.tag == windowTag a n) →
      k ≤ got.length → badBlocks s.block a (ceilDiv (a % 64 + n) 64) = [] →
      Yields (.deviceWindowRead off n) s (fun b => b.store = s.block.store ∧
        b.reply = (cachedView s.block a (gatherAnswers got a n)).map (fun x => x.toNat))) ∧
    (devIn s.block a n = false →
      Yields (.deviceWindowRead off n) s (fun b => b.reply = List.replicate n 0 ∧ stickyBit b pci ErrBit.PCI.WIN_RANGE = true ∧
        memKept s.block b ∧ regsKept (reportKeys pci) s.block b))) ∧
  (∀ (s : State) (off n w : Nat), w = off / winSize s.block → w < 16 → winKind s.block w = 3 → off % winSize s.block + n ≤ 0x800000 →
    stagingLead s.block = true →
    Yields (.deviceWindowRead off n) s (fun b => b.store = s.block.store ∧
      b.reply = (Memory.readN (stagingAll s.block) (off % winSize s.block) n).map (fun x => x.toNat))) ∧
  (∀ (s : State) (off n w : Nat), w = off / winSize s.block → 16 ≤ w ∨ winKind s.block w = 0 ∨ winKind s.block w = 7 →
    Yields (.deviceWindowRead off n) s (fun b => b.store = s.block.store ∧ b.reply = List.replicate n 0)) ∧
  (∀ (s : State) (off w a : Nat) (d : List Byte), w = off / winSize s.block → w < 16 → winKind s.block w = 1 →
    a = winBase s.block w + off % winSize s.block → devIn s.block a d.length = true →
    (flag s.block (Reg.PCI.WIN_CTRL_WRITE w) = true → inQuota s.block a d.length = false → stateSlot s.block a d.length = none →
      hostMayWrite s.block a d.length = true →
      Yields (.deviceWindowWrite off d) s (fun b => b.store.regs = s.block.store.regs ∧
        (mapped s.block = false → nothingUnderWay s.block → devAfter s.block [(a, d)] b) ∧
        (mapped s.block = true → d ≠ [] → a % 256 + d.length ≤ 256 → (∀ u, unitOf s.block a = some u → u < 12) → memKept s.block b ∧
          sideQueue b (sideEdge a) 14 = sideQueue s.block (sideEdge a) 14 ++ [⟨a, d.length, d, 0, true, false, false⟩]))) ∧
    (flag s.block (Reg.PCI.WIN_CTRL_WRITE w) = false →
      Yields (.deviceWindowWrite off d) s (fun b => stickyBit b pci ErrBit.PCI.WIN_DENIED = true ∧ memKept s.block b ∧
        tablesKept s.block b ∧ regsKept (reportKeys pci) s.block b))) ∧
  (∀ (s : State) (e : EngineId) (off : Nat) (d : List Byte), off + d.length ≤ 0x20000 →
    (0x10000 ≤ off → (eng s.block (engNum e)).tailBank ≠ some (inactiveBank s.block (engNum e)) →
      Yields (.imemWindowWrite e off d) s (fun b => bankReady b (engNum e) = false ∧ (∀ m, m ≠ engNum e → eng b m = eng s.block m) ∧
        regsKept [(Reg.ENG.BANK_CTRL_READY (engBlock (engNum e))).key] s.block b ∧
        ∀ x, Memory.read b.store.imem x = Memory.read (Memory.writeN s.block.store.imem
          ((2 * engNum e + inactiveBank s.block (engNum e)) * 65536 + (off - 0x10000)) d) x)) ∧
    (off < 0x10000 → Yields (.imemWindowWrite e off d) s (fun b =>
      engSticky b (engNum e) ErrBit.ENG.IMEM_ACTIVE_WRITE = true ∧ memKept s.block b))) ∧
  (∀ (s : State) (off : Nat) (d : List Byte), off + d.length ≤ 0x800000 → stagingLead s.block = true →
    Yields (.stagingWrite off d) s (fun b => b.store.regs = s.block.store.regs ∧
      b.pcie.stagingQ.getLast? = some (now s.block + rd s.block (Reg.TBS.XING_LAT_CAL 4), off, d) ∧
      ∀ x, Memory.read (stagingNow b) x = Memory.read (stagingNow s.block) x)) ∧
  (∀ (s : State) (off : Nat) (d : List Byte), d ≠ [] →
    ((1 - activeTable s.block) * 0x40000 ≤ off → off + d.length ≤ (1 - activeTable s.block) * 0x40000 + 0x40000 →
      flag s.block Reg.NI.NI_TABLE_TAIL = false →
      Yields (.netifWindowWrite off d) s (fun b => flag b Reg.NI.NI_TABLE_READY = false ∧
        regsKept [Reg.NI.NI_TABLE_READY.key] s.block b ∧
        ∀ x, Memory.read b.store.rank x = Memory.read (Memory.writeN s.block.store.rank off d) x)) ∧
    (activeTable s.block * 0x40000 ≤ off → off + d.length ≤ activeTable s.block * 0x40000 + 0x40000 →
      Yields (.netifWindowWrite off d) s (fun b => b = s.block)))

/-- No unit holds a host transfer of a tag. -/
def noHostWait (s : Block) (tag : Nat) : Prop := ∀ u, (unit s u).hostq.find? (fun m => m.tag == tag && m.kind != 8) = none

/-- A descriptor of a queue has its result. -/
def dmaEnded (b : Block) (q : Nat) (x : Dma) (status moved : Nat) : Prop :=
  ∃ y ∈ dmaOf b q, y.index = x.index ∧ y.desc = x.desc ∧ y.status = some status ∧ y.moved = moved

/-- R100, R179, R357, R358: an advanced Q_TAIL starts the descriptor at the head; outside a job H2D and D2H move their bytes between the host
and device memory at once, in one they wait for their HOST slots and end when these have carried them; IMEM_H2D writes the inactive bank, REMOTE_READ sends a request and lands its answer; the oldest ended descriptor
completes with its entry; a disabled queue ends what it had not begun. Where the rules leave a reading open it rests on
the model's, log entry 44.
Concludes, from its hypotheses on state and operands alone, that exec answers a next state with the effect for: Q_TAIL_WRITE, H2D, D2H, REMOTE_READ,
IMEM_H2D, DMA_COMPLETE, Q_DISABLE. -/
def Obligations.DmaDescriptorsMoveTheirBytesAndComplete : Prop :=
  (∀ (s : State) (rq : Requester) (q : Fin 8) (v : BitVec 32), flag s.block (Reg.PCI.Q_CTRL_ENABLE q) = true → dmaOf s.block q = [] →
    rd s.block (Reg.PCI.Q_HEAD q) ≠ v.toNat % 2 ^ 16 % qLen s.block q →
    takesAll s.block rq (pci + 0x214 + 32 * q) = true →
    Yields (.qTailWrite rq q v) s (fun b => rd b (Reg.PCI.Q_TAIL q) = v.toNat % 2 ^ 16 ∧
      (dmaOf b q).head? = some (fetchDma s.block q) ∧ memKept s.block b ∧
      regsKept [(Reg.PCI.Q_TAIL q).key, (Reg.PCI.Q_HEAD q).key] s.block b)) ∧
  (∀ (s : State) (q : Fin 8) (x : Dma), nextDma s.block q 1 = some x → lenOk x.len = true → devIn s.block x.dev x.len = true →
    (inQuota s.block x.dev x.len = false → hostMayWrite s.block x.dev x.len = true → inJob s.block = false → nothingUnderWay s.block →
      noHostWait s.block (dmaTag q x.index) →
      Yields (.h2d q false) s (fun b => dmaEnded b q x stOK x.len ∧ b.store.regs = s.block.store.regs ∧
        devAfter s.block [(x.dev, hostRead s.block x.host x.len)] b)) ∧
    (∀ (u : Nat), inQuota s.block x.dev x.len = false → hostMayWrite s.block x.dev x.len = true → inJob s.block = true → jobState s.block < 5 →
      unitOf s.block x.dev = some u → noHostWait s.block (dmaTag q x.index) → (unit s.block u).hostq.length < 256 →
      Yields (.h2d q false) s (fun b => memKept s.block b ∧ dmaOf b q = dmaOf s.block q ∧ (unit b u).hostq = (unit s.block u).hostq ++
        [⟨7, x.dev, x.len, dmaTag q x.index, false, [], hostRead s.block x.host x.len, x.len⟩])) ∧
    (∀ (u : Nat) (m : Move), inQuota s.block x.dev x.len = false → hostMayWrite s.block x.dev x.len = true → unitOf s.block x.dev = some u →
      (unit s.block u).hostq.find? (fun m => m.tag == dmaTag q x.index && m.kind != 8) = some m → m.len = 0 → m.data = [] →
      Yields (.h2d q false) s (fun b => dmaEnded b q x stOK x.len ∧ (unit b u).hostq = (unit s.block u).hostq.erase m ∧
        b.store = s.block.store)) ∧
    Yields (.h2d q true) s (fun b => dmaEnded b q x 8 0 ∧ b.store = s.block.store)) ∧
  (∀ (s : State) (q : Fin 8) (x : Dma), nextDma s.block q 2 = some x → lenOk x.len = true → devIn s.block x.dev x.len = true →
    (inJob s.block = false → nothingUnderWay s.block → noHostWait s.block (dmaTag q x.index) →
      badBlocks s.block x.dev (ceilDiv (x.dev % 64 + x.len) 64) = [] →
      Yields (.d2h q false) s (fun b => dmaEnded b q x stOK x.len ∧ b.store.regs = s.block.store.regs ∧ memKept s.block b ∧
        ∀ a, Memory.read b.store.host a =
          Memory.read (Memory.writeN s.block.store.host x.host (devReadSafe s.block x.dev x.len)) a)) ∧
    (∀ (u : Nat) (m : Move), unitOf s.block x.dev = some u →
      (unit s.block u).hostq.find? (fun m => m.tag == dmaTag q x.index && m.kind != 8) = some m → m.len = 0 → m.data = [] →
      m.far.length = x.len → badBlocks s.block x.dev (ceilDiv (x.dev % 64 + x.len) 64) = [] →
      Yields (.d2h q false) s (fun b => dmaEnded b q x stOK x.len ∧ memKept s.block b ∧
        ∀ a, Memory.read b.store.host a = Memory.read (Memory.writeN s.block.store.host x.host m.far) a)) ∧
    Yields (.d2h q true) s (fun b => dmaEnded b q x 8 0 ∧ b.store = s.block.store)) ∧
  (∀ (s : State) (q : Fin 8) (x : Dma), nextDma s.block q 3 = some x → x.token = none → x.len % 32 = 0 → 32 ≤ x.len → x.len ≤ 2048 →
    Yields (.remoteRead q) s (fun b => memKept s.block b ∧
      (∃ y ∈ dmaOf b q, y.index = x.index ∧ y.token = some (rd s.block Reg.NI.NI_RANK_RANK + 65536 * s.block.ni.counter)) ∧
      rd b Reg.NI.REQ_SENT = min (rd s.block Reg.NI.REQ_SENT + 1) (2 ^ Reg.NI.REQ_SENT.width - 1))) ∧
  (∀ (s : State) (q : Fin 8) (x : Dma) (token : Nat) (r : Pending), nextDma s.block q 3 = some x → x.token = some token →
    answered s.block token = some r → r.done = some stOK →
    Yields (.remoteRead q) s (fun b => dmaEnded b q x stOK x.len ∧ memKept s.block b ∧ answered b token = none ∧
      ∀ a, Memory.read b.store.host a = Memory.read (Memory.writeN s.block.store.host x.host (slice r.data 0 x.len)) a)) ∧
  (∀ (s : State) (q : Fin 8) (x : Dma) (e : Nat), nextDma s.block q 4 = some x → engNamed x.dev = some e → lenOk x.len = true →
    bits x.dev 16 16 + x.len ≤ 65536 → (eng s.block e).tailBank ≠ some (inactiveBank s.block e) →
    Yields (.imemH2d q false) s (fun b => dmaEnded b q x stOK x.len ∧ bankReady b e = false ∧
      ∀ a, Memory.read b.store.imem a = Memory.read (Memory.writeN s.block.store.imem
        ((2 * e + inactiveBank s.block e) * 65536 + bits x.dev 16 16) (hostRead s.block x.host x.len)) a)) ∧
  (∀ (s : State) (q : Fin 8) (x : Dma) (r : List Dma) (st : Nat), dmaOf s.block q = x :: r → x.status = some st →
    Yields (.dmaComplete q) s (fun b => rd b (Reg.PCI.Q_DONE q) = (rd s.block (Reg.PCI.Q_DONE q) + 1) % 2 ^ 32 ∧ memKept s.block b ∧
      (∀ y ∈ r, y ∈ dmaOf b q) ∧
      (st ≠ stOK → stickyBit b pci ErrBit.PCI.DMA_ERROR = true) ∧
      (st = stOK → bit x.flags 0 = false → ∀ a, Memory.read b.store.host a = Memory.read (Memory.writeN s.block.store.host
        (rd s.block (Reg.PCI.Q_CPL q) + 16 * (rd s.block (Reg.PCI.Q_DONE q) % qLen s.block q))
        (slice x.desc 24 8 ++ natLe 1 st ++ natLe 1 (rd s.block (Reg.PCI.Q_DONE q) / qLen s.block q % 2) ++ zeros 2 ++
          natLe 4 x.moved)) a))) ∧
  (∀ (s : State) (rq : Requester) (q : Fin 8), flag s.block (Reg.PCI.Q_CTRL_ENABLE q) = true →
    Yields (.qDisable rq q) s (fun b => flag b (Reg.PCI.Q_CTRL_ENABLE q) = false ∧ memKept s.block b ∧
      rd b (Reg.PCI.Q_HEAD q) = rd s.block (Reg.PCI.Q_TAIL q) % qLen s.block q ∧
      (∃ l, dmaOf b q = dmaOf s.block q ++ l ∧ ∀ y ∈ l, y.status = some 9) ∧
      regsKept [(Reg.PCI.Q_CTRL_ENABLE q).key, (Reg.PCI.Q_HEAD q).key] s.block b))

/-- The module once a load's transfer has ended, before its checks. -/
def loadView (s : Block) : Block := { wr s Reg.PCI.LOAD_CMD_START 0 with pcie := { s.pcie with image := [] } }

/-- R198, R364, R416, R421: an admitted START outside a job takes the image from host memory; the checks stop at the first failure, whose code and
DETAIL are reported, and write nothing; an image that passes is the loaded ream and its DATA is in memory; DISCARD unloads it. Where the rules leave a reading open it rests on
the model's, log entry 47.
Concludes, from its hypotheses on state and operands alone, that exec answers a next state with the effect for: LOAD_START, LOAD_DONE, DISCARD. -/
def Obligations.ImagesAreLoadedOrRefused : Prop :=
  (∀ (s : State) (rq : Requester), guardOpen s.block rq = true →
    (inJob s.block = false → rd s.block Reg.PCI.LOAD_STATUS_STATE ≠ 1 →
      Yields (.loadStart rq) s (fun b => rd b Reg.PCI.LOAD_STATUS_STATE = 1 ∧ rd b Reg.PCI.LOAD_STATUS_CODE = 0 ∧
        b.pcie.image = hostRead s.block (rd s.block Reg.PCI.LOAD_ADDR) (rd s.block Reg.PCI.LOAD_LEN) ∧ jobState b = 0 ∧
        guardOpen b rq = false ∧ memKept s.block b ∧
        regsKept [Reg.PCI.LOAD_STATUS_STATE.key, Reg.PCI.LOAD_STATUS_CODE.key, Reg.PCI.LOAD_STATUS_DETAIL.key, Reg.PCI.LOAD_CMD_START.key,
          Reg.GLB.JOB_STATUS_STATE.key] s.block b)) ∧
    (inJob s.block = true ∨ rd s.block Reg.PCI.LOAD_STATUS_STATE = 1 →
      Yields (.loadStart rq) s (fun b => stickyBit b pci ErrBit.PCI.CMD_REFUSED = true ∧ b.pcie.image = s.block.pcie.image ∧
        guardOpen b rq = false ∧ memKept s.block b ∧ regsKept (reportKeys pci) s.block b))) ∧
  (∀ (s : State) (c d : Nat), rd s.block Reg.PCI.LOAD_STATUS_STATE = 1 →
    firstFailure (checks (loadView s.block) s.block.pcie.image) = some (c, d) →
    Yields .loadDone s (fun b => rd b Reg.PCI.LOAD_STATUS_STATE = 3 ∧ rd b Reg.PCI.LOAD_STATUS_CODE = c % 2 ^ 8 ∧
      rd b Reg.PCI.LOAD_STATUS_DETAIL = d % 2 ^ 16 ∧ stickyBit b pci ErrBit.PCI.LOAD_REFUSED = true ∧ b.plan.ream = none ∧
      b.pcie.image = [] ∧ memKept s.block b)) ∧
  (∀ (s : State) (img : List Byte), rd s.block Reg.PCI.LOAD_STATUS_STATE = 1 → img = s.block.pcie.image →
    firstFailure (checks (loadView s.block) img) = none → slotFailure (install (loadView s.block) img) img = none →
    Yields .loadDone s (fun b => rd b Reg.PCI.LOAD_STATUS_STATE = 2 ∧ jobState b = 1 ∧ b.plan.ream = some (reamOf img) ∧
      b.pcie.image = [] ∧
      devAfter s.block ((dataEnts img).map (fun d => ((rangeOf img d.range).base + d.off, d.bytes))) b)) ∧
  (∀ (s : State) (img : List Byte) (c d n bank : Nat), rd s.block Reg.PCI.LOAD_STATUS_STATE = 1 → img = s.block.pcie.image →
    firstFailure (checks (loadView s.block) img) = none → slotFailure (install (loadView s.block) img) img = some (c, d, n, bank) →
    Yields .loadDone s (fun b => rd b Reg.PCI.LOAD_STATUS_STATE = 3 ∧ rd b Reg.PCI.LOAD_STATUS_CODE = c % 2 ^ 8 ∧ b.plan.ream = none ∧
      stickyBit b pci ErrBit.PCI.LOAD_REFUSED = true ∧
      (engIsPe n = true → 0x20 < c → c < 0x30 → stickyBit b (sltPage (n - 768)) ErrBit.SLT.CHECK_FAIL = true ∧
        rd b (Reg.SLT.CHECK_RESULT_CODE (sltPage (n - 768))) = (c - 0x20) % 2 ^ (Reg.SLT.CHECK_RESULT_CODE 0).width))) ∧
  (∀ (s : State) (rq : Requester), guardOpen s.block rq = true → rd s.block Reg.PCI.LOAD_STATUS_STATE = 2 →
    Yields (.discard rq) s (fun b => rd b Reg.PCI.LOAD_STATUS_STATE = 0 ∧ jobState b = 0 ∧ b.plan.ream = none ∧ guardOpen b rq = false ∧
      memKept s.block b ∧
      regsKept [Reg.PCI.LOAD_STATUS_STATE.key, Reg.GLB.JOB_STATUS_STATE.key, Reg.SES.SES_STATUS_IN_JOB.key] s.block b))

/-! ### Registers -/

/-- A written region of a token table meets the region of another valid slot of the same table. -/
def meetsOther (s : Block) (a k i v : Nat) : Prop :=
  let base := if k = 0 then bits v 0 12 else bits v 0 15
  let len := if k = 0 then bits v 13 13 else bits v 15 15
  let space := if k = 0 then bits v 12 1 else 2
  bit v 31 = true ∧ len ≠ 0 ∧ ∃ j, j < tokCount k ∧ j ≠ i ∧ tokValid s (pageOf a) k j = true ∧ tokSpace s (pageOf a) k j = space ∧
    meets (1024 * base) (1024 * len) (tokBase s (pageOf a) k j) (tokLen s (pageOf a) k j) = true

/-- R88: a write that would make a slot valid over another valid slot of its table is ignored and sets TOKEN_OVERLAP; a write of a token or
barrier table of a core or cluster in a job is ignored and sets TABLE_WRITE_IN_JOB.
Concludes, from its hypotheses on state and operands alone, that exec answers a next state with the effect for: TOKEN_TABLE_WRITE. -/
def Obligations.TokenTablesIgnoreOverlapsAndWritesInAJob : Prop :=
  ∀ (s : State) (rq : Requester) (a : BitVec 26) (v : BitVec 32) (k i : Nat), tableReg a.toNat = some (k, i) →
    pageResponds s.block (pageOf a.toNat) = true →
    (tableInJob s.block a.toNat = false → k < 2 → meetsOther s.block a.toNat k i v.toNat →
      Yields (.tokenTableWrite rq a v) s (fun b => stickyBit b (pageOf a.toNat) ErrBit.COR.TOKEN_OVERLAP = true ∧ memKept s.block b ∧
        tablesKept s.block b ∧ regsKept (reportKeys (pageOf a.toNat)) s.block b)) ∧
    (tableInJob s.block a.toNat = true →
      Yields (.tokenTableWrite rq a v) s (fun b => stickyBit b (pageOf a.toNat) ErrBit.COR.TABLE_WRITE_IN_JOB = true ∧ memKept s.block b ∧
        tablesKept s.block b ∧ regsKept (reportKeys (pageOf a.toNat)) s.block b))

/-- R78, R352, R369, R370: an unaligned access reads zero and is a BAD_ACCESS; a read of a _LO register changes no register; it latches the word of its _HI register for its requester alone, on every page,
with whatever fields stand above the pair's (VALID of HALT_SHEET).
Concludes, from its hypotheses on state and operands alone, that exec answers a next state with the effect for: PAIR_LO_READ. -/
def Obligations.PairReadsLatchForTheirRequesterAlone : Prop :=
  (∀ (s : State) (rq : Requester) (a : BitVec 26) (f : Field), a.toNat % 4 = 0 → pairAt a.toNat = some f →
    Yields (.pairLoRead rq a) s (fun b =>
      ({ s.block with latches := b.latches, reply := [readWord s.block a.toNat, readWord s.block (a.toNat + 4)] } : Block) = b ∧
      hiRead b rq a.toNat = readWord s.block (a.toNat + 4) ∧
      ∀ (rq' : Requester) (a' : Nat), rq' ≠ rq ∨ a' ≠ a.toNat → hiRead b rq' a' = hiRead s.block rq' a')) ∧
  (∀ (s : State) (rq : Requester) (a : BitVec 26), a.toNat % 4 ≠ 0 →
    Yields (.pairLoRead rq a) s (fun b => b.reply = [0] ∧ stickyBit b pci ErrBit.PCI.BAD_ACCESS = true ∧ memKept s.block b ∧
      regsKept (reportKeys pci) s.block b))

/-- R352, R361, R369, R371, R375–R378, R430: the key opens its writer's guard for 1,000,000 ticks, another value closes it, and it closes at the end of its span; an
open guard admits a write of a guarded register and closes, a closed one refuses it; a plain register takes what is written; a sticky bit
clears where mask and value are 1; of a host's and a management write of one tick to one register, management's stands; MGT_ALERT_N goes low
with an enabled error; a reserved word and an unaligned address change no register of theirs. Where the rules leave a reading open it rests on
the model's, log entry 48.
Concludes, from its hypotheses on state and operands alone, that exec answers a next state with the effect for: GUARD_UNLOCK, GUARD_EXPIRE,
REGISTER_WRITE, ERR_STICKY_WRITE. -/
def Obligations.GuardsAdmitOneWriteAndRegistersTakeTheirs : Prop :=
  (∀ (s : State) (rq rq' : Requester), rq' ≠ rq →
    Yields (.guardUnlock rq 0xC1E7) s (fun b => guardOf b rq = ⟨true, now s.block + 1000000⟩ ∧ guardOf b rq' = guardOf s.block rq' ∧
      guardOpen b rq = true ∧ b.store = s.block.store)) ∧
  (∀ (s : State) (rq : Requester) (key : BitVec 32), key ≠ 0xC1E7 →
    Yields (.guardUnlock rq key) s (fun b => guardOpen b rq = false ∧ stickyBit b 0 ErrBit.GLB.GUARD_BAD_KEY = true ∧ memKept s.block b ∧
      regsKept (reportKeys 0) s.block b ∧ (bit (rd s.block (Reg.HDR.ERR_ENABLE 0)) ErrBit.GLB.GUARD_BAD_KEY = true → alertLow b = true))) ∧
  (∀ (s : State) (rq : Requester), (guardOf s.block rq).untilT ≤ now s.block →
    Yields (.guardExpire rq) s (fun b => guardOpen b rq = false ∧ ((guardOf s.block rq).opened = true → (guardOf b rq).opened = false) ∧
      b.store = s.block.store)) ∧
  (∀ (s : State) (rq : Requester) (a : BitVec 27) (v : BitVec 32) (f : Field), a.toNat < 2 ^ 26 → a.toNat % 4 = 0 →
    ownRow s.block rq a.toNat v.toNat = none → fieldsAt a.toNat = [(f, 0)] → f.kind = .rw → f.width ≤ 32 →
    pageResponds s.block (pageOf a.toNat) = true → ignored s.block f (bits v.toNat f.lsb f.width) = false →
    takesAll s.block rq a.toNat = true →
    (f.guarded = false → Yields (.registerWrite rq a v) s (fun b => rd b f = stored f (bits v.toNat f.lsb f.width) ∧ memKept s.block b)) ∧
    (f.guarded = true → guardOpen s.block rq = true →
      Yields (.registerWrite rq a v) s (fun b => rd b f = stored f (bits v.toNat f.lsb f.width) ∧ guardOpen b rq = false ∧
        memKept s.block b)) ∧
    (f.guarded = true → guardOpen s.block rq = false → bits v.toNat f.lsb f.width ≠ rd s.block f →
      Yields (.registerWrite rq a v) s (fun b => rd b f = rd s.block f ∧ stickyBit b 0 ErrBit.GLB.GUARD_REFUSED = true ∧
        rd b Reg.GLB.GUARD_REFUSALS = min (rd s.block Reg.GLB.GUARD_REFUSALS + 1) (2 ^ 32 - 1) ∧ memKept s.block b))) ∧
  (∀ (s : State) (a : BitVec 27) (v : BitVec 32) (f : Field), a.toNat < 2 ^ 26 → a.toNat % 4 = 0 →
    ownRow s.block .host a.toNat v.toNat = none → fieldsAt a.toNat = [(f, 0)] → f.kind = .rw → f.width ≤ 32 → f.guarded = false →
    pageResponds s.block (pageOf a.toNat) = true → rd s.block f = stored f (rd s.block f) →
    mgtBits s.block a.toNat = (2 ^ f.width - 1) * 2 ^ f.lsb →
    Yields (.registerWrite .host a v) s (fun b => rd b f = rd s.block f ∧ memKept s.block b)) ∧
  (∀ (s : State) (a : BitVec 27) (v : BitVec 32) (f : Field), a.toNat < 2 ^ 26 → a.toNat % 4 = 0 →
    ownRow s.block .mgt a.toNat v.toNat = none → fieldsAt a.toNat = [(f, 0)] → f.kind = .rw → f.width ≤ 32 → f.guarded = false →
    pageResponds s.block (pageOf a.toNat) = true → mgtBits s.block a.toNat = 0 → f.key ≠ Reg.TBS.PLAN_TIME.key →
    Yields (.registerWrite .mgt a v) s (fun b => mgtBits b a.toNat = (2 ^ f.width - 1) * 2 ^ f.lsb)) ∧
  (∀ (s : State) (rq : Requester) (a : BitVec 27) (v : BitVec 32), a.toNat < 2 ^ 26 →
    (a.toNat % 4 = 0 → ownRow s.block rq a.toNat v.toNat = none → fieldsAt a.toNat = [] →
      Yields (.registerWrite rq a v) s (fun b => b = s.block)) ∧
    (a.toNat % 4 ≠ 0 → Yields (.registerWrite rq a v) s (fun b => stickyBit b pci ErrBit.PCI.BAD_ACCESS = true ∧ memKept s.block b ∧
      regsKept (reportKeys pci) s.block b))) ∧
  (∀ (s : State) (rq : Requester) (a : BitVec 26) (v : BitVec 32) (r : ErrRec), stickyAt a.toNat = some r →
    pageResponds s.block (pageOf a.toNat) = true →
    Yields (.errStickyWrite rq a v) s (fun b =>
      (∀ i, i < 16 → bit (rd b r.sticky) i = (bit (rd s.block r.sticky) i && !(bit v.toNat (16 + i) && bit v.toNat i &&
        decide (Tab.get s.block.rises 0 (r.sticky.key * 16 + i) ≠ now s.block + 1)))) ∧
      (rd b r.sticky = 0 → rd b r.first = 0) ∧ memKept s.block b ∧ regsKept [r.sticky.key, r.first.key, r.firstTime.key] s.block b))

/-- R185, R383–R385, R389: coordinates are written outside a job, and judge the cabling of the trained ports, and are kept in one; an admitted ADOPT takes the next pass's CRC as the reference; a
pass publishes the CRC of its snapshot, and one that differs from the reference is a CONFIG_DRIFT; in parity mode a pass publishes the parities
of its snapshot, and one that disagrees is a PARITY_FAULT; no pass ends between the multiples of 100,000 pt.
Concludes, from its hypotheses on state and operands alone, that exec answers a next state with the effect for: COORD_WRITE, ADOPT, CONFIG_PASS_END. -/
def Obligations.CoordinatesAndConfigurationAreGuarded : Prop :=
  (∀ (s : State) (rq : Requester) (v : BitVec 32), guardOpen s.block rq = true → inJob s.block = false →
    flag s.block Reg.GLB.COORD_LO_VALID = false →
    (takesAll s.block rq 0x58 = true → bit v.toNat 31 = false → Yields (.coordWrite rq false v) s (fun b => rd b Reg.GLB.COORD_LO_X = bits v.toNat 0 6 ∧
      rd b Reg.GLB.COORD_LO_Y = bits v.toNat 6 6 ∧ rd b Reg.GLB.COORD_LO_Z = bits v.toNat 12 6 ∧ guardOpen b rq = false ∧
      regsKept ([Reg.GLB.COORD_LO_X.key, Reg.GLB.COORD_LO_Y.key, Reg.GLB.COORD_LO_Z.key, Reg.GLB.COORD_LO_VALID.key] ++
        (List.range 12).map (fun p => (Reg.PRT.PORT_STATUS_MISCABLED (prtPage p)).key)) s.block b)) ∧
    (takesAll s.block rq 0x58 = true → bit v.toNat 31 = true → bits v.toNat 0 6 < rd s.block Reg.GLB.COORD_HI_RING_X → bits v.toNat 6 6 < rd s.block Reg.GLB.COORD_HI_RING_Y →
      bits v.toNat 12 6 < rd s.block Reg.GLB.COORD_HI_RING_Z →
      (∀ r ∈ [Reg.GLB.COORD_HI_RING_X, Reg.GLB.COORD_HI_RING_Y, Reg.GLB.COORD_HI_RING_Z], 2 ≤ rd s.block r ∧ rd s.block r ≤ 64) →
      Yields (.coordWrite rq false v) s (fun b => flag b Reg.GLB.COORD_LO_VALID = true ∧ rd b Reg.GLB.COORD_LO_X = bits v.toNat 0 6 ∧
        guardOpen b rq = false ∧ ∀ p : Fin 12, linkUp b p = true → flag b (Reg.PRT.PORT_STATUS_MISCABLED (prtPage p)) =
          ((coordOf (rd b (Reg.PRT.NEIGHBOUR_X (prtPage p))) (rd b (Reg.PRT.NEIGHBOUR_Y (prtPage p))) (rd b (Reg.PRT.NEIGHBOUR_Z (prtPage p))),
            rd b (Reg.PRT.NEIGHBOUR_PORT (prtPage p))) != expectedNeighbour b p))) ∧
    (takesAll s.block rq 0x5C = true → Yields (.coordWrite rq true v) s (fun b => rd b Reg.GLB.COORD_HI_RING_X = bits v.toNat 0 7 ∧
      rd b Reg.GLB.COORD_HI_RING_Y = bits v.toNat 7 7 ∧ rd b Reg.GLB.COORD_HI_RING_Z = bits v.toNat 14 7 ∧ guardOpen b rq = false))) ∧
  (∀ (s : State) (rq : Requester) (hi : Bool) (v : BitVec 32), guardOpen s.block rq = true → inJob s.block = true →
    Yields (.coordWrite rq hi v) s (fun b => guardOpen b rq = false ∧ memKept s.block b ∧ regsKept [] s.block b)) ∧
  (∀ (s : State) (rq : Requester), guardOpen s.block rq = true →
    Yields (.adopt rq) s (fun b => rd b Reg.GLB.CFG_CTRL_ADOPT = 1 ∧ guardOpen b rq = false ∧ memKept s.block b ∧
      regsKept [Reg.GLB.CFG_CTRL_ADOPT.key] s.block b)) ∧
  (∀ (s : State), passDue s.block = true → flag s.block Reg.GLB.CFG_CTRL_MODE = false → s.block.cfgSnapshot.map (fun p => p.1) = cfgPages →
    Yields .configPassEnd s (fun b => memKept s.block b ∧
      rd b Reg.GLB.CFG_NOW = crc32c (s.block.cfgSnapshot.flatMap (fun p => natLe 4 p.2)) % 2 ^ 32 ∧
      rd b Reg.GLB.CFG_PASSES = min (rd s.block Reg.GLB.CFG_PASSES + 1) (2 ^ 32 - 1) ∧
      b.cfgSnapshot = cfgPages.map (fun p => (p, pageCrc b p + 2 ^ 32 * parityWord b p)) ∧
      (adoptDue s.block = true → rd b Reg.GLB.CFG_REF = rd b Reg.GLB.CFG_NOW ∧ rd b Reg.GLB.CFG_CTRL_ADOPT = 0 ∧
        flag b Reg.GLB.CFG_CTRL_CHECK_EN = true) ∧
      (adoptDue s.block = false → flag s.block Reg.GLB.CFG_CTRL_CHECK_EN = true →
        isLive b 0 ErrBit.GLB.CONFIG_DRIFT = (rd b Reg.GLB.CFG_NOW != rd s.block Reg.GLB.CFG_REF)))) ∧
  (∀ (s : State), passDue s.block = true → flag s.block Reg.GLB.CFG_CTRL_MODE = true → s.block.cfgSnapshot.map (fun p => p.1) = cfgPages →
    Yields .configPassEnd s (fun b => memKept s.block b ∧
      isLive b 0 ErrBit.GLB.PARITY_FAULT = s.block.cfgSnapshot.any (fun p => bit p.2 34) ∧
      ∀ p ∈ s.block.cfgSnapshot, rd b (Reg.HDR.CFG_CRC p.1) = p.2 / 2 ^ 32 % 2 ^ 32)) ∧
  (∀ (s : State), now s.block % 100000 ≠ 0 → Yields .configPassEnd s (fun b => b = s.block))

/-! ### The machine -/

/-- The block's queue: a step runs the command at the front on the module with the queue's rest; where none waits, a plan tick passes (the
model's choice, log entry 1). -/
def Obligations.AStepRunsTheFrontCommand : Prop :=
  (∀ (s : State) (c : Instr) (r : List Instr), s.pending = c :: r → step s = exec c { s with pending := r }) ∧
  (∀ s : State, s.pending = [] → step s = .next { s with block := tick s.block })

/-- R9, R373, R377: reset leaves every register at its Reset column, every memory unlisted, both guards closed, no job, every engine at its
reset state and no command waiting; and that is a safe state. What a dash or an unlisted byte reads as is the model's choice (log entries 3
and 4). -/
def Obligations.ResetHoldsTheResetColumn : Prop :=
  State.reset.pending = [] ∧ State.reset.safe = true ∧ State.reset.block.store = {} ∧
  (∀ f : Field, rd State.reset.block f = f.reset % 2 ^ f.width) ∧
  (∀ rq : Requester, guardOpen State.reset.block rq = false) ∧ inJob State.reset.block = false ∧
  (∀ n : Nat, eng State.reset.block n = {}) ∧
  (State.reset.block.pcie.header.vendorId, State.reset.block.pcie.header.deviceId, State.reset.block.pcie.header.classCode) =
    (0x1F47, 0x2D02, 0x120000) ∧ lockState State.reset.block = lkFREE ∧ jobState State.reset.block = 0

/-- The state after some number of steps, while they answer next states. -/
def afterSteps : Nat → State → Option State
  | 0, s => some s
  | n + 1, s => match step s with
    | .next t => afterSteps n t
    | _ => none

/-- R38, R217, R241: every command of the table that is well formed completes: in every state exec
answers a next state with the queue as it was, so that a queue of well-formed commands drains in as many steps as it holds; no command
faults; one whose payload does not have the length of its format is refused by name. Where the rules leave a reading open it rests on the
model's, log entry 46. -/
def Obligations.WellFormedCommandsCompleteAndQueuesDrain : Prop :=
  (∀ (c : Instr) (s : State), c.wf = true → ∃ t, exec c s = .next t ∧ t.pending = s.pending) ∧
  (∀ (c : Instr) (s : State), (∃ t, exec c s = .next t ∧ t.pending = s.pending) ∨ (∃ m, exec c s = .refused (.illFormed m))) ∧
  (∀ s : State, s.queueWf = true → ∃ t, afterSteps s.pending.length s = some t ∧ t.pending = []) ∧
  (∀ (s : State) (p : Fin 12) (h : BitVec 128) (hops : Fin 64) (d : List Byte), d.length ≠ 256 →
    exec (.scheduledFlitArrival p h d) s = .refused (.illFormed "SCHEDULED_FLIT_ARRIVAL") ∧
    exec (.deckleFlitArrival p h hops d) s = .refused (.illFormed "DECKLE_FLIT_ARRIVAL")) ∧
  (∀ (s : State) (src : Option (Fin 12)) (h : List Byte), h.length ≠ 48 →
    exec (.svcRead src h) s = .refused (.illFormed "READ") ∧ exec (.telRead src h) s = .refused (.illFormed "TEL_READ"))

/-- The canonical form holds: from every safe state, a step that answers a next state answers a safe one. The store's tables keep strictly
rising keys and no memory lists a byte equal to what an unlisted address reads as. Where the rules leave a reading open it rests on
the model's, log entry 4. -/
def Obligations.EveryStepKeepsTheModuleSafe : Prop :=
  ∀ s t : State, s.safe = true → step s = .next t → t.safe = true
end

