-- ==== Sys2Proof/Laws/Bits.lean ====
section
/-! SUPPORT. Laws of bits: a bit just set or cleared reads so, every other bit reads as before, and a value cut to its width keeps the
bits below it. -/

namespace Sys2Proof.Machine

theorem bit_eq_testBit (v i : Nat) : bit v i = v.testBit i := by
  rw [bit, Nat.testBit_eq_decide_div_mod_eq, Bool.eq_iff_iff, beq_iff_eq, decide_eq_true_iff]

/-- What setting a bit does to the part above it and the part below it. -/
theorem setBit_div_mod (v i : Nat) (b : Bool) :
    setBit v i b / 2 ^ i = v / 2 ^ i - v / 2 ^ i % 2 + b2n b ∧ setBit v i b % 2 ^ i = v % 2 ^ i := by
  have hp := Nat.two_pow_pos i
  have hb : b2n b % 2 = b2n b := by cases b <;> rfl
  have hsub : (v / 2 ^ i - v / 2 ^ i % 2) * 2 ^ i = v / 2 ^ i * 2 ^ i - v / 2 ^ i % 2 * 2 ^ i := Nat.sub_mul _ _ _
  have hle : v / 2 ^ i % 2 * 2 ^ i ≤ v / 2 ^ i * 2 ^ i := Nat.mul_le_mul_right _ (Nat.mod_le _ _)
  have hdm := Nat.div_add_mod v (2 ^ i)
  rw [Nat.mul_comm] at hdm
  have h : setBit v i b = (v / 2 ^ i - v / 2 ^ i % 2 + b2n b) * 2 ^ i + v % 2 ^ i := by
    simp only [setBit, setBits, bits, Nat.pow_one, hb, Nat.add_mul, hsub]
    omega
  rw [h]
  constructor
  · rw [Nat.mul_comm, Nat.mul_add_div hp, Nat.div_eq_of_lt (Nat.mod_lt _ hp), Nat.add_zero]
  · rw [Nat.mul_add_mod_self_right, Nat.mod_mod]

@[simp] theorem bit_setBit_same (v i : Nat) (b : Bool) : bit (setBit v i b) i = b := by
  rw [bit, (setBit_div_mod v i b).1]
  cases b
  · have : (v / 2 ^ i - v / 2 ^ i % 2 + b2n false) % 2 = 0 := by simp only [b2n]; simp; omega
    rw [this]; rfl
  · have : (v / 2 ^ i - v / 2 ^ i % 2 + b2n true) % 2 = 1 := by simp only [b2n]; simp; omega
    rw [this]; rfl

theorem bit_setBit_ne (v : Nat) {i j : Nat} (b : Bool) (h : j ≠ i) : bit (setBit v i b) j = bit v j := by
  rw [bit_eq_testBit, bit_eq_testBit]
  rcases Nat.lt_or_gt_of_ne h with hlt | hgt
  · have e := congrArg (fun x => Nat.testBit x j) (setBit_div_mod v i b).2
    simpa [Nat.testBit_mod_two_pow, hlt] using e
  · obtain ⟨d, rfl⟩ : ∃ d, j = i + 1 + d := ⟨j - i - 1, by omega⟩
    have hh : setBit v i b / 2 ^ (i + 1) = v / 2 ^ (i + 1) := by
      rw [Nat.pow_succ, ← Nat.div_div_eq_div_mul, ← Nat.div_div_eq_div_mul, (setBit_div_mod v i b).1]
      generalize v / 2 ^ i = q
      cases b <;> simp only [b2n] <;> simp <;> omega
    rw [show i + 1 + d = d + (i + 1) from by omega, ← Nat.testBit_div_two_pow, ← Nat.testBit_div_two_pow, hh]

theorem bit_setBit (v i j : Nat) (b : Bool) : bit (setBit v i b) j = if j = i then b else bit v j := by
  split
  · subst_vars; exact bit_setBit_same _ _ _
  · exact bit_setBit_ne _ _ ‹_›

theorem bit_mod_two_pow (v : Nat) {w i : Nat} (h : i < w) : bit (v % 2 ^ w) i = bit v i := by
  rw [bit_eq_testBit, bit_eq_testBit, Nat.testBit_mod_two_pow]
  simp [h]

@[simp] theorem bit_zero (i : Nat) : bit 0 i = false := by simp [bit_eq_testBit]

end Sys2Proof.Machine
end

