-- ==== Sys2Proof/Laws/Tab.lean ====
section
/-! SUPPORT. Laws of the sparse tables: a read after a write, and the canonical form that every write keeps. -/

namespace Sys2Proof.Machine

variable {α : Type}

theorem Tab.get_del_same (t : List (Nat × α)) (d : α) (k : Nat) : Tab.get (Tab.del t k) d k = d := by
  induction t with
  | nil => rfl
  | cons p r ih =>
    simp only [Tab.del]
    split
    · exact ih
    · simp [Tab.get, *]

theorem Tab.get_del_ne (t : List (Nat × α)) (d : α) {k j : Nat} (h : j ≠ k) : Tab.get (Tab.del t k) d j = Tab.get t d j := by
  induction t with
  | nil => rfl
  | cons p r ih =>
    simp only [Tab.del, Tab.get]
    split
    · subst_vars
      simp [Ne.symm h, ih]
    · simp only [Tab.get, ih]

theorem Tab.get_ins_ne (t : List (Nat × α)) (d : α) {k j : Nat} (v : α) (h : j ≠ k) : Tab.get (Tab.ins t k v) d j = Tab.get t d j := by
  induction t with
  | nil => simp [Tab.ins, Tab.get, Ne.symm h]
  | cons p r ih =>
    simp only [Tab.ins]
    split
    · simp [Tab.get, Ne.symm h]
    · simp only [Tab.get, ih]

theorem Tab.get_ins_del (t : List (Nat × α)) (d : α) (k : Nat) (v : α) : Tab.get (Tab.ins (Tab.del t k) k v) d k = v := by
  induction t with
  | nil => simp [Tab.del, Tab.ins, Tab.get]
  | cons p r ih =>
    simp only [Tab.del]
    split
    · exact ih
    · rename_i h
      simp only [Tab.ins]
      split
      · simp [Tab.get]
      · simp only [Tab.get, h, if_false, ih]

/-- A read of the key just written gives the value. -/
@[simp] theorem Tab.get_put_same [DecidableEq α] (t : List (Nat × α)) (d v : α) (k : Nat) : Tab.get (Tab.put t d k v) d k = v := by
  simp only [Tab.put]
  split
  · rw [Tab.get_del_same]; symm; assumption
  · exact Tab.get_ins_del t d k v

/-- A write leaves every other key alone, whatever default it is read with. -/
theorem Tab.get_put_ne [DecidableEq α] (t : List (Nat × α)) (d e v : α) {k j : Nat} (h : j ≠ k) :
    Tab.get (Tab.put t d k v) e j = Tab.get t e j := by
  simp only [Tab.put]
  split
  · exact Tab.get_del_ne t e h
  · rw [Tab.get_ins_ne _ _ _ h, Tab.get_del_ne _ _ h]

/-! ### The canonical form -/

theorem Tab.above_mono {t : List (Nat × α)} {a b : Nat} (h : a ≤ b) (hb : Tab.above b t = true) : Tab.above a t = true := by
  cases t with
  | nil => rfl
  | cons p r =>
    simp only [Tab.above, Bool.and_eq_true, decide_eq_true_eq] at hb ⊢
    exact ⟨by omega, hb.2⟩

theorem Tab.above_del {t : List (Nat × α)} {b : Nat} (k : Nat) (h : Tab.above b t = true) : Tab.above b (Tab.del t k) = true := by
  induction t generalizing b with
  | nil => rfl
  | cons p r ih =>
    simp only [Tab.above, Bool.and_eq_true, decide_eq_true_eq] at h
    simp only [Tab.del]
    split
    · exact ih (Tab.above_mono (by omega) h.2)
    · simp only [Tab.above, Bool.and_eq_true, decide_eq_true_eq]
      exact ⟨h.1, ih h.2⟩

theorem Tab.above_clear {t : List (Nat × α)} {b : Nat} (lo hi : Nat) (h : Tab.above b t = true) : Tab.above b (Tab.clear t lo hi) = true := by
  induction t generalizing b with
  | nil => rfl
  | cons p r ih =>
    simp only [Tab.above, Bool.and_eq_true, decide_eq_true_eq] at h
    simp only [Tab.clear]
    split
    · exact ih (Tab.above_mono (by omega) h.2)
    · simp only [Tab.above, Bool.and_eq_true, decide_eq_true_eq]
      exact ⟨h.1, ih h.2⟩

theorem Tab.above_ins_del {t : List (Nat × α)} {b : Nat} (k : Nat) (v : α) (hk : b ≤ k) (h : Tab.above b t = true) :
    Tab.above b (Tab.ins (Tab.del t k) k v) = true := by
  induction t generalizing b with
  | nil => simp [Tab.del, Tab.ins, Tab.above, hk]
  | cons p r ih =>
    obtain ⟨a, w⟩ := p
    simp only [Tab.above, Bool.and_eq_true, decide_eq_true_eq] at h
    simp only [Tab.del]
    split
    · exact ih hk (Tab.above_mono (by omega) h.2)
    · rename_i hne
      simp only [Tab.ins]
      split
      · rename_i hlt
        simp only [Tab.above, Bool.and_eq_true, decide_eq_true_eq]
        exact ⟨hk, by omega, Tab.above_del k h.2⟩
      · rename_i hge
        simp only [Tab.above, Bool.and_eq_true, decide_eq_true_eq]
        exact ⟨h.1, ih (by omega) h.2⟩

/-- A write keeps the keys rising. -/
theorem Tab.rising_put [DecidableEq α] {t : List (Nat × α)} (d v : α) (k : Nat) (h : Tab.rising t = true) :
    Tab.rising (Tab.put t d k v) = true := by
  simp only [Tab.rising, Tab.put] at h ⊢
  split
  · exact Tab.above_del k h
  · exact Tab.above_ins_del k v (Nat.zero_le k) h

theorem Tab.mem_del {t : List (Nat × α)} {k : Nat} {p : Nat × α} (h : p ∈ Tab.del t k) : p ∈ t := by
  induction t with
  | nil => exact h
  | cons q r ih =>
    simp only [Tab.del] at h
    split at h
    · exact List.mem_cons_of_mem _ (ih h)
    · rcases List.mem_cons.mp h with h | h
      · exact h ▸ List.mem_cons_self
      · exact List.mem_cons_of_mem _ (ih h)

theorem Tab.mem_clear {t : List (Nat × α)} {lo hi : Nat} {p : Nat × α} (h : p ∈ Tab.clear t lo hi) : p ∈ t := by
  induction t with
  | nil => exact h
  | cons q r ih =>
    simp only [Tab.clear] at h
    split at h
    · exact List.mem_cons_of_mem _ (ih h)
    · rcases List.mem_cons.mp h with h | h
      · exact h ▸ List.mem_cons_self
      · exact List.mem_cons_of_mem _ (ih h)

theorem Tab.mem_ins {t : List (Nat × α)} {k : Nat} {v : α} {p : Nat × α} (h : p ∈ Tab.ins t k v) : p = (k, v) ∨ p ∈ t := by
  induction t with
  | nil => simpa [Tab.ins] using h
  | cons q r ih =>
    simp only [Tab.ins] at h
    split at h
    · simpa using h
    · rcases List.mem_cons.mp h with h | h
      · exact .inr (h ▸ List.mem_cons_self)
      · exact (ih h).imp id (List.mem_cons_of_mem _)

/-! ### Memories -/

/-- Writing a byte keeps the canonical form. -/
theorem Memory.wf_write {m : Memory} (a : Nat) (v : Byte) (h : m.wf = true) : (Memory.write m a v).wf = true := by
  simp only [Memory.wf, Bool.and_eq_true, List.all_eq_true] at h ⊢
  refine ⟨Tab.rising_put 0 v a h.1, fun c hc => ?_⟩
  simp only [Memory.write, Tab.put] at hc
  split at hc
  · exact h.2 c (Tab.mem_del hc)
  · rename_i hv
    rcases Tab.mem_ins hc with rfl | hc
    · simpa using hv
    · exact h.2 c (Tab.mem_del hc)

theorem Memory.wf_writeN {m : Memory} (bs : List Byte) (a : Nat) (h : m.wf = true) : (Memory.writeN m a bs).wf = true := by
  induction bs generalizing m a with
  | nil => exact h
  | cons b r ih => exact ih (a + 1) (Memory.wf_write a b h)

theorem Memory.wf_zero {m : Memory} (lo hi : Nat) (h : m.wf = true) : (Memory.zero m lo hi).wf = true := by
  simp only [Memory.wf, Bool.and_eq_true, List.all_eq_true] at h ⊢
  exact ⟨Tab.above_clear lo hi h.1, fun c hc => h.2 c (Tab.mem_clear hc)⟩

/-- A byte outside the bytes written reads as before. -/
theorem Memory.read_writeN_out {m : Memory} (bs : List Byte) (a x : Nat) (h : x < a ∨ a + bs.length ≤ x) :
    Memory.read (Memory.writeN m a bs) x = Memory.read m x := by
  induction bs generalizing m a with
  | nil => rfl
  | cons b r ih =>
    simp only [List.length_cons] at h
    rw [Memory.writeN, ih (a + 1) (by omega)]
    exact Tab.get_put_ne _ _ _ _ (by omega)

/-- The bytes just written read back. -/
theorem Memory.readN_writeN (m : Memory) (bs : List Byte) (a : Nat) : Memory.readN (Memory.writeN m a bs) a bs.length = bs := by
  induction bs generalizing m a with
  | nil => rfl
  | cons b r ih =>
    simp only [List.length_cons, Memory.readN, Memory.writeN]
    rw [ih (Memory.write m a b) (a + 1), Memory.read_writeN_out r (a + 1) a (by omega)]
    simp [Memory.read, Memory.write]

end Sys2Proof.Machine
end

