-- ==== Sys2Proof/Laws/Regs.lean ====
section
/-! SUPPORT. Laws of the registers: a field just written reads the value written, every other field reads as before, and no operation on a
memory or a table changes a register. -/

namespace Sys2Proof.Machine

/-- A register's value rests on the register table alone. -/
theorem rd_congr {s t : Block} (f : Field) (h : s.store.regs = t.store.regs) : rd s f = rd t f := by simp only [rd, h]

theorem rd_lt (s : Block) (f : Field) : rd s f < 2 ^ f.width := Nat.mod_lt _ (Nat.two_pow_pos _)

@[simp] theorem rd_wr_same (s : Block) (f : Field) (v : Nat) : rd (wr s f v) f = v % 2 ^ f.width := by simp [rd, wr]

theorem rd_wr_ne (s : Block) {f g : Field} (v : Nat) (h : f.key ≠ g.key) : rd (wr s g v) f = rd s f := by
  simp [rd, wr, Tab.get_put_ne _ _ _ _ h]

theorem rd_incMod_same (s : Block) (f : Field) (n : Nat) : rd (incMod s f n) f = (rd s f + n) % 2 ^ f.width := rd_wr_same _ _ _
theorem rd_incMod_ne (s : Block) {f g : Field} (n : Nat) (h : f.key ≠ g.key) : rd (incMod s g n) f = rd s f := rd_wr_ne _ _ h
theorem rd_incSat_same (s : Block) (f : Field) (n : Nat) : rd (incSat s f n) f = min (rd s f + n) (2 ^ f.width - 1) := by
  rw [incSat, rd_wr_same]
  exact Nat.mod_eq_of_lt (by have := Nat.two_pow_pos f.width; omega)
theorem rd_incSat_ne (s : Block) {f g : Field} (n : Nat) (h : f.key ≠ g.key) : rd (incSat s g n) f = rd s f := rd_wr_ne _ _ h
theorem rd_wrFree_ne (s : Block) {f g : Field} (h : f.key ≠ g.key) : rd (wrFree s g) f = rd s f := rd_wr_ne _ _ h

theorem flag_congr {s t : Block} (f : Field) (h : rd s f = rd t f) : flag s f = flag t f := by simp only [flag, h]

/-! ### What a write of a register leaves alone -/

@[simp] theorem wr_latches (s : Block) (f : Field) (v : Nat) : (wr s f v).latches = s.latches := rfl
@[simp] theorem wr_hostGuard (s : Block) (f : Field) (v : Nat) : (wr s f v).hostGuard = s.hostGuard := rfl
@[simp] theorem wr_mgtGuard (s : Block) (f : Field) (v : Nat) : (wr s f v).mgtGuard = s.mgtGuard := rfl
@[simp] theorem wr_poison (s : Block) (f : Field) (v : Nat) : (wr s f v).poison = s.poison := rfl
@[simp] theorem wr_engines (s : Block) (f : Field) (v : Nat) : (wr s f v).engines = s.engines := rfl
@[simp] theorem wr_cores (s : Block) (f : Field) (v : Nat) : (wr s f v).cores = s.cores := rfl
@[simp] theorem wr_clusters (s : Block) (f : Field) (v : Nat) : (wr s f v).clusters = s.clusters := rfl
@[simp] theorem wr_ports (s : Block) (f : Field) (v : Nat) : (wr s f v).ports = s.ports := rfl
@[simp] theorem wr_units (s : Block) (f : Field) (v : Nat) : (wr s f v).units = s.units := rfl
@[simp] theorem wr_mesh (s : Block) (f : Field) (v : Nat) : (wr s f v).mesh = s.mesh := rfl
@[simp] theorem wr_side (s : Block) (f : Field) (v : Nat) : (wr s f v).side = s.side := rfl
@[simp] theorem wr_heldReleases (s : Block) (f : Field) (v : Nat) : (wr s f v).heldReleases = s.heldReleases := rfl
@[simp] theorem wr_cfgParity (s : Block) (f : Field) (v : Nat) : (wr s f v).cfgParity = s.cfgParity := rfl
@[simp] theorem wr_cfgSnapshot (s : Block) (f : Field) (v : Nat) : (wr s f v).cfgSnapshot = s.cfgSnapshot := rfl
@[simp] theorem wr_plan (s : Block) (f : Field) (v : Nat) : (wr s f v).plan = s.plan := rfl
@[simp] theorem wr_power (s : Block) (f : Field) (v : Nat) : (wr s f v).power = s.power := rfl
@[simp] theorem wr_time (s : Block) (f : Field) (v : Nat) : (wr s f v).time = s.time := rfl
@[simp] theorem wr_ni (s : Block) (f : Field) (v : Nat) : (wr s f v).ni = s.ni := rfl
@[simp] theorem wr_serv (s : Block) (f : Field) (v : Nat) : (wr s f v).serv = s.serv := rfl
@[simp] theorem wr_hdb (s : Block) (f : Field) (v : Nat) : (wr s f v).hdb = s.hdb := rfl
@[simp] theorem wr_pcie (s : Block) (f : Field) (v : Nat) : (wr s f v).pcie = s.pcie := rfl
@[simp] theorem wr_mgmt (s : Block) (f : Field) (v : Nat) : (wr s f v).mgmt = s.mgmt := rfl
@[simp] theorem wr_free (s : Block) (f : Field) (v : Nat) : (wr s f v).free = s.free := rfl
@[simp] theorem wr_reply (s : Block) (f : Field) (v : Nat) : (wr s f v).reply = s.reply := rfl
@[simp] theorem wr_rises (s : Block) (f : Field) (v : Nat) : (wr s f v).rises = s.rises := rfl
@[simp] theorem wr_captures (s : Block) (f : Field) (v : Nat) : (wr s f v).captures = s.captures := rfl
@[simp] theorem wr_store_dev (s : Block) (f : Field) (v : Nat) : (wr s f v).store.dev = s.store.dev := rfl
@[simp] theorem wr_store_imem (s : Block) (f : Field) (v : Nat) : (wr s f v).store.imem = s.store.imem := rfl
@[simp] theorem wr_store_staging (s : Block) (f : Field) (v : Nat) : (wr s f v).store.staging = s.store.staging := rfl
@[simp] theorem wr_store_step (s : Block) (f : Field) (v : Nat) : (wr s f v).store.step = s.store.step := rfl
@[simp] theorem wr_store_rank (s : Block) (f : Field) (v : Nat) : (wr s f v).store.rank = s.store.rank := rfl
@[simp] theorem wr_store_flash (s : Block) (f : Field) (v : Nat) : (wr s f v).store.flash = s.store.flash := rfl
@[simp] theorem wr_store_msix (s : Block) (f : Field) (v : Nat) : (wr s f v).store.msix = s.store.msix := rfl
@[simp] theorem wr_store_host (s : Block) (f : Field) (v : Nat) : (wr s f v).store.host = s.store.host := rfl

/-! ### Operations on memories and tables -/

@[simp] theorem rd_devWrite (s : Block) (a : Nat) (bs : List Byte) (f : Field) : rd (devWrite s a bs) f = rd s f := rfl
@[simp] theorem rd_devZero (s : Block) (lo hi : Nat) (f : Field) : rd (devZero s lo hi) f = rd s f := rfl
@[simp] theorem rd_hostWrite (s : Block) (a : Nat) (bs : List Byte) (f : Field) : rd (hostWrite s a bs) f = rd s f := rfl
@[simp] theorem rd_stepWrite (s : Block) (a : Nat) (bs : List Byte) (f : Field) : rd (stepWrite s a bs) f = rd s f := rfl
@[simp] theorem rd_stepZero (s : Block) (lo hi : Nat) (f : Field) : rd (stepZero s lo hi) f = rd s f := rfl
@[simp] theorem rd_rankWrite (s : Block) (a : Nat) (bs : List Byte) (f : Field) : rd (rankWrite s a bs) f = rd s f := rfl
@[simp] theorem rd_flashWrite (s : Block) (a : Nat) (bs : List Byte) (f : Field) : rd (flashWrite s a bs) f = rd s f := rfl
@[simp] theorem rd_flashZero (s : Block) (lo hi : Nat) (f : Field) : rd (flashZero s lo hi) f = rd s f := rfl
@[simp] theorem rd_imemWr (s : Block) (a : Nat) (bs : List Byte) (f : Field) : rd (imemWr s a bs) f = rd s f := rfl
@[simp] theorem rd_imemZero (s : Block) (lo hi : Nat) (f : Field) : rd (imemZero s lo hi) f = rd s f := rfl
@[simp] theorem rd_stagingWr (s : Block) (a : Nat) (bs : List Byte) (f : Field) : rd (stagingWr s a bs) f = rd s f := rfl
@[simp] theorem rd_stagingHost (s : Block) (a : Nat) (bs : List Byte) (f : Field) : rd (stagingHost s a bs) f = rd s f := rfl
@[simp] theorem rd_stagingZero (s : Block) (lo hi : Nat) (f : Field) : rd (stagingZero s lo hi) f = rd s f := rfl
@[simp] theorem rd_setEng (s : Block) (n : Nat) (x : Engine) (f : Field) : rd (setEng s n x) f = rd s f := rfl
@[simp] theorem rd_setCore (s : Block) (c k : Nat) (x : CoreSt) (f : Field) : rd (setCore s c k x) f = rd s f := rfl
@[simp] theorem rd_setClus (s : Block) (c : Nat) (x : ClusterSt) (f : Field) : rd (setClus s c x) f = rd s f := rfl
@[simp] theorem rd_setPort (s : Block) (p : Nat) (x : PortSt) (f : Field) : rd (setPort s p x) f = rd s f := rfl
@[simp] theorem rd_setUnit (s : Block) (u : Nat) (x : UnitSt) (f : Field) : rd (setUnit s u x) f = rd s f := rfl
@[simp] theorem devWrite_regs (s : Block) (a : Nat) (bs : List Byte) : (devWrite s a bs).store.regs = s.store.regs := rfl
@[simp] theorem devZero_regs (s : Block) (lo hi : Nat) : (devZero s lo hi).store.regs = s.store.regs := rfl
@[simp] theorem hostWrite_regs (s : Block) (a : Nat) (bs : List Byte) : (hostWrite s a bs).store.regs = s.store.regs := rfl
@[simp] theorem stepWrite_regs (s : Block) (a : Nat) (bs : List Byte) : (stepWrite s a bs).store.regs = s.store.regs := rfl
@[simp] theorem stepZero_regs (s : Block) (lo hi : Nat) : (stepZero s lo hi).store.regs = s.store.regs := rfl
@[simp] theorem rankWrite_regs (s : Block) (a : Nat) (bs : List Byte) : (rankWrite s a bs).store.regs = s.store.regs := rfl
@[simp] theorem flashWrite_regs (s : Block) (a : Nat) (bs : List Byte) : (flashWrite s a bs).store.regs = s.store.regs := rfl
@[simp] theorem flashZero_regs (s : Block) (lo hi : Nat) : (flashZero s lo hi).store.regs = s.store.regs := rfl
@[simp] theorem imemWr_regs (s : Block) (a : Nat) (bs : List Byte) : (imemWr s a bs).store.regs = s.store.regs := rfl
@[simp] theorem imemZero_regs (s : Block) (lo hi : Nat) : (imemZero s lo hi).store.regs = s.store.regs := rfl
@[simp] theorem stagingWr_regs (s : Block) (a : Nat) (bs : List Byte) : (stagingWr s a bs).store.regs = s.store.regs := rfl
@[simp] theorem stagingHost_regs (s : Block) (a : Nat) (bs : List Byte) : (stagingHost s a bs).store.regs = s.store.regs := rfl
@[simp] theorem stagingZero_regs (s : Block) (lo hi : Nat) : (stagingZero s lo hi).store.regs = s.store.regs := rfl
@[simp] theorem setEng_regs (s : Block) (n : Nat) (x : Engine) : (setEng s n x).store.regs = s.store.regs := rfl
@[simp] theorem setCore_regs (s : Block) (c k : Nat) (x : CoreSt) : (setCore s c k x).store.regs = s.store.regs := rfl
@[simp] theorem setClus_regs (s : Block) (c : Nat) (x : ClusterSt) : (setClus s c x).store.regs = s.store.regs := rfl
@[simp] theorem setPort_regs (s : Block) (p : Nat) (x : PortSt) : (setPort s p x).store.regs = s.store.regs := rfl
@[simp] theorem setUnit_regs (s : Block) (u : Nat) (x : UnitSt) : (setUnit s u x).store.regs = s.store.regs := rfl

/-! ### Folds: what each step of a fold keeps, the fold keeps -/

theorem foldl_keeps {α β : Type} (P : β → Prop) (f : β → α → β) (l : List α) (b : β) (h0 : P b) (h : ∀ b a, P b → P (f b a)) :
    P (l.foldl f b) := by
  induction l generalizing b with
  | nil => exact h0
  | cons a r ih => exact ih (f b a) (h b a h0)

theorem overN_keeps (P : Block → Prop) (n : Nat) (f : Nat → Block → Block) (s : Block) (h0 : P s) (h : ∀ i t, P t → P (f i t)) :
    P (overN n f s) := foldl_keeps P _ _ _ h0 (fun t i ht => h i t ht)

theorem overL_keeps {α : Type} (P : Block → Prop) (l : List α) (f : α → Block → Block) (s : Block) (h0 : P s)
    (h : ∀ x t, P t → P (f x t)) : P (overL l f s) := foldl_keeps P _ _ _ h0 (fun t x ht => h x t ht)

/-- A field that no step of the fold changes. -/
theorem rd_overN (n : Nat) (f : Nat → Block → Block) (s : Block) (g : Field) (h : ∀ i t, rd (f i t) g = rd t g) :
    rd (overN n f s) g = rd s g := overN_keeps (fun t => rd t g = rd s g) n f s rfl (fun i t ht => (h i t).trans ht)

theorem rd_overL {α : Type} (l : List α) (f : α → Block → Block) (s : Block) (g : Field) (h : ∀ x t, rd (f x t) g = rd t g) :
    rd (overL l f s) g = rd s g := overL_keeps (fun t => rd t g = rd s g) l f s rfl (fun x t ht => (h x t).trans ht)

theorem rd_when (b : Bool) (f : Block → Block) (s : Block) (g : Field) (h : ∀ t, rd (f t) g = rd t g) : rd (when b f s) g = rd s g := by
  cases b
  · rfl
  · exact h s

end Sys2Proof.Machine
end

