-- ==== Sys2Proof/Laws/Flags.lean ====
section
/-! SUPPORT. Laws of the error records, the log, the event ring and interrupts: which registers they change, and that a raised bit is
set. -/

namespace Sys2Proof.Machine

/-- The registers that raising a bit of a record may change: the record's own, and what a report writes. -/
def raiseKeys (r : ErrRec) : List Nat :=
  [r.sticky.key, r.first.key, r.firstTime.key, Reg.MGT.LOG_WRITTEN.key, Reg.MGT.LOG_OLDEST.key, Reg.PCI.EVT_WRITTEN.key, Reg.PCI.EVT_LOST.key,
   (Reg.HDR.ERR_STICKY 0x4000).key, (Reg.HDR.ERR_FIRST 0x4000).key, (Reg.HDR.ERR_FIRST_TIME 0x4000).key]

@[simp] theorem rd_msix (s : Block) (v : Nat) (f : Field) : rd (msix s v) f = rd s f := by
  unfold msix
  split <;> rfl

theorem rd_logEntry (s : Block) (k c p d : Nat) (f : Field) (h1 : f.key ≠ Reg.MGT.LOG_WRITTEN.key) (h2 : f.key ≠ Reg.MGT.LOG_OLDEST.key) :
    rd (logEntry s k c p d) f = rd s f := by
  unfold logEntry
  simp only []
  rw [rd_wr_ne _ _ h1, rd_flashWrite]
  split
  · rw [rd_wr_ne _ _ h2, rd_flashZero]
  · rfl

theorem rd_raiseQuiet (s : Block) (r : ErrRec) (i : Nat) (f : Field) (h : f.key ∉ raiseKeys r) : rd (raiseQuiet s r i) f = rd s f := by
  simp only [raiseKeys, List.mem_cons, List.not_mem_nil, or_false, not_or] at h
  obtain ⟨h1, h2, h3, h4, h5, -⟩ := h
  have hr : ∀ t : Block, rd { t with rises := Tab.put t.rises 0 (r.sticky.key * 16 + i) (now t + 1) } f = rd t f := fun t => rfl
  have hc : ∀ (t : Block), rd (noteCapture t r) f = rd t f := fun t => rfl
  have hl : ∀ (t : Block) (e c : Nat), rd (relog t e c) f = rd t f := fun t e c => rfl
  unfold raiseQuiet
  simp only []
  split
  · rfl
  · split <;> split <;> (try split) <;>
      simp only [rd_msix, rd_logEntry _ _ _ _ _ _ h4 h5, rd_wr_ne _ _ h1, rd_wr_ne _ _ h2, rd_wr_ne _ _ h3, hc, hl] <;> rfl

theorem rd_event (s : Block) (k c p d : Nat) (f : Field) (h : f.key ∉ raiseKeys (pageRec 0x4000)) : rd (event s k c p d) f = rd s f := by
  have h' := h
  simp only [raiseKeys, List.mem_cons, List.not_mem_nil, or_false, not_or] at h'
  obtain ⟨-, -, -, -, -, h6, h7, -⟩ := h'
  unfold event
  simp only []
  split
  · split
    · rw [rd_msix, rd_incMod_ne _ _ h6, rd_hostWrite]
    · rw [rd_raiseQuiet _ _ _ _ h, rd_incSat_ne _ _ h7]
  · rfl

theorem raiseKeys_pci (r : ErrRec) (k : Nat) (h : k ∉ raiseKeys r) : k ∉ raiseKeys (pageRec 0x4000) := by
  simp only [raiseKeys, List.mem_cons, List.not_mem_nil, or_false, not_or] at h ⊢
  obtain ⟨-, -, -, h4, h5, h6, h7, h8, h9, h10⟩ := h
  exact ⟨h8, h9, h10, h4, h5, h6, h7, h8, h9, h10⟩

/-- All that a raise can do beyond the quiet one: a FIRST_ERROR record, or the code of one already written. -/
theorem raise_cases (s : Block) (r : ErrRec) (i : Nat) : raise s r i = raiseQuiet s r i ∨ raise s r i = firstError (raiseQuiet s r i) r i ∨
    ∃ a d, raise s r i = hostWrite (raiseQuiet s r i) a d := by
  unfold raise
  simp only []
  split
  · split
    · exact .inr (.inl rfl)
    · exact .inr (.inr ⟨_, _, rfl⟩)
  · exact .inl rfl

theorem rd_firstError (s : Block) (r : ErrRec) (i : Nat) (f : Field) :
    rd (firstError s r i) f = rd (event s 1 (r.code i) (pageId r.page) 0) f := rfl

theorem rd_raise (s : Block) (r : ErrRec) (i : Nat) (f : Field) (h : f.key ∉ raiseKeys r) : rd (raise s r i) f = rd s f := by
  rw [← rd_raiseQuiet s r i f h]
  rcases raise_cases s r i with e | e | ⟨a, d, e⟩ <;> rw [e]
  · rw [rd_firstError, rd_event _ _ _ _ _ f (raiseKeys_pci r _ h)]
  · rw [rd_hostWrite]

theorem rd_raisePage (s : Block) (p i : Nat) (f : Field) (h : f.key ∉ raiseKeys (pageRec p)) : rd (raisePage s p i) f = rd s f :=
  rd_raise s (pageRec p) i f h

theorem rd_live (s : Block) (p i : Nat) (b : Bool) (f : Field) (h : f.key ∉ raiseKeys (pageRec p)) (hs : f.key ≠ (Reg.HDR.STATUS p).key) :
    rd (live s p i b) f = rd s f := by
  unfold live
  simp only []
  split
  · rfl
  · split
    · rw [rd_raisePage _ _ _ _ h, rd_wr_ne _ _ hs]
    · rw [rd_wr_ne _ _ hs]

@[simp] theorem rd_fault (s : Block) (a b c d e x : Nat) (f : Field) : rd (fault s a b c d e x) f = rd s f := by
  unfold fault
  split <;> rfl

/-! ### What the reports leave alone beside the registers -/

/-- Two blocks that differ at most in the store, the captures and the pending interrupts. -/
def reported (s t : Block) : Prop := ∃ st ri ca pc, t = { s with store := st, rises := ri, captures := ca, pcie := pc }

theorem reported_refl (s : Block) : reported s s := ⟨s.store, s.rises, s.captures, s.pcie, rfl⟩
theorem reported_trans {s t u : Block} (h : reported s t) (h' : reported t u) : reported s u := by
  obtain ⟨_, _, _, _, rfl⟩ := h
  obtain ⟨st, ri, ca, pc, rfl⟩ := h'
  exact ⟨st, ri, ca, pc, rfl⟩
theorem reported_wr (s : Block) (f : Field) (v : Nat) : reported s (wr s f v) := ⟨_, _, _, _, rfl⟩
theorem reported_msix (s : Block) (v : Nat) : reported s (msix s v) := by
  unfold msix
  split
  · exact ⟨_, _, _, _, rfl⟩
  · exact ⟨_, _, _, _, rfl⟩
theorem reported_logEntry (s : Block) (k c p d : Nat) : reported s (logEntry s k c p d) := by
  unfold logEntry
  simp only []
  split <;> exact ⟨_, _, _, _, rfl⟩
theorem reported_raiseQuiet (s : Block) (r : ErrRec) (i : Nat) : reported s (raiseQuiet s r i) := by
  have h0 : reported s { s with rises := Tab.put s.rises 0 (r.sticky.key * 16 + i) (now s + 1) } := ⟨_, _, _, _, rfl⟩
  have hc : ∀ (t : Block), reported t (noteCapture t r) := fun t => ⟨_, _, _, _, rfl⟩
  have hl : ∀ (t : Block) (e c : Nat), reported t (relog t e c) := fun t e c => ⟨_, _, _, _, rfl⟩
  unfold raiseQuiet
  simp only []
  split
  · exact h0
  · have last : ∀ t : Block, reported s t → reported s (if bit (rd t r.enable) i then msix t 0 else t) := by
      intro t ht
      split
      · exact reported_trans ht (reported_msix _ _)
      · exact ht
    have h1 := reported_trans h0 (reported_wr _ r.sticky (setBit (rd s r.sticky) i true))
    apply last
    split
    · exact reported_trans h1 (reported_trans (hc _) (reported_trans (reported_wr _ _ _) (reported_trans (reported_wr _ _ _)
        (reported_logEntry _ _ _ _ _))))
    · split
      · exact reported_trans h1 (reported_trans (reported_wr _ _ _) (hl _ _ _))
      · exact h1
theorem reported_event (s : Block) (k c p d : Nat) : reported s (event s k c p d) := by
  unfold event
  simp only []
  split
  · split
    · exact reported_trans ⟨_, _, _, _, rfl⟩ (reported_msix _ _)
    · exact reported_trans (reported_wr _ _ _) (reported_raiseQuiet _ _ _)
  · exact reported_refl s
theorem reported_raise (s : Block) (r : ErrRec) (i : Nat) : reported s (raise s r i) := by
  have hf : ∀ t : Block, reported t (firstError t r i) := fun t => reported_trans (reported_event t _ _ _ _) ⟨_, _, _, _, rfl⟩
  refine reported_trans (reported_raiseQuiet s r i) ?_
  rcases raise_cases s r i with e | e | ⟨a, d, e⟩ <;> rw [e]
  · exact reported_refl _
  · exact hf _
  · exact ⟨_, _, _, _, rfl⟩
theorem reported_live (s : Block) (p i : Nat) (b : Bool) : reported s (live s p i b) := by
  unfold live
  simp only []
  split
  · exact reported_refl s
  · split
    · exact reported_trans (reported_wr _ _ _) (reported_raise _ _ _)
    · exact reported_wr _ _ _

@[simp] theorem event_plan (s : Block) (k c p d : Nat) : (event s k c p d).plan = s.plan := by obtain ⟨_, _, _, _, h⟩ := reported_event s k c p d; rw [h]
@[simp] theorem raise_plan (s : Block) (r : ErrRec) (i : Nat) : (raise s r i).plan = s.plan := by obtain ⟨_, _, _, _, h⟩ := reported_raise s r i; rw [h]
@[simp] theorem live_plan (s : Block) (p i : Nat) (b : Bool) : (live s p i b).plan = s.plan := by obtain ⟨_, _, _, _, h⟩ := reported_live s p i b; rw [h]
@[simp] theorem logEntry_plan (s : Block) (k c p d : Nat) : (logEntry s k c p d).plan = s.plan := by obtain ⟨_, _, _, _, h⟩ := reported_logEntry s k c p d; rw [h]
@[simp] theorem raisePage_plan (s : Block) (p i : Nat) : (raisePage s p i).plan = s.plan := raise_plan s _ i
@[simp] theorem event_power (s : Block) (k c p d : Nat) : (event s k c p d).power = s.power := by obtain ⟨_, _, _, _, h⟩ := reported_event s k c p d; rw [h]
@[simp] theorem raise_power (s : Block) (r : ErrRec) (i : Nat) : (raise s r i).power = s.power := by obtain ⟨_, _, _, _, h⟩ := reported_raise s r i; rw [h]
@[simp] theorem live_power (s : Block) (p i : Nat) (b : Bool) : (live s p i b).power = s.power := by obtain ⟨_, _, _, _, h⟩ := reported_live s p i b; rw [h]
@[simp] theorem logEntry_power (s : Block) (k c p d : Nat) : (logEntry s k c p d).power = s.power := by obtain ⟨_, _, _, _, h⟩ := reported_logEntry s k c p d; rw [h]
@[simp] theorem raisePage_power (s : Block) (p i : Nat) : (raisePage s p i).power = s.power := raise_power s _ i
@[simp] theorem event_time (s : Block) (k c p d : Nat) : (event s k c p d).time = s.time := by obtain ⟨_, _, _, _, h⟩ := reported_event s k c p d; rw [h]
@[simp] theorem raise_time (s : Block) (r : ErrRec) (i : Nat) : (raise s r i).time = s.time := by obtain ⟨_, _, _, _, h⟩ := reported_raise s r i; rw [h]
@[simp] theorem live_time (s : Block) (p i : Nat) (b : Bool) : (live s p i b).time = s.time := by obtain ⟨_, _, _, _, h⟩ := reported_live s p i b; rw [h]
@[simp] theorem logEntry_time (s : Block) (k c p d : Nat) : (logEntry s k c p d).time = s.time := by obtain ⟨_, _, _, _, h⟩ := reported_logEntry s k c p d; rw [h]
@[simp] theorem raisePage_time (s : Block) (p i : Nat) : (raisePage s p i).time = s.time := raise_time s _ i
@[simp] theorem event_ni (s : Block) (k c p d : Nat) : (event s k c p d).ni = s.ni := by obtain ⟨_, _, _, _, h⟩ := reported_event s k c p d; rw [h]
@[simp] theorem raise_ni (s : Block) (r : ErrRec) (i : Nat) : (raise s r i).ni = s.ni := by obtain ⟨_, _, _, _, h⟩ := reported_raise s r i; rw [h]
@[simp] theorem live_ni (s : Block) (p i : Nat) (b : Bool) : (live s p i b).ni = s.ni := by obtain ⟨_, _, _, _, h⟩ := reported_live s p i b; rw [h]
@[simp] theorem logEntry_ni (s : Block) (k c p d : Nat) : (logEntry s k c p d).ni = s.ni := by obtain ⟨_, _, _, _, h⟩ := reported_logEntry s k c p d; rw [h]
@[simp] theorem raisePage_ni (s : Block) (p i : Nat) : (raisePage s p i).ni = s.ni := raise_ni s _ i
@[simp] theorem event_serv (s : Block) (k c p d : Nat) : (event s k c p d).serv = s.serv := by obtain ⟨_, _, _, _, h⟩ := reported_event s k c p d; rw [h]
@[simp] theorem raise_serv (s : Block) (r : ErrRec) (i : Nat) : (raise s r i).serv = s.serv := by obtain ⟨_, _, _, _, h⟩ := reported_raise s r i; rw [h]
@[simp] theorem live_serv (s : Block) (p i : Nat) (b : Bool) : (live s p i b).serv = s.serv := by obtain ⟨_, _, _, _, h⟩ := reported_live s p i b; rw [h]
@[simp] theorem logEntry_serv (s : Block) (k c p d : Nat) : (logEntry s k c p d).serv = s.serv := by obtain ⟨_, _, _, _, h⟩ := reported_logEntry s k c p d; rw [h]
@[simp] theorem raisePage_serv (s : Block) (p i : Nat) : (raisePage s p i).serv = s.serv := raise_serv s _ i
@[simp] theorem event_hdb (s : Block) (k c p d : Nat) : (event s k c p d).hdb = s.hdb := by obtain ⟨_, _, _, _, h⟩ := reported_event s k c p d; rw [h]
@[simp] theorem raise_hdb (s : Block) (r : ErrRec) (i : Nat) : (raise s r i).hdb = s.hdb := by obtain ⟨_, _, _, _, h⟩ := reported_raise s r i; rw [h]
@[simp] theorem live_hdb (s : Block) (p i : Nat) (b : Bool) : (live s p i b).hdb = s.hdb := by obtain ⟨_, _, _, _, h⟩ := reported_live s p i b; rw [h]
@[simp] theorem logEntry_hdb (s : Block) (k c p d : Nat) : (logEntry s k c p d).hdb = s.hdb := by obtain ⟨_, _, _, _, h⟩ := reported_logEntry s k c p d; rw [h]
@[simp] theorem raisePage_hdb (s : Block) (p i : Nat) : (raisePage s p i).hdb = s.hdb := raise_hdb s _ i
@[simp] theorem event_mgmt (s : Block) (k c p d : Nat) : (event s k c p d).mgmt = s.mgmt := by obtain ⟨_, _, _, _, h⟩ := reported_event s k c p d; rw [h]
@[simp] theorem raise_mgmt (s : Block) (r : ErrRec) (i : Nat) : (raise s r i).mgmt = s.mgmt := by obtain ⟨_, _, _, _, h⟩ := reported_raise s r i; rw [h]
@[simp] theorem live_mgmt (s : Block) (p i : Nat) (b : Bool) : (live s p i b).mgmt = s.mgmt := by obtain ⟨_, _, _, _, h⟩ := reported_live s p i b; rw [h]
@[simp] theorem logEntry_mgmt (s : Block) (k c p d : Nat) : (logEntry s k c p d).mgmt = s.mgmt := by obtain ⟨_, _, _, _, h⟩ := reported_logEntry s k c p d; rw [h]
@[simp] theorem raisePage_mgmt (s : Block) (p i : Nat) : (raisePage s p i).mgmt = s.mgmt := raise_mgmt s _ i
@[simp] theorem event_engines (s : Block) (k c p d : Nat) : (event s k c p d).engines = s.engines := by obtain ⟨_, _, _, _, h⟩ := reported_event s k c p d; rw [h]
@[simp] theorem raise_engines (s : Block) (r : ErrRec) (i : Nat) : (raise s r i).engines = s.engines := by obtain ⟨_, _, _, _, h⟩ := reported_raise s r i; rw [h]
@[simp] theorem live_engines (s : Block) (p i : Nat) (b : Bool) : (live s p i b).engines = s.engines := by obtain ⟨_, _, _, _, h⟩ := reported_live s p i b; rw [h]
@[simp] theorem logEntry_engines (s : Block) (k c p d : Nat) : (logEntry s k c p d).engines = s.engines := by obtain ⟨_, _, _, _, h⟩ := reported_logEntry s k c p d; rw [h]
@[simp] theorem raisePage_engines (s : Block) (p i : Nat) : (raisePage s p i).engines = s.engines := raise_engines s _ i
@[simp] theorem event_cores (s : Block) (k c p d : Nat) : (event s k c p d).cores = s.cores := by obtain ⟨_, _, _, _, h⟩ := reported_event s k c p d; rw [h]
@[simp] theorem raise_cores (s : Block) (r : ErrRec) (i : Nat) : (raise s r i).cores = s.cores := by obtain ⟨_, _, _, _, h⟩ := reported_raise s r i; rw [h]
@[simp] theorem live_cores (s : Block) (p i : Nat) (b : Bool) : (live s p i b).cores = s.cores := by obtain ⟨_, _, _, _, h⟩ := reported_live s p i b; rw [h]
@[simp] theorem logEntry_cores (s : Block) (k c p d : Nat) : (logEntry s k c p d).cores = s.cores := by obtain ⟨_, _, _, _, h⟩ := reported_logEntry s k c p d; rw [h]
@[simp] theorem raisePage_cores (s : Block) (p i : Nat) : (raisePage s p i).cores = s.cores := raise_cores s _ i
@[simp] theorem event_clusters (s : Block) (k c p d : Nat) : (event s k c p d).clusters = s.clusters := by obtain ⟨_, _, _, _, h⟩ := reported_event s k c p d; rw [h]
@[simp] theorem raise_clusters (s : Block) (r : ErrRec) (i : Nat) : (raise s r i).clusters = s.clusters := by obtain ⟨_, _, _, _, h⟩ := reported_raise s r i; rw [h]
@[simp] theorem live_clusters (s : Block) (p i : Nat) (b : Bool) : (live s p i b).clusters = s.clusters := by obtain ⟨_, _, _, _, h⟩ := reported_live s p i b; rw [h]
@[simp] theorem logEntry_clusters (s : Block) (k c p d : Nat) : (logEntry s k c p d).clusters = s.clusters := by obtain ⟨_, _, _, _, h⟩ := reported_logEntry s k c p d; rw [h]
@[simp] theorem raisePage_clusters (s : Block) (p i : Nat) : (raisePage s p i).clusters = s.clusters := raise_clusters s _ i
@[simp] theorem event_ports (s : Block) (k c p d : Nat) : (event s k c p d).ports = s.ports := by obtain ⟨_, _, _, _, h⟩ := reported_event s k c p d; rw [h]
@[simp] theorem raise_ports (s : Block) (r : ErrRec) (i : Nat) : (raise s r i).ports = s.ports := by obtain ⟨_, _, _, _, h⟩ := reported_raise s r i; rw [h]
@[simp] theorem live_ports (s : Block) (p i : Nat) (b : Bool) : (live s p i b).ports = s.ports := by obtain ⟨_, _, _, _, h⟩ := reported_live s p i b; rw [h]
@[simp] theorem logEntry_ports (s : Block) (k c p d : Nat) : (logEntry s k c p d).ports = s.ports := by obtain ⟨_, _, _, _, h⟩ := reported_logEntry s k c p d; rw [h]
@[simp] theorem raisePage_ports (s : Block) (p i : Nat) : (raisePage s p i).ports = s.ports := raise_ports s _ i
@[simp] theorem event_units (s : Block) (k c p d : Nat) : (event s k c p d).units = s.units := by obtain ⟨_, _, _, _, h⟩ := reported_event s k c p d; rw [h]
@[simp] theorem raise_units (s : Block) (r : ErrRec) (i : Nat) : (raise s r i).units = s.units := by obtain ⟨_, _, _, _, h⟩ := reported_raise s r i; rw [h]
@[simp] theorem live_units (s : Block) (p i : Nat) (b : Bool) : (live s p i b).units = s.units := by obtain ⟨_, _, _, _, h⟩ := reported_live s p i b; rw [h]
@[simp] theorem logEntry_units (s : Block) (k c p d : Nat) : (logEntry s k c p d).units = s.units := by obtain ⟨_, _, _, _, h⟩ := reported_logEntry s k c p d; rw [h]
@[simp] theorem raisePage_units (s : Block) (p i : Nat) : (raisePage s p i).units = s.units := raise_units s _ i
@[simp] theorem event_mesh (s : Block) (k c p d : Nat) : (event s k c p d).mesh = s.mesh := by obtain ⟨_, _, _, _, h⟩ := reported_event s k c p d; rw [h]
@[simp] theorem raise_mesh (s : Block) (r : ErrRec) (i : Nat) : (raise s r i).mesh = s.mesh := by obtain ⟨_, _, _, _, h⟩ := reported_raise s r i; rw [h]
@[simp] theorem live_mesh (s : Block) (p i : Nat) (b : Bool) : (live s p i b).mesh = s.mesh := by obtain ⟨_, _, _, _, h⟩ := reported_live s p i b; rw [h]
@[simp] theorem logEntry_mesh (s : Block) (k c p d : Nat) : (logEntry s k c p d).mesh = s.mesh := by obtain ⟨_, _, _, _, h⟩ := reported_logEntry s k c p d; rw [h]
@[simp] theorem raisePage_mesh (s : Block) (p i : Nat) : (raisePage s p i).mesh = s.mesh := raise_mesh s _ i
@[simp] theorem event_free (s : Block) (k c p d : Nat) : (event s k c p d).free = s.free := by obtain ⟨_, _, _, _, h⟩ := reported_event s k c p d; rw [h]
@[simp] theorem raise_free (s : Block) (r : ErrRec) (i : Nat) : (raise s r i).free = s.free := by obtain ⟨_, _, _, _, h⟩ := reported_raise s r i; rw [h]
@[simp] theorem live_free (s : Block) (p i : Nat) (b : Bool) : (live s p i b).free = s.free := by obtain ⟨_, _, _, _, h⟩ := reported_live s p i b; rw [h]
@[simp] theorem logEntry_free (s : Block) (k c p d : Nat) : (logEntry s k c p d).free = s.free := by obtain ⟨_, _, _, _, h⟩ := reported_logEntry s k c p d; rw [h]
@[simp] theorem raisePage_free (s : Block) (p i : Nat) : (raisePage s p i).free = s.free := raise_free s _ i
@[simp] theorem event_poison (s : Block) (k c p d : Nat) : (event s k c p d).poison = s.poison := by obtain ⟨_, _, _, _, h⟩ := reported_event s k c p d; rw [h]
@[simp] theorem raise_poison (s : Block) (r : ErrRec) (i : Nat) : (raise s r i).poison = s.poison := by obtain ⟨_, _, _, _, h⟩ := reported_raise s r i; rw [h]
@[simp] theorem live_poison (s : Block) (p i : Nat) (b : Bool) : (live s p i b).poison = s.poison := by obtain ⟨_, _, _, _, h⟩ := reported_live s p i b; rw [h]
@[simp] theorem logEntry_poison (s : Block) (k c p d : Nat) : (logEntry s k c p d).poison = s.poison := by obtain ⟨_, _, _, _, h⟩ := reported_logEntry s k c p d; rw [h]
@[simp] theorem raisePage_poison (s : Block) (p i : Nat) : (raisePage s p i).poison = s.poison := raise_poison s _ i
@[simp] theorem event_hostGuard (s : Block) (k c p d : Nat) : (event s k c p d).hostGuard = s.hostGuard := by obtain ⟨_, _, _, _, h⟩ := reported_event s k c p d; rw [h]
@[simp] theorem raise_hostGuard (s : Block) (r : ErrRec) (i : Nat) : (raise s r i).hostGuard = s.hostGuard := by obtain ⟨_, _, _, _, h⟩ := reported_raise s r i; rw [h]
@[simp] theorem live_hostGuard (s : Block) (p i : Nat) (b : Bool) : (live s p i b).hostGuard = s.hostGuard := by obtain ⟨_, _, _, _, h⟩ := reported_live s p i b; rw [h]
@[simp] theorem logEntry_hostGuard (s : Block) (k c p d : Nat) : (logEntry s k c p d).hostGuard = s.hostGuard := by obtain ⟨_, _, _, _, h⟩ := reported_logEntry s k c p d; rw [h]
@[simp] theorem raisePage_hostGuard (s : Block) (p i : Nat) : (raisePage s p i).hostGuard = s.hostGuard := raise_hostGuard s _ i
@[simp] theorem event_mgtGuard (s : Block) (k c p d : Nat) : (event s k c p d).mgtGuard = s.mgtGuard := by obtain ⟨_, _, _, _, h⟩ := reported_event s k c p d; rw [h]
@[simp] theorem raise_mgtGuard (s : Block) (r : ErrRec) (i : Nat) : (raise s r i).mgtGuard = s.mgtGuard := by obtain ⟨_, _, _, _, h⟩ := reported_raise s r i; rw [h]
@[simp] theorem live_mgtGuard (s : Block) (p i : Nat) (b : Bool) : (live s p i b).mgtGuard = s.mgtGuard := by obtain ⟨_, _, _, _, h⟩ := reported_live s p i b; rw [h]
@[simp] theorem logEntry_mgtGuard (s : Block) (k c p d : Nat) : (logEntry s k c p d).mgtGuard = s.mgtGuard := by obtain ⟨_, _, _, _, h⟩ := reported_logEntry s k c p d; rw [h]
@[simp] theorem raisePage_mgtGuard (s : Block) (p i : Nat) : (raisePage s p i).mgtGuard = s.mgtGuard := raise_mgtGuard s _ i

end Sys2Proof.Machine
end

