-- ==== Sys2Proof/Laws/Reports.lean ====
section
/-! SUPPORT. More laws of the reports: a raised bit is set and set bits stay set, a live condition shows its value, and no memory but
flash and the host's changes. -/

namespace Sys2Proof.Machine

/-- The record's sticky register shares its key with no other register that a report writes. -/
def ErrRec.apart (r : ErrRec) : Bool :=
  !([r.first.key, r.firstTime.key, Reg.MGT.LOG_WRITTEN.key, Reg.MGT.LOG_OLDEST.key, Reg.PCI.EVT_WRITTEN.key, Reg.PCI.EVT_LOST.key,
    (Reg.HDR.ERR_FIRST 0x4000).key, (Reg.HDR.ERR_FIRST_TIME 0x4000).key].contains r.sticky.key)

theorem ErrRec.sticky_width (r : ErrRec) : r.sticky.width = 16 := by
  unfold ErrRec.sticky
  split <;> rfl

theorem rd_raiseQuiet_sticky (s : Block) (r : ErrRec) (i : Nat) (h : r.apart = true) :
    rd (raiseQuiet s r i) r.sticky = if bit (rd s r.sticky) i then rd s r.sticky else setBit (rd s r.sticky) i true % 2 ^ 16 := by
  simp only [ErrRec.apart, List.contains_eq_mem, Bool.not_eq_true', decide_eq_false_iff_not, List.mem_cons, List.not_mem_nil, or_false, not_or] at h
  obtain ⟨h1, h2, h3, h4, -⟩ := h
  have hc : ∀ (t : Block) (f : Field), rd (noteCapture t r) f = rd t f := fun t f => rfl
  have hl : ∀ (t : Block) (e c : Nat) (f : Field), rd (relog t e c) f = rd t f := fun t e c f => rfl
  have hr : ∀ (n : Nat), rd { s with rises := Tab.put s.rises 0 (r.sticky.key * 16 + i) n } r.sticky = rd s r.sticky := fun n => rfl
  unfold raiseQuiet
  simp only []
  split
  · exact hr _
  · rw [← ErrRec.sticky_width r]
    split <;> split <;> (try split) <;>
      simp only [rd_msix, rd_logEntry _ _ _ _ _ _ h3 h4, rd_wr_ne _ _ h1, rd_wr_ne _ _ h2, hc, hl, rd_wr_same]

theorem bit_raiseQuiet_sticky (s : Block) (r : ErrRec) {i j : Nat} (h : r.apart = true) (hi : i < 16) (hj : j < 16) :
    bit (rd (raiseQuiet s r i) r.sticky) j = (decide (j = i) || bit (rd s r.sticky) j) := by
  rw [rd_raiseQuiet_sticky s r i h]
  split
  · by_cases e : j = i
    · subst e; simp [*]
    · simp [e]
  · rw [bit_mod_two_pow _ hj, bit_setBit]
    by_cases e : j = i <;> simp [e]

/-- A sticky bit that is set stays set while other bits rise. -/
theorem bit_raiseQuiet_keeps (s : Block) (r r' : ErrRec) {i j : Nat} (h : r.apart = true) (hi : i < 16) (hj : j < 16)
    (hk : r'.sticky.key ∉ raiseKeys r ∨ r'.sticky = r.sticky) (hb : bit (rd s r'.sticky) j = true) : bit (rd (raiseQuiet s r i) r'.sticky) j = true := by
  rcases hk with hk | hk
  · rw [rd_raiseQuiet _ _ _ _ hk, hb]
  · rw [hk] at hb ⊢
    rw [bit_raiseQuiet_sticky _ _ h hi hj, hb, Bool.or_true]

theorem bit_event_keeps (s : Block) (k c p d : Nat) (r : ErrRec) {j : Nat} (hj : j < 16) (h : r.apart = true) (hb : bit (rd s r.sticky) j = true) :
    bit (rd (event s k c p d) r.sticky) j = true := by
  have h' := h
  simp only [ErrRec.apart, List.contains_eq_mem, Bool.not_eq_true', decide_eq_false_iff_not, List.mem_cons, List.not_mem_nil, or_false, not_or] at h'
  obtain ⟨-, -, h3, h4, h5, h6, h7, h8⟩ := h'
  by_cases e : r.sticky.key = (Reg.HDR.ERR_STICKY 0x4000).key
  · have e' : r.sticky = (pageRec 0x4000).sticky := by
      have hw := ErrRec.sticky_width r
      revert e hw
      unfold ErrRec.sticky
      cases hb : r.blk <;> simp [Field.key, Reg.HDR.ERR_STICKY, Reg.BLK.ERR_STICKY, pageRec] <;> omega
    unfold event
    simp only []
    split
    · split
      · rw [rd_msix, rd_incMod_ne _ _ h5, rd_hostWrite]; exact hb
      · exact bit_raiseQuiet_keeps _ _ _ (by decide) (by decide) hj (.inr e') (by rw [rd_incSat_ne _ _ h6]; exact hb)
    · exact hb
  · rw [rd_event]
    · exact hb
    · simp only [raiseKeys, List.mem_cons, List.not_mem_nil, or_false, not_or]
      exact ⟨e, h7, h8, h3, h4, h5, h6, e, h7, h8⟩

/-- A bit just raised is set. -/
theorem bit_raise_same (s : Block) (r : ErrRec) {i : Nat} (h : r.apart = true) (hi : i < 16) : bit (rd (raise s r i) r.sticky) i = true := by
  have hq : bit (rd (raiseQuiet s r i) r.sticky) i = true := by rw [bit_raiseQuiet_sticky _ _ h hi hi]; simp
  rcases raise_cases s r i with e | e | ⟨a, d, e⟩ <;> rw [e]
  · exact hq
  · rw [rd_firstError]; exact bit_event_keeps _ _ _ _ _ r hi h hq
  · rw [rd_hostWrite]; exact hq

/-- A set bit of any record stays set. -/
theorem bit_raise_keeps (s : Block) (r r' : ErrRec) {i j : Nat} (h : r.apart = true) (h' : r'.apart = true) (hi : i < 16) (hj : j < 16)
    (hk : r'.sticky.key ∉ raiseKeys r ∨ r'.sticky = r.sticky) (hb : bit (rd s r'.sticky) j = true) : bit (rd (raise s r i) r'.sticky) j = true := by
  have hq := bit_raiseQuiet_keeps s r r' h hi hj hk hb
  rcases raise_cases s r i with e | e | ⟨a, d, e⟩ <;> rw [e]
  · exact hq
  · rw [rd_firstError]; exact bit_event_keeps _ _ _ _ _ r' hj h' hq
  · rw [rd_hostWrite]; exact hq

theorem bit_live_keeps (s : Block) (p i : Nat) (b : Bool) (r' : ErrRec) {j : Nat} (h : (pageRec p).apart = true) (h' : r'.apart = true)
    (hi : i < 16) (hj : j < 16) (hs : r'.sticky.key ≠ (Reg.HDR.STATUS p).key)
    (hk : r'.sticky.key ∉ raiseKeys (pageRec p) ∨ r'.sticky = (pageRec p).sticky) (hb : bit (rd s r'.sticky) j = true) :
    bit (rd (live s p i b) r'.sticky) j = true := by
  have hw : ∀ v, bit (rd (wr s (Reg.HDR.STATUS p) v) r'.sticky) j = true := fun v => by rw [rd_wr_ne _ _ hs]; exact hb
  unfold live
  simp only []
  split
  · exact hb
  · split
    · exact bit_raise_keeps _ _ _ h h' hi hj hk (hw _)
    · exact hw _

/-- A live condition shows its value. -/
theorem isLive_live (s : Block) (p i : Nat) (b : Bool) (hi : i < 16) (hs : (Reg.HDR.STATUS p).key ∉ raiseKeys (pageRec p)) :
    isLive (live s p i b) p i = b := by
  unfold isLive live
  simp only []
  split
  · assumption
  · have hw : bit (rd (wr s (Reg.HDR.STATUS p) (setBit (rd s (Reg.HDR.STATUS p)) i b)) (Reg.HDR.STATUS p)) i = b := by
      rw [rd_wr_same]
      exact (bit_mod_two_pow _ hi).trans (bit_setBit_same _ _ _)
    split
    · rw [rd_raisePage _ _ _ _ hs]
      exact hw
    · exact hw

/-! ### The memories -/

/-- The memories that no report writes are the same. -/
def sameMem (a b : Block) : Prop := b.store.dev = a.store.dev ∧ b.store.imem = a.store.imem ∧ b.store.staging = a.store.staging ∧ b.store.step = a.store.step ∧ b.store.rank = a.store.rank ∧ b.store.msix = a.store.msix
theorem sameMem_refl (a : Block) : sameMem a a := ⟨rfl, rfl, rfl, rfl, rfl, rfl⟩
theorem sameMem_trans {a b c : Block} (h : sameMem a b) (g : sameMem b c) : sameMem a c :=
  ⟨g.1.trans h.1, g.2.1.trans h.2.1, g.2.2.1.trans h.2.2.1, g.2.2.2.1.trans h.2.2.2.1, g.2.2.2.2.1.trans h.2.2.2.2.1, g.2.2.2.2.2.trans h.2.2.2.2.2⟩
theorem sameMem_msix (s : Block) (v : Nat) : sameMem s (msix s v) := by
  unfold msix; split <;> exact sameMem_refl _
theorem sameMem_logEntry (s : Block) (k c p d : Nat) : sameMem s (logEntry s k c p d) := by
  unfold logEntry; simp only []; split <;> exact sameMem_refl _
theorem sameMem_raiseQuiet (s : Block) (r : ErrRec) (i : Nat) : sameMem s (raiseQuiet s r i) := by
  unfold raiseQuiet
  simp only []
  split
  · exact sameMem_refl s
  · have last : ∀ t : Block, sameMem s t → sameMem s (if bit (rd t r.enable) i then msix t 0 else t) := by
      intro t ht
      split
      · exact sameMem_trans ht (sameMem_msix _ _)
      · exact ht
    apply last
    split
    · exact sameMem_logEntry (s := wr (wr ({ wr { s with rises := _ } r.sticky (setBit (rd s r.sticky) i true) with captures := _ }) r.first (i + 1)) r.firstTime _) _ _ _ _
    · split <;> exact sameMem_refl s
theorem sameMem_event (s : Block) (k c p d : Nat) : sameMem s (event s k c p d) := by
  unfold event
  simp only []
  split
  · split
    · exact sameMem_msix (s := incMod (hostWrite s _ _) _ _) _
    · exact sameMem_raiseQuiet (s := incSat s _ _) _ _
  · exact sameMem_refl s
theorem sameMem_raise (s : Block) (r : ErrRec) (i : Nat) : sameMem s (raise s r i) := by
  refine sameMem_trans (sameMem_raiseQuiet s r i) ?_
  rcases raise_cases s r i with e | e | ⟨a, d, e⟩ <;> rw [e]
  · exact sameMem_refl _
  · exact sameMem_event _ _ _ _ _
  · exact sameMem_refl _
theorem sameMem_raisePage (s : Block) (p i : Nat) : sameMem s (raisePage s p i) := sameMem_raise _ _ _
theorem sameMem_live (s : Block) (p i : Nat) (b : Bool) : sameMem s (live s p i b) := by
  unfold live
  simp only []
  split
  · exact sameMem_refl s
  · split
    · exact sameMem_raise (s := wr s _ _) _ _
    · exact sameMem_refl s

@[simp] theorem msix_dev_same (s : Block) (v : Nat) : (msix s v).store.dev = s.store.dev := (sameMem_msix s v).1
@[simp] theorem msix_imem_same (s : Block) (v : Nat) : (msix s v).store.imem = s.store.imem := (sameMem_msix s v).2.1
@[simp] theorem msix_staging_same (s : Block) (v : Nat) : (msix s v).store.staging = s.store.staging := (sameMem_msix s v).2.2.1
@[simp] theorem msix_step_same (s : Block) (v : Nat) : (msix s v).store.step = s.store.step := (sameMem_msix s v).2.2.2.1
@[simp] theorem msix_rank_same (s : Block) (v : Nat) : (msix s v).store.rank = s.store.rank := (sameMem_msix s v).2.2.2.2.1
@[simp] theorem msix_msix_same (s : Block) (v : Nat) : (msix s v).store.msix = s.store.msix := (sameMem_msix s v).2.2.2.2.2
@[simp] theorem logEntry_dev_same (s : Block) (k c p d : Nat) : (logEntry s k c p d).store.dev = s.store.dev := (sameMem_logEntry s k c p d).1
@[simp] theorem logEntry_imem_same (s : Block) (k c p d : Nat) : (logEntry s k c p d).store.imem = s.store.imem := (sameMem_logEntry s k c p d).2.1
@[simp] theorem logEntry_staging_same (s : Block) (k c p d : Nat) : (logEntry s k c p d).store.staging = s.store.staging := (sameMem_logEntry s k c p d).2.2.1
@[simp] theorem logEntry_step_same (s : Block) (k c p d : Nat) : (logEntry s k c p d).store.step = s.store.step := (sameMem_logEntry s k c p d).2.2.2.1
@[simp] theorem logEntry_rank_same (s : Block) (k c p d : Nat) : (logEntry s k c p d).store.rank = s.store.rank := (sameMem_logEntry s k c p d).2.2.2.2.1
@[simp] theorem logEntry_msix_same (s : Block) (k c p d : Nat) : (logEntry s k c p d).store.msix = s.store.msix := (sameMem_logEntry s k c p d).2.2.2.2.2
@[simp] theorem raiseQuiet_dev_same (s : Block) (r : ErrRec) (i : Nat) : (raiseQuiet s r i).store.dev = s.store.dev := (sameMem_raiseQuiet s r i).1
@[simp] theorem raiseQuiet_imem_same (s : Block) (r : ErrRec) (i : Nat) : (raiseQuiet s r i).store.imem = s.store.imem := (sameMem_raiseQuiet s r i).2.1
@[simp] theorem raiseQuiet_staging_same (s : Block) (r : ErrRec) (i : Nat) : (raiseQuiet s r i).store.staging = s.store.staging := (sameMem_raiseQuiet s r i).2.2.1
@[simp] theorem raiseQuiet_step_same (s : Block) (r : ErrRec) (i : Nat) : (raiseQuiet s r i).store.step = s.store.step := (sameMem_raiseQuiet s r i).2.2.2.1
@[simp] theorem raiseQuiet_rank_same (s : Block) (r : ErrRec) (i : Nat) : (raiseQuiet s r i).store.rank = s.store.rank := (sameMem_raiseQuiet s r i).2.2.2.2.1
@[simp] theorem raiseQuiet_msix_same (s : Block) (r : ErrRec) (i : Nat) : (raiseQuiet s r i).store.msix = s.store.msix := (sameMem_raiseQuiet s r i).2.2.2.2.2
@[simp] theorem event_dev_same (s : Block) (k c p d : Nat) : (event s k c p d).store.dev = s.store.dev := (sameMem_event s k c p d).1
@[simp] theorem event_imem_same (s : Block) (k c p d : Nat) : (event s k c p d).store.imem = s.store.imem := (sameMem_event s k c p d).2.1
@[simp] theorem event_staging_same (s : Block) (k c p d : Nat) : (event s k c p d).store.staging = s.store.staging := (sameMem_event s k c p d).2.2.1
@[simp] theorem event_step_same (s : Block) (k c p d : Nat) : (event s k c p d).store.step = s.store.step := (sameMem_event s k c p d).2.2.2.1
@[simp] theorem event_rank_same (s : Block) (k c p d : Nat) : (event s k c p d).store.rank = s.store.rank := (sameMem_event s k c p d).2.2.2.2.1
@[simp] theorem event_msix_same (s : Block) (k c p d : Nat) : (event s k c p d).store.msix = s.store.msix := (sameMem_event s k c p d).2.2.2.2.2
@[simp] theorem raise_dev_same (s : Block) (r : ErrRec) (i : Nat) : (raise s r i).store.dev = s.store.dev := (sameMem_raise s r i).1
@[simp] theorem raise_imem_same (s : Block) (r : ErrRec) (i : Nat) : (raise s r i).store.imem = s.store.imem := (sameMem_raise s r i).2.1
@[simp] theorem raise_staging_same (s : Block) (r : ErrRec) (i : Nat) : (raise s r i).store.staging = s.store.staging := (sameMem_raise s r i).2.2.1
@[simp] theorem raise_step_same (s : Block) (r : ErrRec) (i : Nat) : (raise s r i).store.step = s.store.step := (sameMem_raise s r i).2.2.2.1
@[simp] theorem raise_rank_same (s : Block) (r : ErrRec) (i : Nat) : (raise s r i).store.rank = s.store.rank := (sameMem_raise s r i).2.2.2.2.1
@[simp] theorem raise_msix_same (s : Block) (r : ErrRec) (i : Nat) : (raise s r i).store.msix = s.store.msix := (sameMem_raise s r i).2.2.2.2.2
@[simp] theorem raisePage_dev_same (s : Block) (p i : Nat) : (raisePage s p i).store.dev = s.store.dev := (sameMem_raisePage s p i).1
@[simp] theorem raisePage_imem_same (s : Block) (p i : Nat) : (raisePage s p i).store.imem = s.store.imem := (sameMem_raisePage s p i).2.1
@[simp] theorem raisePage_staging_same (s : Block) (p i : Nat) : (raisePage s p i).store.staging = s.store.staging := (sameMem_raisePage s p i).2.2.1
@[simp] theorem raisePage_step_same (s : Block) (p i : Nat) : (raisePage s p i).store.step = s.store.step := (sameMem_raisePage s p i).2.2.2.1
@[simp] theorem raisePage_rank_same (s : Block) (p i : Nat) : (raisePage s p i).store.rank = s.store.rank := (sameMem_raisePage s p i).2.2.2.2.1
@[simp] theorem raisePage_msix_same (s : Block) (p i : Nat) : (raisePage s p i).store.msix = s.store.msix := (sameMem_raisePage s p i).2.2.2.2.2
@[simp] theorem live_dev_same (s : Block) (p i : Nat) (b : Bool) : (live s p i b).store.dev = s.store.dev := (sameMem_live s p i b).1
@[simp] theorem live_imem_same (s : Block) (p i : Nat) (b : Bool) : (live s p i b).store.imem = s.store.imem := (sameMem_live s p i b).2.1
@[simp] theorem live_staging_same (s : Block) (p i : Nat) (b : Bool) : (live s p i b).store.staging = s.store.staging := (sameMem_live s p i b).2.2.1
@[simp] theorem live_step_same (s : Block) (p i : Nat) (b : Bool) : (live s p i b).store.step = s.store.step := (sameMem_live s p i b).2.2.2.1
@[simp] theorem live_rank_same (s : Block) (p i : Nat) (b : Bool) : (live s p i b).store.rank = s.store.rank := (sameMem_live s p i b).2.2.2.2.1
@[simp] theorem live_msix_same (s : Block) (p i : Nat) (b : Bool) : (live s p i b).store.msix = s.store.msix := (sameMem_live s p i b).2.2.2.2.2

end Sys2Proof.Machine
end

