-- ==== Sys2Proof/Laws/Canon.lean ====
section
/-! SUPPORT. The canonical form of the store: every named operation over registers and memories keeps it, and so does every fold of
operations that keep it. -/

namespace Sys2Proof.Machine

theorem Tab.rising_clear {α : Type} {t : List (Nat × α)} (lo hi : Nat) (h : Tab.rising t = true) : Tab.rising (Tab.clear t lo hi) = true :=
  Tab.above_clear lo hi h

theorem wf_overlay (q : List (Nat × Nat × List Byte)) {m : Memory} (h : m.wf = true) : (overlay q m).wf = true :=
  foldl_keeps (fun m => Memory.wf m = true) _ q m h (fun _ w hm => Memory.wf_writeN w.2.2 w.2.1 hm)

/-! ### A store with one table replaced -/

theorem wf_with_regs {m : Store} {r : List (Nat × Nat)} (h : m.wf = true) (hr : Tab.rising r = true) : ({ m with regs := r } : Store).wf = true := by
  simp only [Store.wf, Bool.and_eq_true] at h ⊢
  simp [h, hr]
theorem wf_with_dev {m : Store} {x : Memory} (h : m.wf = true) (hx : x.wf = true) : ({ m with dev := x } : Store).wf = true := by
  simp only [Store.wf, Bool.and_eq_true] at h ⊢
  simp [h, hx]
theorem wf_with_imem {m : Store} {x : Memory} (h : m.wf = true) (hx : x.wf = true) : ({ m with imem := x } : Store).wf = true := by
  simp only [Store.wf, Bool.and_eq_true] at h ⊢
  simp [h, hx]
theorem wf_with_staging {m : Store} {x : Memory} (h : m.wf = true) (hx : x.wf = true) : ({ m with staging := x } : Store).wf = true := by
  simp only [Store.wf, Bool.and_eq_true] at h ⊢
  simp [h, hx]
theorem wf_with_step {m : Store} {x : Memory} (h : m.wf = true) (hx : x.wf = true) : ({ m with step := x } : Store).wf = true := by
  simp only [Store.wf, Bool.and_eq_true] at h ⊢
  simp [h, hx]
theorem wf_with_rank {m : Store} {x : Memory} (h : m.wf = true) (hx : x.wf = true) : ({ m with rank := x } : Store).wf = true := by
  simp only [Store.wf, Bool.and_eq_true] at h ⊢
  simp [h, hx]
theorem wf_with_flash {m : Store} {x : Memory} (h : m.wf = true) (hx : x.wf = true) : ({ m with flash := x } : Store).wf = true := by
  simp only [Store.wf, Bool.and_eq_true] at h ⊢
  simp [h, hx]
theorem wf_with_msix {m : Store} {x : Memory} (h : m.wf = true) (hx : x.wf = true) : ({ m with msix := x } : Store).wf = true := by
  simp only [Store.wf, Bool.and_eq_true] at h ⊢
  simp [h, hx]
theorem wf_with_host {m : Store} {x : Memory} (h : m.wf = true) (hx : x.wf = true) : ({ m with host := x } : Store).wf = true := by
  simp only [Store.wf, Bool.and_eq_true] at h ⊢
  simp [h, hx]

theorem wf_regs {m : Store} (h : m.wf = true) : Tab.rising m.regs = true := by simp only [Store.wf, Bool.and_eq_true] at h; exact h.1.1.1.1.1.1.1.1
theorem wf_dev {m : Store} (h : m.wf = true) : m.dev.wf = true := by simp only [Store.wf, Bool.and_eq_true] at h; exact h.1.1.1.1.1.1.1.2
theorem wf_imem {m : Store} (h : m.wf = true) : m.imem.wf = true := by simp only [Store.wf, Bool.and_eq_true] at h; exact h.1.1.1.1.1.1.2
theorem wf_staging {m : Store} (h : m.wf = true) : m.staging.wf = true := by simp only [Store.wf, Bool.and_eq_true] at h; exact h.1.1.1.1.1.2
theorem wf_step {m : Store} (h : m.wf = true) : m.step.wf = true := by simp only [Store.wf, Bool.and_eq_true] at h; exact h.1.1.1.1.2
theorem wf_rank {m : Store} (h : m.wf = true) : m.rank.wf = true := by simp only [Store.wf, Bool.and_eq_true] at h; exact h.1.1.1.2
theorem wf_flash {m : Store} (h : m.wf = true) : m.flash.wf = true := by simp only [Store.wf, Bool.and_eq_true] at h; exact h.1.1.2
theorem wf_msix {m : Store} (h : m.wf = true) : m.msix.wf = true := by simp only [Store.wf, Bool.and_eq_true] at h; exact h.1.2
theorem wf_host {m : Store} (h : m.wf = true) : m.host.wf = true := by simp only [Store.wf, Bool.and_eq_true] at h; exact h.2

/-! ### The operations -/

/-- The module's store is canonical. -/
def canonical (s : Block) : Prop := s.store.wf = true

variable {s : Block}

/-- What leaves the store alone keeps it canonical. -/
theorem canonical_of_store {t : Block} (h : canonical s) (hs : t.store = s.store) : canonical t := by simpa [canonical, hs] using h

theorem canonical_wr (h : canonical s) (f : Field) (v : Nat) : canonical (wr s f v) := wf_with_regs h (Tab.rising_put _ _ _ (wf_regs h))
theorem canonical_incSat (h : canonical s) (f : Field) (n : Nat) : canonical (incSat s f n) := canonical_wr h f _
theorem canonical_incMod (h : canonical s) (f : Field) (n : Nat) : canonical (incMod s f n) := canonical_wr h f _
theorem canonical_toReset (h : canonical s) (f : Field) : canonical (toReset s f) := canonical_wr h f _
theorem canonical_wrFree (h : canonical s) (f : Field) : canonical (wrFree s f) := canonical_wr h f _
theorem canonical_resetPage (h : canonical s) (b : Nat) : canonical (resetPage s b) := wf_with_regs h (Tab.rising_clear _ _ (wf_regs h))
theorem canonical_resetRange (h : canonical s) (lo hi : Nat) : canonical (resetRange s lo hi) :=
  wf_with_regs h (Tab.rising_clear _ _ (wf_regs h))
theorem canonical_keepFields (old : Block) (l : List Field) (h : canonical s) : canonical (keepFields old s l) := by
  induction l generalizing s with
  | nil => exact h
  | cons f r ih => exact ih (canonical_wr h f _)
theorem canonical_devWrite (h : canonical s) (a : Nat) (bs : List Byte) : canonical (devWrite s a bs) :=
  wf_with_dev h (Memory.wf_writeN bs a (wf_dev h))
theorem canonical_devPut (h : canonical s) (a n v : Nat) : canonical (devPut s a n v) := canonical_devWrite h a _
theorem canonical_devZero (h : canonical s) (lo hi : Nat) : canonical (devZero s lo hi) := wf_with_dev h (Memory.wf_zero lo hi (wf_dev h))
theorem canonical_poisonWords (n : Nat) (h : canonical s) (a : Nat) : canonical (poisonWords s a n) := by
  induction n generalizing s a with
  | zero => exact h
  | succ n ih => exact ih (s := { s with poison := Tab.put s.poison 0 (a / 8) 1 }) h _
theorem canonical_hostWrite (h : canonical s) (a : Nat) (bs : List Byte) : canonical (hostWrite s a bs) :=
  wf_with_host h (Memory.wf_writeN bs a (wf_host h))
theorem canonical_stepWrite (h : canonical s) (a : Nat) (bs : List Byte) : canonical (stepWrite s a bs) :=
  wf_with_step h (Memory.wf_writeN bs a (wf_step h))
theorem canonical_stepZero (h : canonical s) (lo hi : Nat) : canonical (stepZero s lo hi) := wf_with_step h (Memory.wf_zero lo hi (wf_step h))
theorem canonical_rankWrite (h : canonical s) (a : Nat) (bs : List Byte) : canonical (rankWrite s a bs) :=
  wf_with_rank h (Memory.wf_writeN bs a (wf_rank h))
theorem canonical_flashWrite (h : canonical s) (a : Nat) (bs : List Byte) : canonical (flashWrite s a bs) :=
  wf_with_flash h (Memory.wf_writeN bs a (wf_flash h))
theorem canonical_flashZero (h : canonical s) (lo hi : Nat) : canonical (flashZero s lo hi) :=
  wf_with_flash h (Memory.wf_zero lo hi (wf_flash h))
theorem canonical_imemWr (h : canonical s) (a : Nat) (bs : List Byte) : canonical (imemWr s a bs) :=
  wf_with_imem h (Memory.wf_writeN bs a (wf_imem h))
theorem canonical_imemZero (h : canonical s) (lo hi : Nat) : canonical (imemZero s lo hi) := wf_with_imem h (Memory.wf_zero lo hi (wf_imem h))
theorem Memory.wf_nil : Memory.wf [] = true := rfl
theorem wf_emptied {m : Store} {x : Memory} (h : m.wf = true) (hx : x.wf = true) :
    ({ m with dev := x, imem := [], staging := [], step := [], rank := [] } : Store).wf = true := by
  simp only [Store.wf, Bool.and_eq_true] at h ⊢
  simp [h, hx, Memory.wf_nil]
theorem canonical_volatileReset (h : canonical s) (b : Bool) : canonical (volatileReset s b) := by
  cases b
  · exact wf_emptied h (Memory.wf_zero _ _ (Memory.wf_zero _ _ (wf_dev h)))
  · exact wf_emptied h Memory.wf_nil
theorem canonical_stagingSettle (h : canonical s) : canonical (stagingSettle s) := wf_with_staging h (wf_overlay _ (wf_staging h))
theorem canonical_stagingWr (h : canonical s) (a : Nat) (bs : List Byte) : canonical (stagingWr s a bs) :=
  have g := canonical_stagingSettle h
  wf_with_staging g (Memory.wf_writeN bs a (wf_staging g))
theorem canonical_stagingHost (h : canonical s) (a : Nat) (bs : List Byte) : canonical (stagingHost s a bs) := canonical_stagingSettle h
theorem canonical_stagingZero (h : canonical s) (lo hi : Nat) : canonical (stagingZero s lo hi) :=
  wf_with_staging h (Memory.wf_zero lo hi (wf_overlay _ (wf_staging h)))

/-! ### Folds and reports -/

theorem canonical_overN (n : Nat) (f : Nat → Block → Block) (h : canonical s) (hf : ∀ i t, canonical t → canonical (f i t)) :
    canonical (overN n f s) := overN_keeps canonical n f s h hf
theorem canonical_overL {α : Type} (l : List α) (f : α → Block → Block) (h : canonical s) (hf : ∀ x t, canonical t → canonical (f x t)) :
    canonical (overL l f s) := overL_keeps canonical l f s h hf
theorem canonical_when (b : Bool) (f : Block → Block) (h : canonical s) (hf : canonical (f s)) : canonical (when b f s) := by
  cases b
  · exact h
  · exact hf
theorem canonical_ite {p : Prop} [Decidable p] {t : Block} (hs : canonical s) (ht : canonical t) : canonical (if p then s else t) := by
  split <;> assumption

theorem canonical_msix (h : canonical s) (v : Nat) : canonical (msix s v) := by
  unfold msix
  split
  · exact canonical_hostWrite h _ _
  · exact h
theorem canonical_logEntry (h : canonical s) (k c p d : Nat) : canonical (logEntry s k c p d) :=
  canonical_wr (canonical_flashWrite (canonical_ite (canonical_wr (canonical_flashZero h _ _) _ _) h) _ _) _ _
theorem canonical_raiseQuiet (h : canonical s) (r : ErrRec) (i : Nat) : canonical (raiseQuiet s r i) := by
  unfold raiseQuiet
  refine canonical_ite h (canonical_ite (canonical_msix ?_ _) ?_) <;>
  · refine canonical_ite (canonical_logEntry (canonical_wr (canonical_wr ?_ _ _) _ _) _ _ _ _) (canonical_ite (canonical_flashWrite (canonical_wr ?_ _ _) _ _) ?_) <;>
      exact wf_with_regs h (Tab.rising_put _ _ _ (wf_regs h))
theorem canonical_event (h : canonical s) (k c p d : Nat) : canonical (event s k c p d) := by
  unfold event
  exact canonical_ite (canonical_ite (canonical_msix (canonical_incMod (canonical_hostWrite h _ _) _ _) _)
    (canonical_raiseQuiet (canonical_incSat h _ _) _ _)) h
theorem canonical_firstError (h : canonical s) (r : ErrRec) (i : Nat) : canonical (firstError s r i) :=
  canonical_of_store (canonical_event h 1 (r.code i) (pageId r.page) 0) rfl
theorem canonical_raise (h : canonical s) (r : ErrRec) (i : Nat) : canonical (raise s r i) :=
  canonical_ite (canonical_ite (canonical_firstError (canonical_raiseQuiet h _ _) _ _) (canonical_hostWrite (canonical_raiseQuiet h _ _) _ _))
    (canonical_raiseQuiet h _ _)
theorem canonical_raisePage (h : canonical s) (p i : Nat) : canonical (raisePage s p i) := canonical_raise h _ _
theorem canonical_live (h : canonical s) (p i : Nat) (b : Bool) : canonical (live s p i b) := by
  unfold live
  exact canonical_ite h (canonical_ite (canonical_raisePage (canonical_wr h _ _) _ _) (canonical_wr h _ _))

end Sys2Proof.Machine
end

