-- ==== Sys2Proof/Laws/Yields.lean ====
section
/-! SUPPORT. Laws of the terms that claims use: how a command completes, and that reports keep what they keep. -/

namespace Sys2Proof.Machine

theorem yields_run {c : Instr} {s : State} {f : Block → Block} {P : Block → Prop} (h : exec c s = run f s) (hp : P (f s.block)) : Yields c s P :=
  ⟨_, h, rfl, hp⟩

theorem memKept_refl (a : Block) : memKept a a := fun _ => ⟨rfl, rfl, rfl, rfl, rfl, rfl⟩
theorem memKept_trans {a b c : Block} (h : memKept a b) (g : memKept b c) : memKept a c := fun x => by
  obtain ⟨h1, h2, h3, h4, h5, h6⟩ := h x
  obtain ⟨g1, g2, g3, g4, g5, g6⟩ := g x
  exact ⟨g1.trans h1, g2.trans h2, g3.trans h3, g4.trans h4, g5.trans h5, g6.trans h6⟩
theorem memKept_of_same {a b : Block} (h : sameMem a b) : memKept a b := fun x => by
  obtain ⟨h1, h2, h3, h4, h5, h6⟩ := h
  rw [h1, h2, h3, h4, h5, h6]; exact ⟨rfl, rfl, rfl, rfl, rfl, rfl⟩

theorem regsKept_refl (ks : List Nat) (a : Block) : regsKept ks a a := fun _ _ => rfl
theorem regsKept_trans {ks : List Nat} {a b c : Block} (h : regsKept ks a b) (g : regsKept ks b c) : regsKept ks a c :=
  fun f hf => (g f hf).trans (h f hf)
theorem regsKept_wr {ks : List Nat} {a b : Block} {f : Field} {v : Nat} (hf : f.key ∈ ks) (h : regsKept ks a b) : regsKept ks a (wr b f v) :=
  fun g hg => (rd_wr_ne (f := g) (g := f) _ _ (fun e => hg (by rw [e]; exact hf))).trans (h g hg)

theorem mem_raiseKeys {p k : Nat} (h : k ∉ reportKeys p) : k ∉ raiseKeys (pageRec p) := by
  simp only [reportKeys, raiseKeys, pageRec, ErrRec.sticky, ErrRec.first, ErrRec.firstTime, List.mem_cons, List.not_mem_nil, or_false,
    not_or] at h ⊢
  obtain ⟨-, h⟩ := h
  exact h

theorem regsKept_raisePage {ks : List Nat} {a b : Block} {p i : Nat} (hk : ∀ k ∈ reportKeys p, k ∈ ks) (h : regsKept ks a b) :
    regsKept ks a (raisePage b p i) :=
  fun g hg => (rd_raisePage _ _ _ _ (mem_raiseKeys (fun e => hg (hk _ e)))).trans (h g hg)

theorem regsKept_live {ks : List Nat} {a b : Block} {p i : Nat} {v : Bool} (hk : ∀ k ∈ reportKeys p, k ∈ ks) (h : regsKept ks a b) :
    regsKept ks a (live b p i v) := fun g hg => by
  have hn : g.key ∉ reportKeys p := fun e => hg (hk _ e)
  refine (rd_live _ _ _ _ _ (mem_raiseKeys hn) ?_).trans (h g hg)
  intro e
  exact hn (by simp [reportKeys, e])

theorem regsKept_when {ks : List Nat} {a b : Block} {c : Bool} {f : Block → Block} (h : regsKept ks a b) (hf : regsKept ks a (f b)) :
    regsKept ks a (when c f b) := by
  cases c
  · exact h
  · exact hf

end Sys2Proof.Machine
end

