-- ==== Sys2Proof/Laws/Store.lean ====
section
/-! SUPPORT. The registers as part of the store: a record update of another field of the module leaves the store, so that a register read
after many updates comes down to the writes of registers. -/

namespace Sys2Proof.Machine

/-- A field's value in a store. -/
def rds (st : Store) (f : Field) : Nat := Tab.get st.regs f.reset f.key % 2 ^ f.width
/-- A store with a field written. -/
def wrs (st : Store) (f : Field) (v : Nat) : Store := { st with regs := Tab.put st.regs f.reset f.key (v % 2 ^ f.width) }

theorem rd_store (s : Block) (f : Field) : rd s f = rds s.store f := rfl
@[simp] theorem wr_store (s : Block) (f : Field) (v : Nat) : (wr s f v).store = wrs s.store f v := rfl
@[simp] theorem wrs_dev (st : Store) (f : Field) (v : Nat) : (wrs st f v).dev = st.dev := rfl
@[simp] theorem wrs_imem (st : Store) (f : Field) (v : Nat) : (wrs st f v).imem = st.imem := rfl
@[simp] theorem wrs_staging (st : Store) (f : Field) (v : Nat) : (wrs st f v).staging = st.staging := rfl
@[simp] theorem wrs_step (st : Store) (f : Field) (v : Nat) : (wrs st f v).step = st.step := rfl
@[simp] theorem wrs_rank (st : Store) (f : Field) (v : Nat) : (wrs st f v).rank = st.rank := rfl
@[simp] theorem wrs_flash (st : Store) (f : Field) (v : Nat) : (wrs st f v).flash = st.flash := rfl
@[simp] theorem wrs_msix (st : Store) (f : Field) (v : Nat) : (wrs st f v).msix = st.msix := rfl
@[simp] theorem wrs_host (st : Store) (f : Field) (v : Nat) : (wrs st f v).host = st.host := rfl
@[simp] theorem rds_wrs_same (st : Store) (f : Field) (v : Nat) : rds (wrs st f v) f = v % 2 ^ f.width := by simp [rds, wrs]
theorem rds_wrs_ne (st : Store) {f g : Field} (v : Nat) (h : f.key ≠ g.key) : rds (wrs st g v) f = rds st f := by
  simp [rds, wrs, Tab.get_put_ne _ _ _ _ h]
theorem rds_lt (st : Store) (f : Field) : rds st f < 2 ^ f.width := Nat.mod_lt _ (Nat.two_pow_pos _)

/-- A store differs from another outside the registers only. -/
theorem rds_congr {a b : Store} (f : Field) (h : a.regs = b.regs) : rds a f = rds b f := by simp only [rds, h]
@[simp] theorem rds_dev (st : Store) (m : Memory) (f : Field) : rds { st with dev := m } f = rds st f := rfl
@[simp] theorem rds_imem (st : Store) (m : Memory) (f : Field) : rds { st with imem := m } f = rds st f := rfl
@[simp] theorem rds_staging (st : Store) (m : Memory) (f : Field) : rds { st with staging := m } f = rds st f := rfl
@[simp] theorem rds_step (st : Store) (m : Memory) (f : Field) : rds { st with step := m } f = rds st f := rfl
@[simp] theorem rds_rank (st : Store) (m : Memory) (f : Field) : rds { st with rank := m } f = rds st f := rfl
@[simp] theorem rds_flash (st : Store) (m : Memory) (f : Field) : rds { st with flash := m } f = rds st f := rfl
@[simp] theorem rds_msix (st : Store) (m : Memory) (f : Field) : rds { st with msix := m } f = rds st f := rfl
@[simp] theorem rds_host (st : Store) (m : Memory) (f : Field) : rds { st with host := m } f = rds st f := rfl

@[simp] theorem setEng_store (s : Block) (n : Nat) (x : Engine) : (setEng s n x).store = s.store := rfl
@[simp] theorem setCore_store (s : Block) (c k : Nat) (x : CoreSt) : (setCore s c k x).store = s.store := rfl
@[simp] theorem setClus_store (s : Block) (c : Nat) (x : ClusterSt) : (setClus s c x).store = s.store := rfl
@[simp] theorem setPort_store (s : Block) (p : Nat) (x : PortSt) : (setPort s p x).store = s.store := rfl
@[simp] theorem setUnit_store (s : Block) (u : Nat) (x : UnitSt) : (setUnit s u x).store = s.store := rfl
@[simp] theorem setGuard_store (s : Block) (rq : Requester) (g : Guard) : (setGuard s rq g).store = s.store := by cases rq <;> rfl
@[simp] theorem fault_store (s : Block) (a b c d e x : Nat) : (fault s a b c d e x).store = s.store := by
  unfold fault
  split <;> rfl

@[simp] theorem rds_when (b : Bool) (f : Block → Block) (s : Block) (g : Field) :
    rds (when b f s).store g = if b then rds (f s).store g else rds s.store g := by cases b <;> rfl

@[simp] theorem rds_msix_store (s : Block) (v : Nat) (f : Field) : rds (msix s v).store f = rds s.store f := rd_msix s v f
theorem rds_logEntry (s : Block) (k c p d : Nat) (f : Field) (h1 : f.key ≠ Reg.MGT.LOG_WRITTEN.key) (h2 : f.key ≠ Reg.MGT.LOG_OLDEST.key) :
    rds (logEntry s k c p d).store f = rds s.store f := rd_logEntry s k c p d f h1 h2
theorem rds_event (s : Block) (k c p d : Nat) (f : Field) (h : f.key ∉ raiseKeys (pageRec 0x4000)) :
    rds (event s k c p d).store f = rds s.store f := rd_event s k c p d f h
theorem rds_raise (s : Block) (r : ErrRec) (i : Nat) (f : Field) (h : f.key ∉ raiseKeys r) : rds (raise s r i).store f = rds s.store f :=
  rd_raise s r i f h
theorem rds_raisePage (s : Block) (p i : Nat) (f : Field) (h : f.key ∉ raiseKeys (pageRec p)) :
    rds (raisePage s p i).store f = rds s.store f := rd_raisePage s p i f h
theorem rds_live (s : Block) (p i : Nat) (b : Bool) (f : Field) (h : f.key ∉ raiseKeys (pageRec p)) (hs : f.key ≠ (Reg.HDR.STATUS p).key) :
    rds (live s p i b).store f = rds s.store f := rd_live s p i b f h hs

/-- A bit just raised is set. -/
theorem bit_raisePage_store (s : Block) (p : Nat) {i : Nat} (h : (pageRec p).apart = true) (hi : i < 16) :
    bit (rds (raisePage s p i).store (Reg.HDR.ERR_STICKY p)) i = true := bit_raise_same s (pageRec p) h hi

/-! ### What reports leave of the tables -/

/-- The pending interrupts are all of the PCIe function that may differ. -/
def pbaOnly (a b : Block) : Prop := b.pcie = { a.pcie with pba := b.pcie.pba }
theorem pba_msix (s : Block) (v : Nat) : pbaOnly s (msix s v) := by unfold msix; split <;> rfl
theorem pba_trans {a b c : Block} (h : pbaOnly a b) (g : pbaOnly b c) : pbaOnly a c := by
  unfold pbaOnly at *
  rw [g, h]
theorem pba_of_eq {a b : Block} (h : b.pcie = a.pcie) : pbaOnly a b := by
  unfold pbaOnly
  rw [h]
theorem pba_logEntry (s : Block) (k c p d : Nat) : pbaOnly s (logEntry s k c p d) := by unfold logEntry; simp only []; split <;> rfl
theorem pba_raiseQuiet (s : Block) (r : ErrRec) (i : Nat) : pbaOnly s (raiseQuiet s r i) := by
  have hl : ∀ (t : Block) (a b c d : Nat), (logEntry t a b c d).pcie = t.pcie := by
    intro t a b c d; unfold logEntry; simp only []; split <;> rfl
  unfold raiseQuiet
  simp only []
  split
  · rfl
  · have last : ∀ t : Block, t.pcie = s.pcie → pbaOnly s (if bit (rd t r.enable) i then msix t 0 else t) := by
      intro t ht
      split
      · exact pba_trans (pba_of_eq ht) (pba_msix _ _)
      · exact pba_of_eq ht
    apply last
    split
    · rw [hl]; rfl
    · split <;> rfl
theorem pba_event (s : Block) (k c p d : Nat) : pbaOnly s (event s k c p d) := by
  unfold event
  simp only []
  split
  · split
    · exact pba_msix (incMod (hostWrite s _ _) _ _) _
    · exact pba_raiseQuiet (incSat s _ _) _ _
  · rfl
theorem pba_raise (s : Block) (r : ErrRec) (i : Nat) : pbaOnly s (raise s r i) := by
  refine pba_trans (pba_raiseQuiet s r i) ?_
  rcases raise_cases s r i with e | e | ⟨a, d, e⟩ <;> rw [e]
  · rfl
  · exact pba_event _ _ _ _ _
  · rfl

theorem isLive_keep (s t : Block) (p i : Nat) (h : rds t.store (Reg.HDR.STATUS p) = rds s.store (Reg.HDR.STATUS p)) : isLive t p i = isLive s p i := by
  simp only [isLive, rd_store, h]

theorem tablesKept_refl (a : Block) : tablesKept a a := rfl
theorem tablesKept_reported {a b : Block} (h : reported a b) (hp : b.pcie = { a.pcie with pba := b.pcie.pba }) : tablesKept a b := by
  obtain ⟨st, ri, ca, pc, rfl⟩ := h
  unfold tablesKept
  simp only at hp ⊢
  rw [← hp]

theorem tablesKept_raisePage {a b : Block} {p i : Nat} (h : tablesKept a b) : tablesKept a (raisePage b p i) := by
  have h1 := reported_raise b (pageRec p) i
  have h2 := pba_raise b (pageRec p) i
  have h3 : tablesKept b (raisePage b p i) := tablesKept_reported h1 h2
  unfold tablesKept at *
  rw [← h3, ← h]
theorem tablesKept_wr {a b : Block} {f : Field} {v : Nat} (h : tablesKept a b) : tablesKept a (wr b f v) := by
  unfold tablesKept at *
  conv => rhs; rw [← h]
  rfl

end Sys2Proof.Machine
end

