-- ==== Sys2Proof/Laws/State.lean ====
section
/-! SUPPORT. What each update of the state leaves of it: one lemma per field and update, and what is read back from an instance's entry. The
lemmas about registers stand in Laws/Regs.lean, those about reports in Laws/Reports.lean. -/

namespace Sys2Proof.Machine

/-! ### A command's outcome -/

@[simp] theorem run_eq (f : Block → Block) (s : State) : run f s = .next { s with block := f s.block } := rfl
@[simp] theorem runIf_true (n : String) (f : Block → Block) (s : State) : runIf true n f s = run f s := rfl
@[simp] theorem runIf_false (n : String) (f : Block → Block) (s : State) : runIf false n f s = .refused (.illFormed n) := rfl

/-! ### Entries of the instance tables -/

@[simp] theorem eng_setEng (s : Block) (n : Nat) (x : Engine) : eng (setEng s n x) n = x := Tab.get_put_same _ _ _ _
theorem eng_setEng_ne (s : Block) {n m : Nat} (x : Engine) (h : m ≠ n) : eng (setEng s n x) m = eng s m := Tab.get_put_ne _ _ _ _ h
@[simp] theorem core_setCore (s : Block) (c k : Nat) (x : CoreSt) : core (setCore s c k x) c k = x := Tab.get_put_same _ _ _ _
@[simp] theorem clus_setClus (s : Block) (c : Nat) (x : ClusterSt) : clus (setClus s c x) c = x := Tab.get_put_same _ _ _ _
theorem clus_setClus_ne (s : Block) {c d : Nat} (x : ClusterSt) (h : d ≠ c) : clus (setClus s c x) d = clus s d := Tab.get_put_ne _ _ _ _ h
@[simp] theorem prt_setPort (s : Block) (p : Nat) (x : PortSt) : prt (setPort s p x) p = x := Tab.get_put_same _ _ _ _
theorem prt_setPort_ne (s : Block) {p q : Nat} (x : PortSt) (h : q ≠ p) : prt (setPort s p x) q = prt s q := Tab.get_put_ne _ _ _ _ h
@[simp] theorem unit_setUnit (s : Block) (u : Nat) (x : UnitSt) : unit (setUnit s u x) u = x := Tab.get_put_same _ _ _ _
theorem unit_setUnit_ne (s : Block) {u v : Nat} (x : UnitSt) (h : v ≠ u) : unit (setUnit s u x) v = unit s v := Tab.get_put_ne _ _ _ _ h
@[simp] theorem sideQueue_setSide (s : Block) (c o : Nat) (q : List SideFlit) : sideQueue (setSide s c o q) c o = q :=
  Tab.get_put_same _ _ _ _
@[simp] theorem dmaOf_setDma (s : Block) (q : Nat) (l : List Dma) : dmaOf (setDma s q l) q = l := Tab.get_put_same _ _ _ _
@[simp] theorem guardOf_setGuard (s : Block) (rq : Requester) (g : Guard) : guardOf (setGuard s rq g) rq = g := by cases rq <;> rfl
theorem guardOf_setGuard_ne (s : Block) {rq r : Requester} (g : Guard) (h : r ≠ rq) : guardOf (setGuard s rq g) r = guardOf s r := by
  cases rq <;> cases r <;> first | rfl | exact absurd rfl h

/-! ### The guard of a command -/

theorem guarded_open {s : Block} {rq : Requester} {pg : Nat} {ch : Bool} {body : Bool → Block → Block} (h : guardOpen s rq = true) :
    guarded s rq pg ch body = body true (setGuard s rq {}) := by simp [guarded, h]
theorem guardedCmd_open {s : Block} {rq : Requester} {pg : Nat} {body : Block → Block} (hp : pageResponds s pg = true)
    (h : guardOpen s rq = true) : guardedCmd s rq pg body = body (setGuard s rq {}) := by simp [guardedCmd, hp, guarded_open h]
theorem guardedCmd_closed {s : Block} {rq : Requester} {pg : Nat} {body : Block → Block} (hp : pageResponds s pg = true)
    (h : guardOpen s rq = false) : guardedCmd s rq pg body =
      raisePage (incSat (incSat s (Reg.HDR.LOCK_STATE_REFUSED pg) 1) Reg.GLB.GUARD_REFUSALS 1) 0 ErrBit.GLB.GUARD_REFUSED := by
  simp [guardedCmd, hp, guarded, h, when]
theorem guardedCmd_silent {s : Block} {rq : Requester} {pg : Nat} {body : Block → Block} (hp : pageResponds s pg = false) :
    guardedCmd s rq pg body = s := by simp [guardedCmd, hp]
@[simp] theorem guardOpen_setGuard (s : Block) (rq : Requester) : guardOpen (setGuard s rq {}) rq = false := by cases rq <;> rfl

/-! ### What an update leaves -/


@[simp] theorem setEng_latches (s : Block) (n : Nat) (x : Engine) : (setEng s n x).latches = s.latches := rfl
@[simp] theorem setEng_hostGuard (s : Block) (n : Nat) (x : Engine) : (setEng s n x).hostGuard = s.hostGuard := rfl
@[simp] theorem setEng_mgtGuard (s : Block) (n : Nat) (x : Engine) : (setEng s n x).mgtGuard = s.mgtGuard := rfl
@[simp] theorem setEng_poison (s : Block) (n : Nat) (x : Engine) : (setEng s n x).poison = s.poison := rfl
@[simp] theorem setEng_imemPoison (s : Block) (n : Nat) (x : Engine) : (setEng s n x).imemPoison = s.imemPoison := rfl
@[simp] theorem setEng_soft (s : Block) (n : Nat) (x : Engine) : (setEng s n x).soft = s.soft := rfl
@[simp] theorem setEng_imemSoft (s : Block) (n : Nat) (x : Engine) : (setEng s n x).imemSoft = s.imemSoft := rfl
@[simp] theorem setEng_releases (s : Block) (n : Nat) (x : Engine) : (setEng s n x).releases = s.releases := rfl
@[simp] theorem setEng_cores (s : Block) (n : Nat) (x : Engine) : (setEng s n x).cores = s.cores := rfl
@[simp] theorem setEng_clusters (s : Block) (n : Nat) (x : Engine) : (setEng s n x).clusters = s.clusters := rfl
@[simp] theorem setEng_ports (s : Block) (n : Nat) (x : Engine) : (setEng s n x).ports = s.ports := rfl
@[simp] theorem setEng_units (s : Block) (n : Nat) (x : Engine) : (setEng s n x).units = s.units := rfl
@[simp] theorem setEng_mesh (s : Block) (n : Nat) (x : Engine) : (setEng s n x).mesh = s.mesh := rfl
@[simp] theorem setEng_side (s : Block) (n : Nat) (x : Engine) : (setEng s n x).side = s.side := rfl
@[simp] theorem setEng_sideIn (s : Block) (n : Nat) (x : Engine) : (setEng s n x).sideIn = s.sideIn := rfl
@[simp] theorem setEng_sideWait (s : Block) (n : Nat) (x : Engine) : (setEng s n x).sideWait = s.sideWait := rfl
@[simp] theorem setEng_sramScrub (s : Block) (n : Nat) (x : Engine) : (setEng s n x).sramScrub = s.sramScrub := rfl
@[simp] theorem setEng_heldReleases (s : Block) (n : Nat) (x : Engine) : (setEng s n x).heldReleases = s.heldReleases := rfl
@[simp] theorem setEng_cfgParity (s : Block) (n : Nat) (x : Engine) : (setEng s n x).cfgParity = s.cfgParity := rfl
@[simp] theorem setEng_cfgSnapshot (s : Block) (n : Nat) (x : Engine) : (setEng s n x).cfgSnapshot = s.cfgSnapshot := rfl
@[simp] theorem setEng_plan (s : Block) (n : Nat) (x : Engine) : (setEng s n x).plan = s.plan := rfl
@[simp] theorem setEng_power (s : Block) (n : Nat) (x : Engine) : (setEng s n x).power = s.power := rfl
@[simp] theorem setEng_time (s : Block) (n : Nat) (x : Engine) : (setEng s n x).time = s.time := rfl
@[simp] theorem setEng_ni (s : Block) (n : Nat) (x : Engine) : (setEng s n x).ni = s.ni := rfl
@[simp] theorem setEng_serv (s : Block) (n : Nat) (x : Engine) : (setEng s n x).serv = s.serv := rfl
@[simp] theorem setEng_hdb (s : Block) (n : Nat) (x : Engine) : (setEng s n x).hdb = s.hdb := rfl
@[simp] theorem setEng_pcie (s : Block) (n : Nat) (x : Engine) : (setEng s n x).pcie = s.pcie := rfl
@[simp] theorem setEng_mgmt (s : Block) (n : Nat) (x : Engine) : (setEng s n x).mgmt = s.mgmt := rfl
@[simp] theorem setEng_free (s : Block) (n : Nat) (x : Engine) : (setEng s n x).free = s.free := rfl
@[simp] theorem setEng_reply (s : Block) (n : Nat) (x : Engine) : (setEng s n x).reply = s.reply := rfl
@[simp] theorem setEng_rises (s : Block) (n : Nat) (x : Engine) : (setEng s n x).rises = s.rises := rfl
@[simp] theorem setEng_captures (s : Block) (n : Nat) (x : Engine) : (setEng s n x).captures = s.captures := rfl

@[simp] theorem setCore_latches (s : Block) (c k : Nat) (x : CoreSt) : (setCore s c k x).latches = s.latches := rfl
@[simp] theorem setCore_hostGuard (s : Block) (c k : Nat) (x : CoreSt) : (setCore s c k x).hostGuard = s.hostGuard := rfl
@[simp] theorem setCore_mgtGuard (s : Block) (c k : Nat) (x : CoreSt) : (setCore s c k x).mgtGuard = s.mgtGuard := rfl
@[simp] theorem setCore_poison (s : Block) (c k : Nat) (x : CoreSt) : (setCore s c k x).poison = s.poison := rfl
@[simp] theorem setCore_imemPoison (s : Block) (c k : Nat) (x : CoreSt) : (setCore s c k x).imemPoison = s.imemPoison := rfl
@[simp] theorem setCore_soft (s : Block) (c k : Nat) (x : CoreSt) : (setCore s c k x).soft = s.soft := rfl
@[simp] theorem setCore_imemSoft (s : Block) (c k : Nat) (x : CoreSt) : (setCore s c k x).imemSoft = s.imemSoft := rfl
@[simp] theorem setCore_releases (s : Block) (c k : Nat) (x : CoreSt) : (setCore s c k x).releases = s.releases := rfl
@[simp] theorem setCore_engines (s : Block) (c k : Nat) (x : CoreSt) : (setCore s c k x).engines = s.engines := rfl
@[simp] theorem setCore_clusters (s : Block) (c k : Nat) (x : CoreSt) : (setCore s c k x).clusters = s.clusters := rfl
@[simp] theorem setCore_ports (s : Block) (c k : Nat) (x : CoreSt) : (setCore s c k x).ports = s.ports := rfl
@[simp] theorem setCore_units (s : Block) (c k : Nat) (x : CoreSt) : (setCore s c k x).units = s.units := rfl
@[simp] theorem setCore_mesh (s : Block) (c k : Nat) (x : CoreSt) : (setCore s c k x).mesh = s.mesh := rfl
@[simp] theorem setCore_side (s : Block) (c k : Nat) (x : CoreSt) : (setCore s c k x).side = s.side := rfl
@[simp] theorem setCore_sideIn (s : Block) (c k : Nat) (x : CoreSt) : (setCore s c k x).sideIn = s.sideIn := rfl
@[simp] theorem setCore_sideWait (s : Block) (c k : Nat) (x : CoreSt) : (setCore s c k x).sideWait = s.sideWait := rfl
@[simp] theorem setCore_sramScrub (s : Block) (c k : Nat) (x : CoreSt) : (setCore s c k x).sramScrub = s.sramScrub := rfl
@[simp] theorem setCore_heldReleases (s : Block) (c k : Nat) (x : CoreSt) : (setCore s c k x).heldReleases = s.heldReleases := rfl
@[simp] theorem setCore_cfgParity (s : Block) (c k : Nat) (x : CoreSt) : (setCore s c k x).cfgParity = s.cfgParity := rfl
@[simp] theorem setCore_cfgSnapshot (s : Block) (c k : Nat) (x : CoreSt) : (setCore s c k x).cfgSnapshot = s.cfgSnapshot := rfl
@[simp] theorem setCore_plan (s : Block) (c k : Nat) (x : CoreSt) : (setCore s c k x).plan = s.plan := rfl
@[simp] theorem setCore_power (s : Block) (c k : Nat) (x : CoreSt) : (setCore s c k x).power = s.power := rfl
@[simp] theorem setCore_time (s : Block) (c k : Nat) (x : CoreSt) : (setCore s c k x).time = s.time := rfl
@[simp] theorem setCore_ni (s : Block) (c k : Nat) (x : CoreSt) : (setCore s c k x).ni = s.ni := rfl
@[simp] theorem setCore_serv (s : Block) (c k : Nat) (x : CoreSt) : (setCore s c k x).serv = s.serv := rfl
@[simp] theorem setCore_hdb (s : Block) (c k : Nat) (x : CoreSt) : (setCore s c k x).hdb = s.hdb := rfl
@[simp] theorem setCore_pcie (s : Block) (c k : Nat) (x : CoreSt) : (setCore s c k x).pcie = s.pcie := rfl
@[simp] theorem setCore_mgmt (s : Block) (c k : Nat) (x : CoreSt) : (setCore s c k x).mgmt = s.mgmt := rfl
@[simp] theorem setCore_free (s : Block) (c k : Nat) (x : CoreSt) : (setCore s c k x).free = s.free := rfl
@[simp] theorem setCore_reply (s : Block) (c k : Nat) (x : CoreSt) : (setCore s c k x).reply = s.reply := rfl
@[simp] theorem setCore_rises (s : Block) (c k : Nat) (x : CoreSt) : (setCore s c k x).rises = s.rises := rfl
@[simp] theorem setCore_captures (s : Block) (c k : Nat) (x : CoreSt) : (setCore s c k x).captures = s.captures := rfl

@[simp] theorem setClus_latches (s : Block) (c : Nat) (x : ClusterSt) : (setClus s c x).latches = s.latches := rfl
@[simp] theorem setClus_hostGuard (s : Block) (c : Nat) (x : ClusterSt) : (setClus s c x).hostGuard = s.hostGuard := rfl
@[simp] theorem setClus_mgtGuard (s : Block) (c : Nat) (x : ClusterSt) : (setClus s c x).mgtGuard = s.mgtGuard := rfl
@[simp] theorem setClus_poison (s : Block) (c : Nat) (x : ClusterSt) : (setClus s c x).poison = s.poison := rfl
@[simp] theorem setClus_imemPoison (s : Block) (c : Nat) (x : ClusterSt) : (setClus s c x).imemPoison = s.imemPoison := rfl
@[simp] theorem setClus_soft (s : Block) (c : Nat) (x : ClusterSt) : (setClus s c x).soft = s.soft := rfl
@[simp] theorem setClus_imemSoft (s : Block) (c : Nat) (x : ClusterSt) : (setClus s c x).imemSoft = s.imemSoft := rfl
@[simp] theorem setClus_releases (s : Block) (c : Nat) (x : ClusterSt) : (setClus s c x).releases = s.releases := rfl
@[simp] theorem setClus_engines (s : Block) (c : Nat) (x : ClusterSt) : (setClus s c x).engines = s.engines := rfl
@[simp] theorem setClus_cores (s : Block) (c : Nat) (x : ClusterSt) : (setClus s c x).cores = s.cores := rfl
@[simp] theorem setClus_ports (s : Block) (c : Nat) (x : ClusterSt) : (setClus s c x).ports = s.ports := rfl
@[simp] theorem setClus_units (s : Block) (c : Nat) (x : ClusterSt) : (setClus s c x).units = s.units := rfl
@[simp] theorem setClus_mesh (s : Block) (c : Nat) (x : ClusterSt) : (setClus s c x).mesh = s.mesh := rfl
@[simp] theorem setClus_side (s : Block) (c : Nat) (x : ClusterSt) : (setClus s c x).side = s.side := rfl
@[simp] theorem setClus_sideIn (s : Block) (c : Nat) (x : ClusterSt) : (setClus s c x).sideIn = s.sideIn := rfl
@[simp] theorem setClus_sideWait (s : Block) (c : Nat) (x : ClusterSt) : (setClus s c x).sideWait = s.sideWait := rfl
@[simp] theorem setClus_sramScrub (s : Block) (c : Nat) (x : ClusterSt) : (setClus s c x).sramScrub = s.sramScrub := rfl
@[simp] theorem setClus_heldReleases (s : Block) (c : Nat) (x : ClusterSt) : (setClus s c x).heldReleases = s.heldReleases := rfl
@[simp] theorem setClus_cfgParity (s : Block) (c : Nat) (x : ClusterSt) : (setClus s c x).cfgParity = s.cfgParity := rfl
@[simp] theorem setClus_cfgSnapshot (s : Block) (c : Nat) (x : ClusterSt) : (setClus s c x).cfgSnapshot = s.cfgSnapshot := rfl
@[simp] theorem setClus_plan (s : Block) (c : Nat) (x : ClusterSt) : (setClus s c x).plan = s.plan := rfl
@[simp] theorem setClus_power (s : Block) (c : Nat) (x : ClusterSt) : (setClus s c x).power = s.power := rfl
@[simp] theorem setClus_time (s : Block) (c : Nat) (x : ClusterSt) : (setClus s c x).time = s.time := rfl
@[simp] theorem setClus_ni (s : Block) (c : Nat) (x : ClusterSt) : (setClus s c x).ni = s.ni := rfl
@[simp] theorem setClus_serv (s : Block) (c : Nat) (x : ClusterSt) : (setClus s c x).serv = s.serv := rfl
@[simp] theorem setClus_hdb (s : Block) (c : Nat) (x : ClusterSt) : (setClus s c x).hdb = s.hdb := rfl
@[simp] theorem setClus_pcie (s : Block) (c : Nat) (x : ClusterSt) : (setClus s c x).pcie = s.pcie := rfl
@[simp] theorem setClus_mgmt (s : Block) (c : Nat) (x : ClusterSt) : (setClus s c x).mgmt = s.mgmt := rfl
@[simp] theorem setClus_free (s : Block) (c : Nat) (x : ClusterSt) : (setClus s c x).free = s.free := rfl
@[simp] theorem setClus_reply (s : Block) (c : Nat) (x : ClusterSt) : (setClus s c x).reply = s.reply := rfl
@[simp] theorem setClus_rises (s : Block) (c : Nat) (x : ClusterSt) : (setClus s c x).rises = s.rises := rfl
@[simp] theorem setClus_captures (s : Block) (c : Nat) (x : ClusterSt) : (setClus s c x).captures = s.captures := rfl

@[simp] theorem setPort_latches (s : Block) (p : Nat) (x : PortSt) : (setPort s p x).latches = s.latches := rfl
@[simp] theorem setPort_hostGuard (s : Block) (p : Nat) (x : PortSt) : (setPort s p x).hostGuard = s.hostGuard := rfl
@[simp] theorem setPort_mgtGuard (s : Block) (p : Nat) (x : PortSt) : (setPort s p x).mgtGuard = s.mgtGuard := rfl
@[simp] theorem setPort_poison (s : Block) (p : Nat) (x : PortSt) : (setPort s p x).poison = s.poison := rfl
@[simp] theorem setPort_imemPoison (s : Block) (p : Nat) (x : PortSt) : (setPort s p x).imemPoison = s.imemPoison := rfl
@[simp] theorem setPort_soft (s : Block) (p : Nat) (x : PortSt) : (setPort s p x).soft = s.soft := rfl
@[simp] theorem setPort_imemSoft (s : Block) (p : Nat) (x : PortSt) : (setPort s p x).imemSoft = s.imemSoft := rfl
@[simp] theorem setPort_releases (s : Block) (p : Nat) (x : PortSt) : (setPort s p x).releases = s.releases := rfl
@[simp] theorem setPort_engines (s : Block) (p : Nat) (x : PortSt) : (setPort s p x).engines = s.engines := rfl
@[simp] theorem setPort_cores (s : Block) (p : Nat) (x : PortSt) : (setPort s p x).cores = s.cores := rfl
@[simp] theorem setPort_clusters (s : Block) (p : Nat) (x : PortSt) : (setPort s p x).clusters = s.clusters := rfl
@[simp] theorem setPort_units (s : Block) (p : Nat) (x : PortSt) : (setPort s p x).units = s.units := rfl
@[simp] theorem setPort_mesh (s : Block) (p : Nat) (x : PortSt) : (setPort s p x).mesh = s.mesh := rfl
@[simp] theorem setPort_side (s : Block) (p : Nat) (x : PortSt) : (setPort s p x).side = s.side := rfl
@[simp] theorem setPort_sideIn (s : Block) (p : Nat) (x : PortSt) : (setPort s p x).sideIn = s.sideIn := rfl
@[simp] theorem setPort_sideWait (s : Block) (p : Nat) (x : PortSt) : (setPort s p x).sideWait = s.sideWait := rfl
@[simp] theorem setPort_sramScrub (s : Block) (p : Nat) (x : PortSt) : (setPort s p x).sramScrub = s.sramScrub := rfl
@[simp] theorem setPort_heldReleases (s : Block) (p : Nat) (x : PortSt) : (setPort s p x).heldReleases = s.heldReleases := rfl
@[simp] theorem setPort_cfgParity (s : Block) (p : Nat) (x : PortSt) : (setPort s p x).cfgParity = s.cfgParity := rfl
@[simp] theorem setPort_cfgSnapshot (s : Block) (p : Nat) (x : PortSt) : (setPort s p x).cfgSnapshot = s.cfgSnapshot := rfl
@[simp] theorem setPort_plan (s : Block) (p : Nat) (x : PortSt) : (setPort s p x).plan = s.plan := rfl
@[simp] theorem setPort_power (s : Block) (p : Nat) (x : PortSt) : (setPort s p x).power = s.power := rfl
@[simp] theorem setPort_time (s : Block) (p : Nat) (x : PortSt) : (setPort s p x).time = s.time := rfl
@[simp] theorem setPort_ni (s : Block) (p : Nat) (x : PortSt) : (setPort s p x).ni = s.ni := rfl
@[simp] theorem setPort_serv (s : Block) (p : Nat) (x : PortSt) : (setPort s p x).serv = s.serv := rfl
@[simp] theorem setPort_hdb (s : Block) (p : Nat) (x : PortSt) : (setPort s p x).hdb = s.hdb := rfl
@[simp] theorem setPort_pcie (s : Block) (p : Nat) (x : PortSt) : (setPort s p x).pcie = s.pcie := rfl
@[simp] theorem setPort_mgmt (s : Block) (p : Nat) (x : PortSt) : (setPort s p x).mgmt = s.mgmt := rfl
@[simp] theorem setPort_free (s : Block) (p : Nat) (x : PortSt) : (setPort s p x).free = s.free := rfl
@[simp] theorem setPort_reply (s : Block) (p : Nat) (x : PortSt) : (setPort s p x).reply = s.reply := rfl
@[simp] theorem setPort_rises (s : Block) (p : Nat) (x : PortSt) : (setPort s p x).rises = s.rises := rfl
@[simp] theorem setPort_captures (s : Block) (p : Nat) (x : PortSt) : (setPort s p x).captures = s.captures := rfl

@[simp] theorem setUnit_latches (s : Block) (u : Nat) (x : UnitSt) : (setUnit s u x).latches = s.latches := rfl
@[simp] theorem setUnit_hostGuard (s : Block) (u : Nat) (x : UnitSt) : (setUnit s u x).hostGuard = s.hostGuard := rfl
@[simp] theorem setUnit_mgtGuard (s : Block) (u : Nat) (x : UnitSt) : (setUnit s u x).mgtGuard = s.mgtGuard := rfl
@[simp] theorem setUnit_poison (s : Block) (u : Nat) (x : UnitSt) : (setUnit s u x).poison = s.poison := rfl
@[simp] theorem setUnit_imemPoison (s : Block) (u : Nat) (x : UnitSt) : (setUnit s u x).imemPoison = s.imemPoison := rfl
@[simp] theorem setUnit_soft (s : Block) (u : Nat) (x : UnitSt) : (setUnit s u x).soft = s.soft := rfl
@[simp] theorem setUnit_imemSoft (s : Block) (u : Nat) (x : UnitSt) : (setUnit s u x).imemSoft = s.imemSoft := rfl
@[simp] theorem setUnit_releases (s : Block) (u : Nat) (x : UnitSt) : (setUnit s u x).releases = s.releases := rfl
@[simp] theorem setUnit_engines (s : Block) (u : Nat) (x : UnitSt) : (setUnit s u x).engines = s.engines := rfl
@[simp] theorem setUnit_cores (s : Block) (u : Nat) (x : UnitSt) : (setUnit s u x).cores = s.cores := rfl
@[simp] theorem setUnit_clusters (s : Block) (u : Nat) (x : UnitSt) : (setUnit s u x).clusters = s.clusters := rfl
@[simp] theorem setUnit_ports (s : Block) (u : Nat) (x : UnitSt) : (setUnit s u x).ports = s.ports := rfl
@[simp] theorem setUnit_mesh (s : Block) (u : Nat) (x : UnitSt) : (setUnit s u x).mesh = s.mesh := rfl
@[simp] theorem setUnit_side (s : Block) (u : Nat) (x : UnitSt) : (setUnit s u x).side = s.side := rfl
@[simp] theorem setUnit_sideIn (s : Block) (u : Nat) (x : UnitSt) : (setUnit s u x).sideIn = s.sideIn := rfl
@[simp] theorem setUnit_sideWait (s : Block) (u : Nat) (x : UnitSt) : (setUnit s u x).sideWait = s.sideWait := rfl
@[simp] theorem setUnit_sramScrub (s : Block) (u : Nat) (x : UnitSt) : (setUnit s u x).sramScrub = s.sramScrub := rfl
@[simp] theorem setUnit_heldReleases (s : Block) (u : Nat) (x : UnitSt) : (setUnit s u x).heldReleases = s.heldReleases := rfl
@[simp] theorem setUnit_cfgParity (s : Block) (u : Nat) (x : UnitSt) : (setUnit s u x).cfgParity = s.cfgParity := rfl
@[simp] theorem setUnit_cfgSnapshot (s : Block) (u : Nat) (x : UnitSt) : (setUnit s u x).cfgSnapshot = s.cfgSnapshot := rfl
@[simp] theorem setUnit_plan (s : Block) (u : Nat) (x : UnitSt) : (setUnit s u x).plan = s.plan := rfl
@[simp] theorem setUnit_power (s : Block) (u : Nat) (x : UnitSt) : (setUnit s u x).power = s.power := rfl
@[simp] theorem setUnit_time (s : Block) (u : Nat) (x : UnitSt) : (setUnit s u x).time = s.time := rfl
@[simp] theorem setUnit_ni (s : Block) (u : Nat) (x : UnitSt) : (setUnit s u x).ni = s.ni := rfl
@[simp] theorem setUnit_serv (s : Block) (u : Nat) (x : UnitSt) : (setUnit s u x).serv = s.serv := rfl
@[simp] theorem setUnit_hdb (s : Block) (u : Nat) (x : UnitSt) : (setUnit s u x).hdb = s.hdb := rfl
@[simp] theorem setUnit_pcie (s : Block) (u : Nat) (x : UnitSt) : (setUnit s u x).pcie = s.pcie := rfl
@[simp] theorem setUnit_mgmt (s : Block) (u : Nat) (x : UnitSt) : (setUnit s u x).mgmt = s.mgmt := rfl
@[simp] theorem setUnit_free (s : Block) (u : Nat) (x : UnitSt) : (setUnit s u x).free = s.free := rfl
@[simp] theorem setUnit_reply (s : Block) (u : Nat) (x : UnitSt) : (setUnit s u x).reply = s.reply := rfl
@[simp] theorem setUnit_rises (s : Block) (u : Nat) (x : UnitSt) : (setUnit s u x).rises = s.rises := rfl
@[simp] theorem setUnit_captures (s : Block) (u : Nat) (x : UnitSt) : (setUnit s u x).captures = s.captures := rfl

@[simp] theorem setSide_store (s : Block) (c o : Nat) (q : List SideFlit) : (setSide s c o q).store = s.store := rfl
@[simp] theorem setSide_latches (s : Block) (c o : Nat) (q : List SideFlit) : (setSide s c o q).latches = s.latches := rfl
@[simp] theorem setSide_hostGuard (s : Block) (c o : Nat) (q : List SideFlit) : (setSide s c o q).hostGuard = s.hostGuard := rfl
@[simp] theorem setSide_mgtGuard (s : Block) (c o : Nat) (q : List SideFlit) : (setSide s c o q).mgtGuard = s.mgtGuard := rfl
@[simp] theorem setSide_poison (s : Block) (c o : Nat) (q : List SideFlit) : (setSide s c o q).poison = s.poison := rfl
@[simp] theorem setSide_imemPoison (s : Block) (c o : Nat) (q : List SideFlit) : (setSide s c o q).imemPoison = s.imemPoison := rfl
@[simp] theorem setSide_soft (s : Block) (c o : Nat) (q : List SideFlit) : (setSide s c o q).soft = s.soft := rfl
@[simp] theorem setSide_imemSoft (s : Block) (c o : Nat) (q : List SideFlit) : (setSide s c o q).imemSoft = s.imemSoft := rfl
@[simp] theorem setSide_releases (s : Block) (c o : Nat) (q : List SideFlit) : (setSide s c o q).releases = s.releases := rfl
@[simp] theorem setSide_engines (s : Block) (c o : Nat) (q : List SideFlit) : (setSide s c o q).engines = s.engines := rfl
@[simp] theorem setSide_cores (s : Block) (c o : Nat) (q : List SideFlit) : (setSide s c o q).cores = s.cores := rfl
@[simp] theorem setSide_clusters (s : Block) (c o : Nat) (q : List SideFlit) : (setSide s c o q).clusters = s.clusters := rfl
@[simp] theorem setSide_ports (s : Block) (c o : Nat) (q : List SideFlit) : (setSide s c o q).ports = s.ports := rfl
@[simp] theorem setSide_units (s : Block) (c o : Nat) (q : List SideFlit) : (setSide s c o q).units = s.units := rfl
@[simp] theorem setSide_mesh (s : Block) (c o : Nat) (q : List SideFlit) : (setSide s c o q).mesh = s.mesh := rfl
@[simp] theorem setSide_sideIn (s : Block) (c o : Nat) (q : List SideFlit) : (setSide s c o q).sideIn = s.sideIn := rfl
@[simp] theorem setSide_sideWait (s : Block) (c o : Nat) (q : List SideFlit) : (setSide s c o q).sideWait = s.sideWait := rfl
@[simp] theorem setSide_sramScrub (s : Block) (c o : Nat) (q : List SideFlit) : (setSide s c o q).sramScrub = s.sramScrub := rfl
@[simp] theorem setSide_heldReleases (s : Block) (c o : Nat) (q : List SideFlit) : (setSide s c o q).heldReleases = s.heldReleases := rfl
@[simp] theorem setSide_cfgParity (s : Block) (c o : Nat) (q : List SideFlit) : (setSide s c o q).cfgParity = s.cfgParity := rfl
@[simp] theorem setSide_cfgSnapshot (s : Block) (c o : Nat) (q : List SideFlit) : (setSide s c o q).cfgSnapshot = s.cfgSnapshot := rfl
@[simp] theorem setSide_plan (s : Block) (c o : Nat) (q : List SideFlit) : (setSide s c o q).plan = s.plan := rfl
@[simp] theorem setSide_power (s : Block) (c o : Nat) (q : List SideFlit) : (setSide s c o q).power = s.power := rfl
@[simp] theorem setSide_time (s : Block) (c o : Nat) (q : List SideFlit) : (setSide s c o q).time = s.time := rfl
@[simp] theorem setSide_ni (s : Block) (c o : Nat) (q : List SideFlit) : (setSide s c o q).ni = s.ni := rfl
@[simp] theorem setSide_serv (s : Block) (c o : Nat) (q : List SideFlit) : (setSide s c o q).serv = s.serv := rfl
@[simp] theorem setSide_hdb (s : Block) (c o : Nat) (q : List SideFlit) : (setSide s c o q).hdb = s.hdb := rfl
@[simp] theorem setSide_pcie (s : Block) (c o : Nat) (q : List SideFlit) : (setSide s c o q).pcie = s.pcie := rfl
@[simp] theorem setSide_mgmt (s : Block) (c o : Nat) (q : List SideFlit) : (setSide s c o q).mgmt = s.mgmt := rfl
@[simp] theorem setSide_free (s : Block) (c o : Nat) (q : List SideFlit) : (setSide s c o q).free = s.free := rfl
@[simp] theorem setSide_reply (s : Block) (c o : Nat) (q : List SideFlit) : (setSide s c o q).reply = s.reply := rfl
@[simp] theorem setSide_rises (s : Block) (c o : Nat) (q : List SideFlit) : (setSide s c o q).rises = s.rises := rfl
@[simp] theorem setSide_captures (s : Block) (c o : Nat) (q : List SideFlit) : (setSide s c o q).captures = s.captures := rfl

@[simp] theorem devWrite_latches (s : Block) (a : Nat) (bs : List Byte) : (devWrite s a bs).latches = s.latches := rfl
@[simp] theorem devWrite_hostGuard (s : Block) (a : Nat) (bs : List Byte) : (devWrite s a bs).hostGuard = s.hostGuard := rfl
@[simp] theorem devWrite_mgtGuard (s : Block) (a : Nat) (bs : List Byte) : (devWrite s a bs).mgtGuard = s.mgtGuard := rfl
@[simp] theorem devWrite_imemPoison (s : Block) (a : Nat) (bs : List Byte) : (devWrite s a bs).imemPoison = s.imemPoison := rfl
@[simp] theorem devWrite_imemSoft (s : Block) (a : Nat) (bs : List Byte) : (devWrite s a bs).imemSoft = s.imemSoft := rfl
@[simp] theorem devWrite_releases (s : Block) (a : Nat) (bs : List Byte) : (devWrite s a bs).releases = s.releases := rfl
@[simp] theorem devWrite_engines (s : Block) (a : Nat) (bs : List Byte) : (devWrite s a bs).engines = s.engines := rfl
@[simp] theorem devWrite_cores (s : Block) (a : Nat) (bs : List Byte) : (devWrite s a bs).cores = s.cores := rfl
@[simp] theorem devWrite_clusters (s : Block) (a : Nat) (bs : List Byte) : (devWrite s a bs).clusters = s.clusters := rfl
@[simp] theorem devWrite_ports (s : Block) (a : Nat) (bs : List Byte) : (devWrite s a bs).ports = s.ports := rfl
@[simp] theorem devWrite_units (s : Block) (a : Nat) (bs : List Byte) : (devWrite s a bs).units = s.units := rfl
@[simp] theorem devWrite_mesh (s : Block) (a : Nat) (bs : List Byte) : (devWrite s a bs).mesh = s.mesh := rfl
@[simp] theorem devWrite_side (s : Block) (a : Nat) (bs : List Byte) : (devWrite s a bs).side = s.side := rfl
@[simp] theorem devWrite_sideIn (s : Block) (a : Nat) (bs : List Byte) : (devWrite s a bs).sideIn = s.sideIn := rfl
@[simp] theorem devWrite_sideWait (s : Block) (a : Nat) (bs : List Byte) : (devWrite s a bs).sideWait = s.sideWait := rfl
@[simp] theorem devWrite_sramScrub (s : Block) (a : Nat) (bs : List Byte) : (devWrite s a bs).sramScrub = s.sramScrub := rfl
@[simp] theorem devWrite_heldReleases (s : Block) (a : Nat) (bs : List Byte) : (devWrite s a bs).heldReleases = s.heldReleases := rfl
@[simp] theorem devWrite_cfgParity (s : Block) (a : Nat) (bs : List Byte) : (devWrite s a bs).cfgParity = s.cfgParity := rfl
@[simp] theorem devWrite_cfgSnapshot (s : Block) (a : Nat) (bs : List Byte) : (devWrite s a bs).cfgSnapshot = s.cfgSnapshot := rfl
@[simp] theorem devWrite_plan (s : Block) (a : Nat) (bs : List Byte) : (devWrite s a bs).plan = s.plan := rfl
@[simp] theorem devWrite_power (s : Block) (a : Nat) (bs : List Byte) : (devWrite s a bs).power = s.power := rfl
@[simp] theorem devWrite_time (s : Block) (a : Nat) (bs : List Byte) : (devWrite s a bs).time = s.time := rfl
@[simp] theorem devWrite_ni (s : Block) (a : Nat) (bs : List Byte) : (devWrite s a bs).ni = s.ni := rfl
@[simp] theorem devWrite_serv (s : Block) (a : Nat) (bs : List Byte) : (devWrite s a bs).serv = s.serv := rfl
@[simp] theorem devWrite_hdb (s : Block) (a : Nat) (bs : List Byte) : (devWrite s a bs).hdb = s.hdb := rfl
@[simp] theorem devWrite_pcie (s : Block) (a : Nat) (bs : List Byte) : (devWrite s a bs).pcie = s.pcie := rfl
@[simp] theorem devWrite_mgmt (s : Block) (a : Nat) (bs : List Byte) : (devWrite s a bs).mgmt = s.mgmt := rfl
@[simp] theorem devWrite_free (s : Block) (a : Nat) (bs : List Byte) : (devWrite s a bs).free = s.free := rfl
@[simp] theorem devWrite_reply (s : Block) (a : Nat) (bs : List Byte) : (devWrite s a bs).reply = s.reply := rfl
@[simp] theorem devWrite_rises (s : Block) (a : Nat) (bs : List Byte) : (devWrite s a bs).rises = s.rises := rfl
@[simp] theorem devWrite_captures (s : Block) (a : Nat) (bs : List Byte) : (devWrite s a bs).captures = s.captures := rfl

@[simp] theorem hostWrite_latches (s : Block) (a : Nat) (bs : List Byte) : (hostWrite s a bs).latches = s.latches := rfl
@[simp] theorem hostWrite_hostGuard (s : Block) (a : Nat) (bs : List Byte) : (hostWrite s a bs).hostGuard = s.hostGuard := rfl
@[simp] theorem hostWrite_mgtGuard (s : Block) (a : Nat) (bs : List Byte) : (hostWrite s a bs).mgtGuard = s.mgtGuard := rfl
@[simp] theorem hostWrite_poison (s : Block) (a : Nat) (bs : List Byte) : (hostWrite s a bs).poison = s.poison := rfl
@[simp] theorem hostWrite_imemPoison (s : Block) (a : Nat) (bs : List Byte) : (hostWrite s a bs).imemPoison = s.imemPoison := rfl
@[simp] theorem hostWrite_soft (s : Block) (a : Nat) (bs : List Byte) : (hostWrite s a bs).soft = s.soft := rfl
@[simp] theorem hostWrite_imemSoft (s : Block) (a : Nat) (bs : List Byte) : (hostWrite s a bs).imemSoft = s.imemSoft := rfl
@[simp] theorem hostWrite_releases (s : Block) (a : Nat) (bs : List Byte) : (hostWrite s a bs).releases = s.releases := rfl
@[simp] theorem hostWrite_engines (s : Block) (a : Nat) (bs : List Byte) : (hostWrite s a bs).engines = s.engines := rfl
@[simp] theorem hostWrite_cores (s : Block) (a : Nat) (bs : List Byte) : (hostWrite s a bs).cores = s.cores := rfl
@[simp] theorem hostWrite_clusters (s : Block) (a : Nat) (bs : List Byte) : (hostWrite s a bs).clusters = s.clusters := rfl
@[simp] theorem hostWrite_ports (s : Block) (a : Nat) (bs : List Byte) : (hostWrite s a bs).ports = s.ports := rfl
@[simp] theorem hostWrite_units (s : Block) (a : Nat) (bs : List Byte) : (hostWrite s a bs).units = s.units := rfl
@[simp] theorem hostWrite_mesh (s : Block) (a : Nat) (bs : List Byte) : (hostWrite s a bs).mesh = s.mesh := rfl
@[simp] theorem hostWrite_side (s : Block) (a : Nat) (bs : List Byte) : (hostWrite s a bs).side = s.side := rfl
@[simp] theorem hostWrite_sideIn (s : Block) (a : Nat) (bs : List Byte) : (hostWrite s a bs).sideIn = s.sideIn := rfl
@[simp] theorem hostWrite_sideWait (s : Block) (a : Nat) (bs : List Byte) : (hostWrite s a bs).sideWait = s.sideWait := rfl
@[simp] theorem hostWrite_sramScrub (s : Block) (a : Nat) (bs : List Byte) : (hostWrite s a bs).sramScrub = s.sramScrub := rfl
@[simp] theorem hostWrite_heldReleases (s : Block) (a : Nat) (bs : List Byte) : (hostWrite s a bs).heldReleases = s.heldReleases := rfl
@[simp] theorem hostWrite_cfgParity (s : Block) (a : Nat) (bs : List Byte) : (hostWrite s a bs).cfgParity = s.cfgParity := rfl
@[simp] theorem hostWrite_cfgSnapshot (s : Block) (a : Nat) (bs : List Byte) : (hostWrite s a bs).cfgSnapshot = s.cfgSnapshot := rfl
@[simp] theorem hostWrite_plan (s : Block) (a : Nat) (bs : List Byte) : (hostWrite s a bs).plan = s.plan := rfl
@[simp] theorem hostWrite_power (s : Block) (a : Nat) (bs : List Byte) : (hostWrite s a bs).power = s.power := rfl
@[simp] theorem hostWrite_time (s : Block) (a : Nat) (bs : List Byte) : (hostWrite s a bs).time = s.time := rfl
@[simp] theorem hostWrite_ni (s : Block) (a : Nat) (bs : List Byte) : (hostWrite s a bs).ni = s.ni := rfl
@[simp] theorem hostWrite_serv (s : Block) (a : Nat) (bs : List Byte) : (hostWrite s a bs).serv = s.serv := rfl
@[simp] theorem hostWrite_hdb (s : Block) (a : Nat) (bs : List Byte) : (hostWrite s a bs).hdb = s.hdb := rfl
@[simp] theorem hostWrite_pcie (s : Block) (a : Nat) (bs : List Byte) : (hostWrite s a bs).pcie = s.pcie := rfl
@[simp] theorem hostWrite_mgmt (s : Block) (a : Nat) (bs : List Byte) : (hostWrite s a bs).mgmt = s.mgmt := rfl
@[simp] theorem hostWrite_free (s : Block) (a : Nat) (bs : List Byte) : (hostWrite s a bs).free = s.free := rfl
@[simp] theorem hostWrite_reply (s : Block) (a : Nat) (bs : List Byte) : (hostWrite s a bs).reply = s.reply := rfl
@[simp] theorem hostWrite_rises (s : Block) (a : Nat) (bs : List Byte) : (hostWrite s a bs).rises = s.rises := rfl
@[simp] theorem hostWrite_captures (s : Block) (a : Nat) (bs : List Byte) : (hostWrite s a bs).captures = s.captures := rfl

@[simp] theorem stepWrite_latches (s : Block) (a : Nat) (bs : List Byte) : (stepWrite s a bs).latches = s.latches := rfl
@[simp] theorem stepWrite_hostGuard (s : Block) (a : Nat) (bs : List Byte) : (stepWrite s a bs).hostGuard = s.hostGuard := rfl
@[simp] theorem stepWrite_mgtGuard (s : Block) (a : Nat) (bs : List Byte) : (stepWrite s a bs).mgtGuard = s.mgtGuard := rfl
@[simp] theorem stepWrite_poison (s : Block) (a : Nat) (bs : List Byte) : (stepWrite s a bs).poison = s.poison := rfl
@[simp] theorem stepWrite_imemPoison (s : Block) (a : Nat) (bs : List Byte) : (stepWrite s a bs).imemPoison = s.imemPoison := rfl
@[simp] theorem stepWrite_soft (s : Block) (a : Nat) (bs : List Byte) : (stepWrite s a bs).soft = s.soft := rfl
@[simp] theorem stepWrite_imemSoft (s : Block) (a : Nat) (bs : List Byte) : (stepWrite s a bs).imemSoft = s.imemSoft := rfl
@[simp] theorem stepWrite_releases (s : Block) (a : Nat) (bs : List Byte) : (stepWrite s a bs).releases = s.releases := rfl
@[simp] theorem stepWrite_engines (s : Block) (a : Nat) (bs : List Byte) : (stepWrite s a bs).engines = s.engines := rfl
@[simp] theorem stepWrite_cores (s : Block) (a : Nat) (bs : List Byte) : (stepWrite s a bs).cores = s.cores := rfl
@[simp] theorem stepWrite_clusters (s : Block) (a : Nat) (bs : List Byte) : (stepWrite s a bs).clusters = s.clusters := rfl
@[simp] theorem stepWrite_ports (s : Block) (a : Nat) (bs : List Byte) : (stepWrite s a bs).ports = s.ports := rfl
@[simp] theorem stepWrite_units (s : Block) (a : Nat) (bs : List Byte) : (stepWrite s a bs).units = s.units := rfl
@[simp] theorem stepWrite_mesh (s : Block) (a : Nat) (bs : List Byte) : (stepWrite s a bs).mesh = s.mesh := rfl
@[simp] theorem stepWrite_side (s : Block) (a : Nat) (bs : List Byte) : (stepWrite s a bs).side = s.side := rfl
@[simp] theorem stepWrite_sideIn (s : Block) (a : Nat) (bs : List Byte) : (stepWrite s a bs).sideIn = s.sideIn := rfl
@[simp] theorem stepWrite_sideWait (s : Block) (a : Nat) (bs : List Byte) : (stepWrite s a bs).sideWait = s.sideWait := rfl
@[simp] theorem stepWrite_sramScrub (s : Block) (a : Nat) (bs : List Byte) : (stepWrite s a bs).sramScrub = s.sramScrub := rfl
@[simp] theorem stepWrite_heldReleases (s : Block) (a : Nat) (bs : List Byte) : (stepWrite s a bs).heldReleases = s.heldReleases := rfl
@[simp] theorem stepWrite_cfgParity (s : Block) (a : Nat) (bs : List Byte) : (stepWrite s a bs).cfgParity = s.cfgParity := rfl
@[simp] theorem stepWrite_cfgSnapshot (s : Block) (a : Nat) (bs : List Byte) : (stepWrite s a bs).cfgSnapshot = s.cfgSnapshot := rfl
@[simp] theorem stepWrite_plan (s : Block) (a : Nat) (bs : List Byte) : (stepWrite s a bs).plan = s.plan := rfl
@[simp] theorem stepWrite_power (s : Block) (a : Nat) (bs : List Byte) : (stepWrite s a bs).power = s.power := rfl
@[simp] theorem stepWrite_time (s : Block) (a : Nat) (bs : List Byte) : (stepWrite s a bs).time = s.time := rfl
@[simp] theorem stepWrite_ni (s : Block) (a : Nat) (bs : List Byte) : (stepWrite s a bs).ni = s.ni := rfl
@[simp] theorem stepWrite_serv (s : Block) (a : Nat) (bs : List Byte) : (stepWrite s a bs).serv = s.serv := rfl
@[simp] theorem stepWrite_hdb (s : Block) (a : Nat) (bs : List Byte) : (stepWrite s a bs).hdb = s.hdb := rfl
@[simp] theorem stepWrite_pcie (s : Block) (a : Nat) (bs : List Byte) : (stepWrite s a bs).pcie = s.pcie := rfl
@[simp] theorem stepWrite_mgmt (s : Block) (a : Nat) (bs : List Byte) : (stepWrite s a bs).mgmt = s.mgmt := rfl
@[simp] theorem stepWrite_free (s : Block) (a : Nat) (bs : List Byte) : (stepWrite s a bs).free = s.free := rfl
@[simp] theorem stepWrite_reply (s : Block) (a : Nat) (bs : List Byte) : (stepWrite s a bs).reply = s.reply := rfl
@[simp] theorem stepWrite_rises (s : Block) (a : Nat) (bs : List Byte) : (stepWrite s a bs).rises = s.rises := rfl
@[simp] theorem stepWrite_captures (s : Block) (a : Nat) (bs : List Byte) : (stepWrite s a bs).captures = s.captures := rfl

@[simp] theorem rankWrite_latches (s : Block) (a : Nat) (bs : List Byte) : (rankWrite s a bs).latches = s.latches := rfl
@[simp] theorem rankWrite_hostGuard (s : Block) (a : Nat) (bs : List Byte) : (rankWrite s a bs).hostGuard = s.hostGuard := rfl
@[simp] theorem rankWrite_mgtGuard (s : Block) (a : Nat) (bs : List Byte) : (rankWrite s a bs).mgtGuard = s.mgtGuard := rfl
@[simp] theorem rankWrite_poison (s : Block) (a : Nat) (bs : List Byte) : (rankWrite s a bs).poison = s.poison := rfl
@[simp] theorem rankWrite_imemPoison (s : Block) (a : Nat) (bs : List Byte) : (rankWrite s a bs).imemPoison = s.imemPoison := rfl
@[simp] theorem rankWrite_soft (s : Block) (a : Nat) (bs : List Byte) : (rankWrite s a bs).soft = s.soft := rfl
@[simp] theorem rankWrite_imemSoft (s : Block) (a : Nat) (bs : List Byte) : (rankWrite s a bs).imemSoft = s.imemSoft := rfl
@[simp] theorem rankWrite_releases (s : Block) (a : Nat) (bs : List Byte) : (rankWrite s a bs).releases = s.releases := rfl
@[simp] theorem rankWrite_engines (s : Block) (a : Nat) (bs : List Byte) : (rankWrite s a bs).engines = s.engines := rfl
@[simp] theorem rankWrite_cores (s : Block) (a : Nat) (bs : List Byte) : (rankWrite s a bs).cores = s.cores := rfl
@[simp] theorem rankWrite_clusters (s : Block) (a : Nat) (bs : List Byte) : (rankWrite s a bs).clusters = s.clusters := rfl
@[simp] theorem rankWrite_ports (s : Block) (a : Nat) (bs : List Byte) : (rankWrite s a bs).ports = s.ports := rfl
@[simp] theorem rankWrite_units (s : Block) (a : Nat) (bs : List Byte) : (rankWrite s a bs).units = s.units := rfl
@[simp] theorem rankWrite_mesh (s : Block) (a : Nat) (bs : List Byte) : (rankWrite s a bs).mesh = s.mesh := rfl
@[simp] theorem rankWrite_side (s : Block) (a : Nat) (bs : List Byte) : (rankWrite s a bs).side = s.side := rfl
@[simp] theorem rankWrite_sideIn (s : Block) (a : Nat) (bs : List Byte) : (rankWrite s a bs).sideIn = s.sideIn := rfl
@[simp] theorem rankWrite_sideWait (s : Block) (a : Nat) (bs : List Byte) : (rankWrite s a bs).sideWait = s.sideWait := rfl
@[simp] theorem rankWrite_sramScrub (s : Block) (a : Nat) (bs : List Byte) : (rankWrite s a bs).sramScrub = s.sramScrub := rfl
@[simp] theorem rankWrite_heldReleases (s : Block) (a : Nat) (bs : List Byte) : (rankWrite s a bs).heldReleases = s.heldReleases := rfl
@[simp] theorem rankWrite_cfgParity (s : Block) (a : Nat) (bs : List Byte) : (rankWrite s a bs).cfgParity = s.cfgParity := rfl
@[simp] theorem rankWrite_cfgSnapshot (s : Block) (a : Nat) (bs : List Byte) : (rankWrite s a bs).cfgSnapshot = s.cfgSnapshot := rfl
@[simp] theorem rankWrite_plan (s : Block) (a : Nat) (bs : List Byte) : (rankWrite s a bs).plan = s.plan := rfl
@[simp] theorem rankWrite_power (s : Block) (a : Nat) (bs : List Byte) : (rankWrite s a bs).power = s.power := rfl
@[simp] theorem rankWrite_time (s : Block) (a : Nat) (bs : List Byte) : (rankWrite s a bs).time = s.time := rfl
@[simp] theorem rankWrite_ni (s : Block) (a : Nat) (bs : List Byte) : (rankWrite s a bs).ni = s.ni := rfl
@[simp] theorem rankWrite_serv (s : Block) (a : Nat) (bs : List Byte) : (rankWrite s a bs).serv = s.serv := rfl
@[simp] theorem rankWrite_hdb (s : Block) (a : Nat) (bs : List Byte) : (rankWrite s a bs).hdb = s.hdb := rfl
@[simp] theorem rankWrite_pcie (s : Block) (a : Nat) (bs : List Byte) : (rankWrite s a bs).pcie = s.pcie := rfl
@[simp] theorem rankWrite_mgmt (s : Block) (a : Nat) (bs : List Byte) : (rankWrite s a bs).mgmt = s.mgmt := rfl
@[simp] theorem rankWrite_free (s : Block) (a : Nat) (bs : List Byte) : (rankWrite s a bs).free = s.free := rfl
@[simp] theorem rankWrite_reply (s : Block) (a : Nat) (bs : List Byte) : (rankWrite s a bs).reply = s.reply := rfl
@[simp] theorem rankWrite_rises (s : Block) (a : Nat) (bs : List Byte) : (rankWrite s a bs).rises = s.rises := rfl
@[simp] theorem rankWrite_captures (s : Block) (a : Nat) (bs : List Byte) : (rankWrite s a bs).captures = s.captures := rfl

@[simp] theorem flashWrite_latches (s : Block) (a : Nat) (bs : List Byte) : (flashWrite s a bs).latches = s.latches := rfl
@[simp] theorem flashWrite_hostGuard (s : Block) (a : Nat) (bs : List Byte) : (flashWrite s a bs).hostGuard = s.hostGuard := rfl
@[simp] theorem flashWrite_mgtGuard (s : Block) (a : Nat) (bs : List Byte) : (flashWrite s a bs).mgtGuard = s.mgtGuard := rfl
@[simp] theorem flashWrite_poison (s : Block) (a : Nat) (bs : List Byte) : (flashWrite s a bs).poison = s.poison := rfl
@[simp] theorem flashWrite_imemPoison (s : Block) (a : Nat) (bs : List Byte) : (flashWrite s a bs).imemPoison = s.imemPoison := rfl
@[simp] theorem flashWrite_soft (s : Block) (a : Nat) (bs : List Byte) : (flashWrite s a bs).soft = s.soft := rfl
@[simp] theorem flashWrite_imemSoft (s : Block) (a : Nat) (bs : List Byte) : (flashWrite s a bs).imemSoft = s.imemSoft := rfl
@[simp] theorem flashWrite_releases (s : Block) (a : Nat) (bs : List Byte) : (flashWrite s a bs).releases = s.releases := rfl
@[simp] theorem flashWrite_engines (s : Block) (a : Nat) (bs : List Byte) : (flashWrite s a bs).engines = s.engines := rfl
@[simp] theorem flashWrite_cores (s : Block) (a : Nat) (bs : List Byte) : (flashWrite s a bs).cores = s.cores := rfl
@[simp] theorem flashWrite_clusters (s : Block) (a : Nat) (bs : List Byte) : (flashWrite s a bs).clusters = s.clusters := rfl
@[simp] theorem flashWrite_ports (s : Block) (a : Nat) (bs : List Byte) : (flashWrite s a bs).ports = s.ports := rfl
@[simp] theorem flashWrite_units (s : Block) (a : Nat) (bs : List Byte) : (flashWrite s a bs).units = s.units := rfl
@[simp] theorem flashWrite_mesh (s : Block) (a : Nat) (bs : List Byte) : (flashWrite s a bs).mesh = s.mesh := rfl
@[simp] theorem flashWrite_side (s : Block) (a : Nat) (bs : List Byte) : (flashWrite s a bs).side = s.side := rfl
@[simp] theorem flashWrite_sideIn (s : Block) (a : Nat) (bs : List Byte) : (flashWrite s a bs).sideIn = s.sideIn := rfl
@[simp] theorem flashWrite_sideWait (s : Block) (a : Nat) (bs : List Byte) : (flashWrite s a bs).sideWait = s.sideWait := rfl
@[simp] theorem flashWrite_sramScrub (s : Block) (a : Nat) (bs : List Byte) : (flashWrite s a bs).sramScrub = s.sramScrub := rfl
@[simp] theorem flashWrite_heldReleases (s : Block) (a : Nat) (bs : List Byte) : (flashWrite s a bs).heldReleases = s.heldReleases := rfl
@[simp] theorem flashWrite_cfgParity (s : Block) (a : Nat) (bs : List Byte) : (flashWrite s a bs).cfgParity = s.cfgParity := rfl
@[simp] theorem flashWrite_cfgSnapshot (s : Block) (a : Nat) (bs : List Byte) : (flashWrite s a bs).cfgSnapshot = s.cfgSnapshot := rfl
@[simp] theorem flashWrite_plan (s : Block) (a : Nat) (bs : List Byte) : (flashWrite s a bs).plan = s.plan := rfl
@[simp] theorem flashWrite_power (s : Block) (a : Nat) (bs : List Byte) : (flashWrite s a bs).power = s.power := rfl
@[simp] theorem flashWrite_time (s : Block) (a : Nat) (bs : List Byte) : (flashWrite s a bs).time = s.time := rfl
@[simp] theorem flashWrite_ni (s : Block) (a : Nat) (bs : List Byte) : (flashWrite s a bs).ni = s.ni := rfl
@[simp] theorem flashWrite_serv (s : Block) (a : Nat) (bs : List Byte) : (flashWrite s a bs).serv = s.serv := rfl
@[simp] theorem flashWrite_hdb (s : Block) (a : Nat) (bs : List Byte) : (flashWrite s a bs).hdb = s.hdb := rfl
@[simp] theorem flashWrite_pcie (s : Block) (a : Nat) (bs : List Byte) : (flashWrite s a bs).pcie = s.pcie := rfl
@[simp] theorem flashWrite_mgmt (s : Block) (a : Nat) (bs : List Byte) : (flashWrite s a bs).mgmt = s.mgmt := rfl
@[simp] theorem flashWrite_free (s : Block) (a : Nat) (bs : List Byte) : (flashWrite s a bs).free = s.free := rfl
@[simp] theorem flashWrite_reply (s : Block) (a : Nat) (bs : List Byte) : (flashWrite s a bs).reply = s.reply := rfl
@[simp] theorem flashWrite_rises (s : Block) (a : Nat) (bs : List Byte) : (flashWrite s a bs).rises = s.rises := rfl
@[simp] theorem flashWrite_captures (s : Block) (a : Nat) (bs : List Byte) : (flashWrite s a bs).captures = s.captures := rfl

@[simp] theorem imemWr_latches (s : Block) (a : Nat) (bs : List Byte) : (imemWr s a bs).latches = s.latches := rfl
@[simp] theorem imemWr_hostGuard (s : Block) (a : Nat) (bs : List Byte) : (imemWr s a bs).hostGuard = s.hostGuard := rfl
@[simp] theorem imemWr_mgtGuard (s : Block) (a : Nat) (bs : List Byte) : (imemWr s a bs).mgtGuard = s.mgtGuard := rfl
@[simp] theorem imemWr_poison (s : Block) (a : Nat) (bs : List Byte) : (imemWr s a bs).poison = s.poison := rfl
@[simp] theorem imemWr_soft (s : Block) (a : Nat) (bs : List Byte) : (imemWr s a bs).soft = s.soft := rfl
@[simp] theorem imemWr_releases (s : Block) (a : Nat) (bs : List Byte) : (imemWr s a bs).releases = s.releases := rfl
@[simp] theorem imemWr_engines (s : Block) (a : Nat) (bs : List Byte) : (imemWr s a bs).engines = s.engines := rfl
@[simp] theorem imemWr_cores (s : Block) (a : Nat) (bs : List Byte) : (imemWr s a bs).cores = s.cores := rfl
@[simp] theorem imemWr_clusters (s : Block) (a : Nat) (bs : List Byte) : (imemWr s a bs).clusters = s.clusters := rfl
@[simp] theorem imemWr_ports (s : Block) (a : Nat) (bs : List Byte) : (imemWr s a bs).ports = s.ports := rfl
@[simp] theorem imemWr_units (s : Block) (a : Nat) (bs : List Byte) : (imemWr s a bs).units = s.units := rfl
@[simp] theorem imemWr_mesh (s : Block) (a : Nat) (bs : List Byte) : (imemWr s a bs).mesh = s.mesh := rfl
@[simp] theorem imemWr_side (s : Block) (a : Nat) (bs : List Byte) : (imemWr s a bs).side = s.side := rfl
@[simp] theorem imemWr_sideIn (s : Block) (a : Nat) (bs : List Byte) : (imemWr s a bs).sideIn = s.sideIn := rfl
@[simp] theorem imemWr_sideWait (s : Block) (a : Nat) (bs : List Byte) : (imemWr s a bs).sideWait = s.sideWait := rfl
@[simp] theorem imemWr_sramScrub (s : Block) (a : Nat) (bs : List Byte) : (imemWr s a bs).sramScrub = s.sramScrub := rfl
@[simp] theorem imemWr_heldReleases (s : Block) (a : Nat) (bs : List Byte) : (imemWr s a bs).heldReleases = s.heldReleases := rfl
@[simp] theorem imemWr_cfgParity (s : Block) (a : Nat) (bs : List Byte) : (imemWr s a bs).cfgParity = s.cfgParity := rfl
@[simp] theorem imemWr_cfgSnapshot (s : Block) (a : Nat) (bs : List Byte) : (imemWr s a bs).cfgSnapshot = s.cfgSnapshot := rfl
@[simp] theorem imemWr_plan (s : Block) (a : Nat) (bs : List Byte) : (imemWr s a bs).plan = s.plan := rfl
@[simp] theorem imemWr_power (s : Block) (a : Nat) (bs : List Byte) : (imemWr s a bs).power = s.power := rfl
@[simp] theorem imemWr_time (s : Block) (a : Nat) (bs : List Byte) : (imemWr s a bs).time = s.time := rfl
@[simp] theorem imemWr_ni (s : Block) (a : Nat) (bs : List Byte) : (imemWr s a bs).ni = s.ni := rfl
@[simp] theorem imemWr_serv (s : Block) (a : Nat) (bs : List Byte) : (imemWr s a bs).serv = s.serv := rfl
@[simp] theorem imemWr_hdb (s : Block) (a : Nat) (bs : List Byte) : (imemWr s a bs).hdb = s.hdb := rfl
@[simp] theorem imemWr_pcie (s : Block) (a : Nat) (bs : List Byte) : (imemWr s a bs).pcie = s.pcie := rfl
@[simp] theorem imemWr_mgmt (s : Block) (a : Nat) (bs : List Byte) : (imemWr s a bs).mgmt = s.mgmt := rfl
@[simp] theorem imemWr_free (s : Block) (a : Nat) (bs : List Byte) : (imemWr s a bs).free = s.free := rfl
@[simp] theorem imemWr_reply (s : Block) (a : Nat) (bs : List Byte) : (imemWr s a bs).reply = s.reply := rfl
@[simp] theorem imemWr_rises (s : Block) (a : Nat) (bs : List Byte) : (imemWr s a bs).rises = s.rises := rfl
@[simp] theorem imemWr_captures (s : Block) (a : Nat) (bs : List Byte) : (imemWr s a bs).captures = s.captures := rfl

@[simp] theorem setDma_store (s : Block) (q : Nat) (l : List Dma) : (setDma s q l).store = s.store := rfl
@[simp] theorem setDma_latches (s : Block) (q : Nat) (l : List Dma) : (setDma s q l).latches = s.latches := rfl
@[simp] theorem setDma_hostGuard (s : Block) (q : Nat) (l : List Dma) : (setDma s q l).hostGuard = s.hostGuard := rfl
@[simp] theorem setDma_mgtGuard (s : Block) (q : Nat) (l : List Dma) : (setDma s q l).mgtGuard = s.mgtGuard := rfl
@[simp] theorem setDma_poison (s : Block) (q : Nat) (l : List Dma) : (setDma s q l).poison = s.poison := rfl
@[simp] theorem setDma_imemPoison (s : Block) (q : Nat) (l : List Dma) : (setDma s q l).imemPoison = s.imemPoison := rfl
@[simp] theorem setDma_soft (s : Block) (q : Nat) (l : List Dma) : (setDma s q l).soft = s.soft := rfl
@[simp] theorem setDma_imemSoft (s : Block) (q : Nat) (l : List Dma) : (setDma s q l).imemSoft = s.imemSoft := rfl
@[simp] theorem setDma_releases (s : Block) (q : Nat) (l : List Dma) : (setDma s q l).releases = s.releases := rfl
@[simp] theorem setDma_engines (s : Block) (q : Nat) (l : List Dma) : (setDma s q l).engines = s.engines := rfl
@[simp] theorem setDma_cores (s : Block) (q : Nat) (l : List Dma) : (setDma s q l).cores = s.cores := rfl
@[simp] theorem setDma_clusters (s : Block) (q : Nat) (l : List Dma) : (setDma s q l).clusters = s.clusters := rfl
@[simp] theorem setDma_ports (s : Block) (q : Nat) (l : List Dma) : (setDma s q l).ports = s.ports := rfl
@[simp] theorem setDma_units (s : Block) (q : Nat) (l : List Dma) : (setDma s q l).units = s.units := rfl
@[simp] theorem setDma_mesh (s : Block) (q : Nat) (l : List Dma) : (setDma s q l).mesh = s.mesh := rfl
@[simp] theorem setDma_side (s : Block) (q : Nat) (l : List Dma) : (setDma s q l).side = s.side := rfl
@[simp] theorem setDma_sideIn (s : Block) (q : Nat) (l : List Dma) : (setDma s q l).sideIn = s.sideIn := rfl
@[simp] theorem setDma_sideWait (s : Block) (q : Nat) (l : List Dma) : (setDma s q l).sideWait = s.sideWait := rfl
@[simp] theorem setDma_sramScrub (s : Block) (q : Nat) (l : List Dma) : (setDma s q l).sramScrub = s.sramScrub := rfl
@[simp] theorem setDma_heldReleases (s : Block) (q : Nat) (l : List Dma) : (setDma s q l).heldReleases = s.heldReleases := rfl
@[simp] theorem setDma_cfgParity (s : Block) (q : Nat) (l : List Dma) : (setDma s q l).cfgParity = s.cfgParity := rfl
@[simp] theorem setDma_cfgSnapshot (s : Block) (q : Nat) (l : List Dma) : (setDma s q l).cfgSnapshot = s.cfgSnapshot := rfl
@[simp] theorem setDma_plan (s : Block) (q : Nat) (l : List Dma) : (setDma s q l).plan = s.plan := rfl
@[simp] theorem setDma_power (s : Block) (q : Nat) (l : List Dma) : (setDma s q l).power = s.power := rfl
@[simp] theorem setDma_time (s : Block) (q : Nat) (l : List Dma) : (setDma s q l).time = s.time := rfl
@[simp] theorem setDma_ni (s : Block) (q : Nat) (l : List Dma) : (setDma s q l).ni = s.ni := rfl
@[simp] theorem setDma_serv (s : Block) (q : Nat) (l : List Dma) : (setDma s q l).serv = s.serv := rfl
@[simp] theorem setDma_hdb (s : Block) (q : Nat) (l : List Dma) : (setDma s q l).hdb = s.hdb := rfl
@[simp] theorem setDma_mgmt (s : Block) (q : Nat) (l : List Dma) : (setDma s q l).mgmt = s.mgmt := rfl
@[simp] theorem setDma_free (s : Block) (q : Nat) (l : List Dma) : (setDma s q l).free = s.free := rfl
@[simp] theorem setDma_reply (s : Block) (q : Nat) (l : List Dma) : (setDma s q l).reply = s.reply := rfl
@[simp] theorem setDma_rises (s : Block) (q : Nat) (l : List Dma) : (setDma s q l).rises = s.rises := rfl
@[simp] theorem setDma_captures (s : Block) (q : Nat) (l : List Dma) : (setDma s q l).captures = s.captures := rfl

@[simp] theorem setGuard_latches (s : Block) (rq : Requester) (g : Guard) : (setGuard s rq g).latches = s.latches := by cases rq <;> rfl
@[simp] theorem setGuard_poison (s : Block) (rq : Requester) (g : Guard) : (setGuard s rq g).poison = s.poison := by cases rq <;> rfl
@[simp] theorem setGuard_imemPoison (s : Block) (rq : Requester) (g : Guard) : (setGuard s rq g).imemPoison = s.imemPoison := by cases rq <;> rfl
@[simp] theorem setGuard_soft (s : Block) (rq : Requester) (g : Guard) : (setGuard s rq g).soft = s.soft := by cases rq <;> rfl
@[simp] theorem setGuard_imemSoft (s : Block) (rq : Requester) (g : Guard) : (setGuard s rq g).imemSoft = s.imemSoft := by cases rq <;> rfl
@[simp] theorem setGuard_releases (s : Block) (rq : Requester) (g : Guard) : (setGuard s rq g).releases = s.releases := by cases rq <;> rfl
@[simp] theorem setGuard_engines (s : Block) (rq : Requester) (g : Guard) : (setGuard s rq g).engines = s.engines := by cases rq <;> rfl
@[simp] theorem setGuard_cores (s : Block) (rq : Requester) (g : Guard) : (setGuard s rq g).cores = s.cores := by cases rq <;> rfl
@[simp] theorem setGuard_clusters (s : Block) (rq : Requester) (g : Guard) : (setGuard s rq g).clusters = s.clusters := by cases rq <;> rfl
@[simp] theorem setGuard_ports (s : Block) (rq : Requester) (g : Guard) : (setGuard s rq g).ports = s.ports := by cases rq <;> rfl
@[simp] theorem setGuard_units (s : Block) (rq : Requester) (g : Guard) : (setGuard s rq g).units = s.units := by cases rq <;> rfl
@[simp] theorem setGuard_mesh (s : Block) (rq : Requester) (g : Guard) : (setGuard s rq g).mesh = s.mesh := by cases rq <;> rfl
@[simp] theorem setGuard_side (s : Block) (rq : Requester) (g : Guard) : (setGuard s rq g).side = s.side := by cases rq <;> rfl
@[simp] theorem setGuard_sideIn (s : Block) (rq : Requester) (g : Guard) : (setGuard s rq g).sideIn = s.sideIn := by cases rq <;> rfl
@[simp] theorem setGuard_sideWait (s : Block) (rq : Requester) (g : Guard) : (setGuard s rq g).sideWait = s.sideWait := by cases rq <;> rfl
@[simp] theorem setGuard_sramScrub (s : Block) (rq : Requester) (g : Guard) : (setGuard s rq g).sramScrub = s.sramScrub := by cases rq <;> rfl
@[simp] theorem setGuard_heldReleases (s : Block) (rq : Requester) (g : Guard) : (setGuard s rq g).heldReleases = s.heldReleases := by cases rq <;> rfl
@[simp] theorem setGuard_cfgParity (s : Block) (rq : Requester) (g : Guard) : (setGuard s rq g).cfgParity = s.cfgParity := by cases rq <;> rfl
@[simp] theorem setGuard_cfgSnapshot (s : Block) (rq : Requester) (g : Guard) : (setGuard s rq g).cfgSnapshot = s.cfgSnapshot := by cases rq <;> rfl
@[simp] theorem setGuard_plan (s : Block) (rq : Requester) (g : Guard) : (setGuard s rq g).plan = s.plan := by cases rq <;> rfl
@[simp] theorem setGuard_power (s : Block) (rq : Requester) (g : Guard) : (setGuard s rq g).power = s.power := by cases rq <;> rfl
@[simp] theorem setGuard_time (s : Block) (rq : Requester) (g : Guard) : (setGuard s rq g).time = s.time := by cases rq <;> rfl
@[simp] theorem setGuard_ni (s : Block) (rq : Requester) (g : Guard) : (setGuard s rq g).ni = s.ni := by cases rq <;> rfl
@[simp] theorem setGuard_serv (s : Block) (rq : Requester) (g : Guard) : (setGuard s rq g).serv = s.serv := by cases rq <;> rfl
@[simp] theorem setGuard_hdb (s : Block) (rq : Requester) (g : Guard) : (setGuard s rq g).hdb = s.hdb := by cases rq <;> rfl
@[simp] theorem setGuard_pcie (s : Block) (rq : Requester) (g : Guard) : (setGuard s rq g).pcie = s.pcie := by cases rq <;> rfl
@[simp] theorem setGuard_mgmt (s : Block) (rq : Requester) (g : Guard) : (setGuard s rq g).mgmt = s.mgmt := by cases rq <;> rfl
@[simp] theorem setGuard_free (s : Block) (rq : Requester) (g : Guard) : (setGuard s rq g).free = s.free := by cases rq <;> rfl
@[simp] theorem setGuard_reply (s : Block) (rq : Requester) (g : Guard) : (setGuard s rq g).reply = s.reply := by cases rq <;> rfl
@[simp] theorem setGuard_rises (s : Block) (rq : Requester) (g : Guard) : (setGuard s rq g).rises = s.rises := by cases rq <;> rfl
@[simp] theorem setGuard_captures (s : Block) (rq : Requester) (g : Guard) : (setGuard s rq g).captures = s.captures := by cases rq <;> rfl

end Sys2Proof.Machine
end

