-- ==== Sys2Proof/Tests/Slice0.lean ====
section
/-! SUPPORT. Small tests of the model, and for each statement with hypotheses a state and operands that meet the hypotheses of each of its
clauses, at a boundary of their ranges where they have one. -/

-- one theorem after another: each holds a thread of the compiler while the kernel evaluates it
set_option Elab.async false

open Sys2Proof Sys2Proof.Machine

/-! ### States of the tests -/

/-- A module with fields written. -/
def withRegs (l : List (Field × Nat)) (b : Block) : Block := l.foldl (fun b p => wr b p.1 p.2) b
/-- A state of registers alone. -/
def regState (l : List (Field × Nat)) : State := { block := withRegs l {} }
/-- A module whose plan time stands at a tick. -/
def atTick (t : Nat) (l : List (Field × Nat)) : State := regState ((Reg.TBS.PLAN_TIME, t) :: l)
/-- A state with one cluster set, at a tick. -/
def clusState (t c : Nat) (x : ClusterSt) (l : List (Field × Nat)) : State := { block := setClus (atTick t l).block c x }
/-- A state with the host's guard open, at tick 0. -/
def openState (l : List (Field × Nat)) : State := { block := { (regState l).block with hostGuard := ⟨true, 1⟩ } }
/-- A module in a job whose sheet 0, of one sheet of four blocks with a Deckle window of one, has begun; the schedule tick. -/
def jobBlock (sc : Nat) (l : List (Field × Nat)) : Block :=
  { withRegs ([(Reg.TBS.STATE_IN_JOB, 1), (Reg.GLB.JOB_STATUS_STATE, 3), (Reg.TBS.SCHED_TIME, sc)] ++ l) {} with
    plan := { ream := some { tag := 1, cycle := [⟨4, 0, 0⟩], deckle := 1 } } }

/-- A core engine that runs and stands at an operation. -/
def runs (e : CoreEng) (w : Nat) (l : List (Field × Nat)) : State :=
  { block := imemWr (withRegs ([(Reg.ENG.STATE_STATE (engBlock (ceNum e)), 2), (Reg.ENG.ACTIVE_LEN (engBlock (ceNum e)), 16)] ++ l) {})
      (2 * ceNum e * 65536) (natLe 16 w) }
/-- A core engine that waits, for a kind of thing. -/
def waits (e : CoreEng) (k : Nat) (l : List (Field × Nat)) : State :=
  regState ([(Reg.ENG.STATE_STATE (engBlock (ceNum e)), 3), (Reg.ENG.STATE_WAIT_KIND (engBlock (ceNum e)), k)] ++ l)
/-- An engine whose oldest operation is due, with an effect. -/
def due (n w addr : Nat) (eff : Effect) (l : List (Field × Nat)) : State :=
  { block := setEng (regState l).block n { inflight := [⟨w, addr, 0, 0, 1, 0, 0, 0, eff⟩] } }
/-- The same state with one declared range in its ream. -/
def withRange (s : State) (base len : Nat) : State :=
  { s with block := { s.block with plan := { s.block.plan with ream := some { ream s.block with ranges := [⟨2, 0, 0, base, len⟩] } } } }
/-- A die-level engine of a running job whose program is one operation, at a schedule tick. -/
def dieRuns (n w sc : Nat) (l : List (Field × Nat)) : State :=
  { block := imemWr (jobBlock sc ([(Reg.ENG.STATE_STATE (engBlock n), 2), (Reg.ENG.ACTIVE_LEN (engBlock n), 16)] ++ l)) (2 * n * 65536) (natLe 16 w) }
/-- The same state with one memory unit's entry. -/
def withUnit (s : State) (u : Nat) (x : UnitSt) : State := { s with block := setUnit s.block u x }
/-- The same state with one engine's entry. -/
def withEng (s : State) (n : Nat) (x : Engine) : State := { s with block := setEng s.block n x }
/-- The same state with one port's entry. -/
def withPort (s : State) (p : Nat) (x : PortSt) : State := { s with block := setPort s.block p x }
/-- The same state with flits on the mesh. -/
def withMesh (s : State) (l : List MeshFlit) : State := { s with block := { s.block with mesh := l } }
/-- The operation that a one-operation program holds. -/
def soleOp (w : Nat) : SlotOp := ⟨w, 0, 0, []⟩
/-- A state with port 11's link up at full width. -/
def upState (l : List (Field × Nat)) : State := regState ([(Reg.LNK.LINK_STATUS_UP (lnkPage 11), 1), (Reg.LNK.LINK_STATUS_TRAIN_STATE (lnkPage 11), 5),
  (Reg.LNK.LINK_STATUS_TX_WIDTH (lnkPage 11), 8), (Reg.LNK.LINK_STATUS_RX_WIDTH (lnkPage 11), 8), (Reg.LNK.LINK_STATUS_TX_MASK (lnkPage 11), 255),
  (Reg.LNK.LINK_STATUS_RX_MASK (lnkPage 11), 255)] ++ l)
/-- A flit with this header, a payload of zeros and its CRC. -/
def flitOf (h : Nat) : List Byte := natLe 16 h ++ zeros 256 ++ natLe 8 (crc64 (natLe 16 h ++ zeros 256))
/-- An operator root key: a modulus (a prime, so that a signature is easily made) and the exponent. -/
def keyN : Nat :=
  0x9583d9beeb2d2409f83ca8ec6f4bdbe5a5c535f5e91cfcf0579275194d5a7647ba94d8d6df790a56d66afdff0f51ba4a40e10e85e08ba8933ab7be9c22df3b5f3724990cf1fcfff2e89262155a609c02d24d52456239e838dad2729cbc739072f64ea8f3e0048a8d00b2918a5ad1a5d18520ee47901954e51b6dd4d27c84c0cfb0cdc897b35954b92be79eabff21b4d88ced1dcd4431bbf3caa63d06f68b86ca7c97f8b03558c6522b5546ab61db57aed0118a78764cdc8990420f59f868df5d9feb5e8b37dc58f23b0e49a016f58de4d56bc99432218f5439fb41511bd82b6244d7527ebe736fc9df9222ed9f0dbe85ed98913fdffada0bf8feaea1e8a430c6ec790f51a71f0c080ec539326c0f1b36abc544ed43ff702e305d058d86a4159e9a5f9c58731b0d96010ccc410c1880c03bd5de3782e429a6e519fe49b06487c8d994822e04ca4420b0de15c2842780a53e578d48a1d556e22185aff00fac1c6843d76e47126f286671a6571fa1d0acc190c50e6d522c14f8feea6854fa04bb37
def rootK : List Byte := natBe 384 keyN ++ natBe 4 65537
/-- A body of zeros under that key. -/
def sigN : Nat :=
  0x4c8b756dc32e206aa3064dadc5556182dff07908d249fe45f642096b47dd08f6015b48e58c65d2088e9f0c010eb47407b27e86ae66172c5a2cd6a766bd4ab88214ffb88f0ed85491937d8ba06dc6d1a829b1ae345e86b92758d93c4b971cd8dfedef0ae87d088578d0394348c08d6c7f6f488319d45a4ee35c9ce14ab926a78eb783827b4bbe4854f0be795102ca1d968ac31d55c06a607877496d2a7a8adc76afa018e700d60a54f89f91a81aae67b0f15891647be1b66d81b25a4e471adb11d6a177a7fdb08d634e1b99650d3ac2e0b8400bfb2bc3a0faa833306ec970a3b871caa09d6f09a812e238102d53210227183f13c1a3a74cd2d327e408f62acf4c7680ea56a9e192402304465856468e225f8b8eacddf4256a1bd30573ba60aaa233a02ee8663f2966925bbbbb9bd7e801ef1e295634e93e96209ec55e952894fb56b056725623e2bdfdea70ff091f14d83c06b8ceccc1ca482bb0b4a05ffa205009186ef69e4a0a293dde2f47bed4348d9bcbd2be01948ad1ef23f4603a420278
def signedZeros : SignedMsg := ⟨zeros 388, natBe 384 sigN⟩
/-- A running job that serves: one sheet of four blocks, every one a step's start, with the session engine running. -/
def servBlock (sc : Nat) (l : List (Field × Nat)) : Block :=
  let b := jobBlock sc ((Reg.ENG.STATE_STATE (engBlock engSSE), 2) :: l)
  { b with plan := { b.plan with ream := some { tag := 1, cycle := [⟨4, 1, 0⟩], deckle := 1, mode := 1 } } }
/-- A descriptor of a DMA ring: operation, flags, length, host address, device address. -/
def descOf (op fl len host dev : Nat) : List Byte := natLe 1 op ++ natLe 1 fl ++ zeros 2 ++ natLe 4 len ++ natLe 8 host ++ natLe 6 dev ++ zeros 10
/-- Queue 7 with one descriptor in progress. -/
def dmaState (x : Dma) (l : List (Field × Nat)) : State := { block := { (regState l).block with pcie := { dma := [(7, [x])] } } }
/-- A recovery that measured the given latencies. -/
def recov (xing : List Nat) (ok : Bool) : Recovery := ⟨xing, ok, true, 0, none, none, List.replicate 8 1, List.replicate 8 1, List.replicate 8 true, true, false⟩
/-- A recovery in which a rail cannot be trimmed. -/
def recovTrim : Recovery := { recov [4, 4, 3, 4, 6, 8, 5] true with trimFail := some 63 }
def pad256 (b : List Byte) : List Byte := b ++ zeros ((256 - b.length % 256) % 256)
/-- An engine image of the ream: engine code, cluster, core, operations. -/
def engImage (e : Nat × Nat × Nat × List Nat) : List Byte :=
  let ops := e.2.2.2.flatMap (natLe 16)
  natLe 1 e.1 ++ natLe 1 e.2.1 ++ natLe 1 e.2.2.1 ++ zeros 1 ++ natLe 4 ops.length ++ natLe 4 (crc32c ops) ++ natLe 4 60000 ++ natLe 4 1024 ++
    zeros 12 ++ ops
/-- A small ream: its sections one after another, each at a multiple of 256, with one declared range and one DATA entry. -/
def smallReam (engs : List (Nat × Nat × Nat × List Nat)) : List Byte :=
  let secs := [(1, zeros 32 ++ List.replicate 12 3 ++ (1 :: zeros 15) ++ (0xFF :: zeros 95)), (2, natLe 2 64 ++ zeros 14), (3, zeros 48),
    (4, zeros 960), (5, engs.flatMap engImage), (7, zeros 12 ++ natLe 8 65536 ++ zeros 12),
    (9, natLe 2 0 ++ natLe 2 1 ++ zeros 4 ++ natLe 4 1000 ++ zeros 32), (11, natLe 4 0 ++ natLe 8 64 ++ natLe 4 4 ++ [1, 2, 3, 4])]
  let r := secs.foldl (fun (x : Nat × List Byte × List Byte) (p : Nat × List Byte) =>
    (x.1 + (pad256 p.2).length, x.2.1 ++ natLe 2 p.1 ++ zeros 6 ++ natLe 8 x.1 ++ natLe 8 p.2.length ++ natLe 4 (crc32c p.2) ++ zeros 4,
      x.2.2 ++ pad256 p.2)) (512, [], [])
  let h := natLe 4 0x4D414552 ++ natLe 2 1 ++ natLe 1 2 ++ natLe 1 0xA1 ++ natLe 2 7 ++ natLe 1 115 ++ natLe 1 2 ++ natLe 2 1 ++ zeros 1 ++
    natLe 1 1 ++ natLe 4 1 ++ zeros 4 ++ natLe 4 secs.length ++ natLe 1 5 ++ zeros 3 ++ natLe 8 0x1234 ++ zeros 212
  pad256 (h ++ natLe 4 (crc32c h) ++ r.2.1) ++ r.2.2
/-- A module that has just taken an image from the host. -/
def loading (img : List Byte) : State := { block := { (regState [(Reg.PCI.LOAD_STATUS_STATE, 1)]).block with pcie := { image := img } } }

/-! ### Two small reams: one that passes every check, and one whose port program names reserved slots (R198, code 1) -/

def goodReam : List Byte := smallReam [(0, 0, 0, [0, 0, 1])]
def slotReam : List Byte := smallReam [(0x10, 0, 0, [0x80 + 4 * 2 ^ 35])]
theorem test_good_ream_passes : firstFailure (checks (loadView (loading goodReam).block) goodReam) = none := by decide +kernel
theorem test_good_ream_slots : slotFailure (install (loadView (loading goodReam).block) goodReam) goodReam = none := by decide +kernel
theorem test_slot_ream_passes : firstFailure (checks (loadView (loading slotReam).block) slotReam) = none := by decide +kernel
theorem test_slot_ream_slots : slotFailure (install (loadView (loading slotReam).block) slotReam) slotReam = some (0x21, 16, 768, 0) := by decide +kernel

theorem test_witness_OffsetsAreMeasuredAndStepped :
    (∃ (s : State) (p : Fin 12) (intact : BitVec 4), intact = 15 ∧ flag s.block (Reg.LNK.LINK_STATUS_UP (lnkPage p)) = true) ∧
    (∃ (intact : BitVec 4), intact ≠ 15) ∧
    (∃ (s : State), lockState s.block = lkACQ ∧ upstream s.block < 12 ∧ inJob s.block = false ∧ offCount s.block (upstream s.block) = 64 ∧ tooDeep s.block (upstream s.block) = false) :=
  ⟨⟨regState [(Reg.LNK.LINK_STATUS_UP (lnkPage 0), 1)], 0, 15, by decide +kernel⟩,
   ⟨7, by decide +kernel⟩,
   ⟨{ block := setPort (regState [(Reg.TBS.STATE_LOCK_STATE, 1), (Reg.TBS.STATE_UPSTREAM, 11), (Reg.TBS.LINK_DELAY_VALID 11, 1)]).block 11 { offsets := List.replicate 64 128 } }, by decide +kernel⟩⟩

theorem test_witness_UpstreamLossLeadsToHoldoverExpiryOrANewRoot :
    (∃ (s : State), isRoot s.block = false ∧ upstream s.block ≠ 0xF ∧ (lockState s.block = lkLOCKED ∨ lockState s.block = lkSLEW)) ∧
    (∃ (s : State), isRoot s.block = false ∧ upstream s.block ≠ 0xF ∧ lockState s.block = lkACQ) ∧
    (∃ (s : State), isRoot s.block = false ∧ lockState s.block = lkHOLD ∧ s.block.time.since + 10000000 ≤ now s.block) ∧
    (∃ (s : State), isRoot s.block = false ∧ lockState s.block = lkHOLD ∧ flag s.block Reg.TBS.TREE_CFG_STANDBY_ROOT = true ∧ anyEligible s.block = false ∧ s.block.time.noCandSince ≠ 0 ∧ s.block.time.noCandSince + 999999 ≤ now s.block) :=
  ⟨⟨regState [(Reg.TBS.STATE_LOCK_STATE, 2), (Reg.TBS.STATE_UPSTREAM, 0)], by decide +kernel⟩,
   ⟨regState [(Reg.TBS.STATE_LOCK_STATE, 1), (Reg.TBS.STATE_UPSTREAM, 0)], by decide +kernel⟩,
   ⟨atTick 10000000 [(Reg.TBS.STATE_LOCK_STATE, 4)], by decide +kernel⟩,
   ⟨{ block := { (atTick 1000000 [(Reg.TBS.STATE_LOCK_STATE, 4), (Reg.TBS.TREE_CFG_STANDBY_ROOT, 1)]).block with time := { noCandSince := 1 } } }, by decide +kernel⟩⟩

theorem test_witness_ReferencesComeAndGo :
    (∃ (s : State), isRoot s.block = true ∧ flag s.block Reg.TBS.TREE_CFG_ROOT_REF = true) ∧
    (∃ (s : State), flag s.block Reg.TBS.STATE_PPS_PRESENT = true ∧ rd s.block Reg.TBS.PPS_CAPTURE + 1100000000 ≤ now s.block) ∧
    (∃ (s : State), s.block.time.refPresent = true) :=
  ⟨⟨atTick 5 [(Reg.TBS.STATE_ROOT, 1), (Reg.TBS.TREE_CFG_ROOT_REF, 1)], by decide +kernel⟩,
   ⟨atTick 1100000000 [(Reg.TBS.STATE_PPS_PRESENT, 1)], by decide +kernel⟩,
   ⟨{}, by decide +kernel⟩⟩

theorem test_witness_TimebaseRegistersAreWritten :
    (∃ (s : State) (rq : Requester), pageResponds s.block tbs = true ∧ guardOpen s.block rq = true ∧ inJob s.block = false ∧ s.block.time.refAtReset = true ∧ takesAll s.block rq (0x2074) = true) ∧
    (∃ (s : State), pageResponds s.block tbs = true) ∧
    (∃ (s : State) (rq : Requester), pageResponds s.block tbs = true ∧ takesAll s.block rq (0x20A4) = true) :=
  ⟨⟨openState [], .host, by decide +kernel⟩,
   ⟨{}, by decide +kernel⟩,
   ⟨{}, .mgt, by decide +kernel⟩⟩

theorem test_witness_RegionStops :
    (∃ (s : State) (cl : Fin 16) (t : Nat), (clus s.block cl).stopReq = some t ∧ (clus s.block cl).gateClosed = none ∧ (((∀ d ∈ (clus s.block cl).droops, d + 50 < now s.block ∨ now s.block ≤ d) ∨ t + 200 ≤ now s.block))) ∧
    (∃ (s : State) (cl : Fin 16) (t : Nat), (clus s.block cl).gateClosed = some t ∧ now s.block < t + 480 ∧ (clus s.block cl).pendingFreq = none) ∧
    (∃ (s : State) (cl : Fin 16) (t : Nat), (clus s.block cl).gateClosed = some t ∧ t + 480 ≤ now s.block ∧ (clus s.block cl).pendingFreq = none) :=
  ⟨⟨clusState 200 0 { stopReq := some 0, droops := [199] } [], 0, 0, by decide +kernel⟩,
   ⟨clusState 479 15 { gateClosed := some 0, restart := 100 } [], 15, 0, by decide +kernel⟩,
   ⟨clusState 480 15 { gateClosed := some 0, oldFreq := 120 } [], 15, 0, by decide +kernel⟩⟩

theorem test_witness_SupplyAndTemperaturesAreWatched :
    (∃ (s : State) (mv : Nat), mv < 42000 ∧ sagLive s.block = false) ∧
    (∃ (s : State) (mv : Nat), 43000 ≤ mv ∧ sagLive s.block = true) ∧
    (∃ (mv : Nat), 60000 < mv) ∧
    (∃ (s : State) (avg : Nat) (peak : Nat) (minMv : Nat), avg ≤ 4095 ∧ peak ≤ 4095 ∧ minMv < 2 ^ 16 ∧ now s.block ≠ 0 ∧ now s.block % 2 ^ rd s.block Reg.PWR.SAMPLE_CTRL = 0) ∧
    (∃ (t0 : Nat) (t1 : Nat) (t2 : Nat) (t3 : Nat), t0 < 256 ∧ t1 < 256 ∧ t2 < 256 ∧ t3 < 256) ∧
    (∃ (d : Nat), 105 ≤ d) ∧
    (∃ (inlet : Nat) (outlet : Nat), inlet < 256 ∧ outlet < 256) :=
  ⟨⟨{}, 41999, by decide +kernel⟩,
   ⟨regState [(Reg.PWR.LIVE_SAG_WARN, 1)], 43000, by decide +kernel⟩,
   ⟨60001, by decide +kernel⟩,
   ⟨atTick 128 [(Reg.PWR.CAP, 1000), (Reg.PWR.SAMPLE_CTRL, 7)], 4095, 4095, 65535, by decide +kernel⟩,
   ⟨255, 0, 1, 2, by decide +kernel⟩,
   ⟨105, by decide +kernel⟩,
   ⟨17, 255, by decide +kernel⟩⟩

theorem test_witness_RequestComputationServesTheSheetTwoAhead :
    (∃ (s : State), inJob s.block = true ∧ s.block.plan.halted = false ∧ s.block.plan.sheetStart + (lenOfSheet s.block (sheet s.block) - 1024) ≤ sched s.block) :=
  ⟨{ block := { jobBlock 3072 [] with plan := { (jobBlock 3072 []).plan with  } } }, by decide +kernel⟩

theorem test_witness_StartJoinsOrIsRefusedWithItsCode :
    (∃ (s : State) (rq : Requester), guardOpen s.block rq = true ∧ startCode s.block = 0) ∧
    (∃ (s : State) (rq : Requester), guardOpen s.block rq = true ∧ startCode s.block ≠ 0) ∧
    (∃ (s : State) (rq : Requester), guardOpen s.block rq = false) :=
  ⟨⟨openState [(Reg.PCI.LOAD_STATUS_STATE, 2), (Reg.GLB.JOB_STATUS_STATE, 1), (Reg.GLB.COORD_LO_VALID, 1), (Reg.GLB.START_T0, 10000384), (Reg.TBS.STATE_LOCK_STATE, 2), (Reg.HDB.WS_CTRL_STATE 3, 2)], .host, by decide +kernel⟩,
   ⟨openState [], .host, by decide +kernel⟩,
   ⟨{}, .mgt, by decide +kernel⟩⟩

theorem test_witness_SheetsAndStretchQuantaBeginOnTime :
    (∃ (s : State), jobState s.block = 2 ∧ rd s.block Reg.TBS.JOB_ORIGIN ≤ now s.block) ∧
    (∃ (s : State), boundaryDue s.block = true ∧ s.block.plan.haltNext = false ∧ ((s.block.plan.teardownNamed = false ∨ s.block.plan.teardownSheet ≠ sheet s.block + 1))) ∧
    (∃ (s : State), boundaryDue s.block = true ∧ s.block.plan.haltNext = true) ∧
    (∃ (s : State), inJob s.block = true ∧ s.block.plan.halted = false ∧ s.block.plan.inQuantum = false ∧ s.block.plan.nextQuantum < s.block.plan.quanta ∧ s.block.plan.sheetStart + quantumAt s.block s.block.plan.nextQuantum ≤ sched s.block) ∧
    (∃ (s : State), s.block.plan.inQuantum = true ∧ s.block.plan.quantumEnd ≤ rd s.block Reg.TBS.STRETCH_OFFSET) :=
  ⟨⟨regState [(Reg.GLB.JOB_STATUS_STATE, 2)], by decide +kernel⟩,
   ⟨{ block := { jobBlock 4096 [] with plan := { (jobBlock 4096 []).plan with committed := [] } } }, by decide +kernel⟩,
   ⟨{ block := { jobBlock 4096 [] with plan := { (jobBlock 4096 []).plan with haltNext := true } } }, by decide +kernel⟩,
   ⟨{ block := { jobBlock 0 [] with plan := { (jobBlock 0 []).plan with quanta := 2 } } }, by decide +kernel⟩,
   ⟨{ block := { jobBlock 0 [(Reg.TBS.STRETCH_OFFSET, 1024)] with plan := { (jobBlock 0 [(Reg.TBS.STRETCH_OFFSET, 1024)]).plan with inQuantum := true, quantumEnd := 1024 } } }, by decide +kernel⟩⟩

theorem test_witness_TheWindowCombinesComparesAndCommits :
    (∃ (s : State) (p : Fin 12) (h : BitVec 128) (d : List Byte), d.length = 256 ∧ bits h.toNat 0 2 = 3 ∧ inJob s.block = true ∧ s.block.plan.windowOpen = true ∧ s.block.plan.halted = false ∧ inJobPort s.block p = true ∧ s.block.plan.echoing = false ∧ inEchoHalf s.block h.toNat = false ∧ isStream s.block d = false) ∧
    (∃ (s : State) (p : Fin 12) (h : BitVec 128) (d : List Byte), d.length = 256 ∧ bits h.toNat 0 2 = 3 ∧ inJob s.block = true ∧ s.block.plan.windowOpen = true ∧ s.block.plan.halted = false ∧ inJobPort s.block p = true ∧ s.block.plan.echoing = false ∧ inEchoHalf s.block h.toNat = false ∧ isStream s.block d = true) ∧
    (∃ (s : State) (p : Fin 12) (h : BitVec 128) (d : List Byte), d.length = 256 ∧ bits h.toNat 0 2 = 3 ∧ inJob s.block = true ∧ s.block.plan.windowOpen = true ∧ s.block.plan.halted = false ∧ inJobPort s.block p = true ∧ s.block.plan.echoing = true ∧ inEchoHalf s.block h.toNat = true) ∧
    (∃ (s : State) (p : Fin 12) (h : BitVec 128) (d : List Byte), d.length = 256 ∧ bits h.toNat 0 2 = 3 ∧ inJob s.block = true ∧ s.block.plan.halted = false ∧ inJobPort s.block p = true ∧ ((s.block.plan.windowOpen = false ∨ (s.block.plan.echoing = true ∧ inEchoHalf s.block h.toNat = false)))) ∧
    (∃ (s : State), s.block.plan.windowOpen = true ∧ s.block.plan.echoing = false ∧ s.block.plan.halted = false ∧ s.block.plan.sheetStart + deckleLen s.block / 2 ≤ sched s.block) ∧
    (∃ (s : State), s.block.plan.windowOpen = true ∧ s.block.plan.halted = false ∧ s.block.plan.sheetStart + deckleLen s.block ≤ sched s.block) :=
  ⟨⟨{ block := { jobBlock 0 [(Reg.PRT.PORT_STATUS_IN_JOB (prtPage 11), 1), (Reg.PRT.PORT_STATUS_TRAINED (prtPage 11), 1)] with plan := { (jobBlock 0 [(Reg.PRT.PORT_STATUS_IN_JOB (prtPage 11), 1), (Reg.PRT.PORT_STATUS_TRAINED (prtPage 11), 1)]).plan with windowOpen := true, contribution := zeros 256, held := zeros 256 } } }, 11, 3, zeros 256, by decide +kernel⟩,
   ⟨{ block := { jobBlock 0 [(Reg.PRT.PORT_STATUS_IN_JOB (prtPage 11), 1), (Reg.PRT.PORT_STATUS_TRAINED (prtPage 11), 1)] with plan := { (jobBlock 0 [(Reg.PRT.PORT_STATUS_IN_JOB (prtPage 11), 1), (Reg.PRT.PORT_STATUS_TRAINED (prtPage 11), 1)]).plan with windowOpen := true, contribution := natLe 10 7, held := (natLe 140 1 ++ natLe 2 9 ++ zeros 114), stepFlits := [] } } }, 11, 3, zeros 256, by decide +kernel⟩,
   ⟨{ block := { jobBlock 600 [(Reg.PRT.PORT_STATUS_IN_JOB (prtPage 11), 1), (Reg.PRT.PORT_STATUS_TRAINED (prtPage 11), 1)] with plan := { (jobBlock 600 [(Reg.PRT.PORT_STATUS_IN_JOB (prtPage 11), 1), (Reg.PRT.PORT_STATUS_TRAINED (prtPage 11), 1)]).plan with windowOpen := true, echoing := true, held := zeros 256 } } }, 11, (3 + 2 ^ 52), zeros 256, by decide +kernel⟩,
   ⟨{ block := { jobBlock 0 [(Reg.PRT.PORT_STATUS_IN_JOB (prtPage 11), 1), (Reg.PRT.PORT_STATUS_TRAINED (prtPage 11), 1)] with plan := { (jobBlock 0 [(Reg.PRT.PORT_STATUS_IN_JOB (prtPage 11), 1), (Reg.PRT.PORT_STATUS_TRAINED (prtPage 11), 1)]).plan with windowOpen := false } } }, 11, 3, zeros 256, by decide +kernel⟩,
   ⟨{ block := { jobBlock 512 [] with plan := { (jobBlock 512 []).plan with windowOpen := true, held := zeros 256 } } }, by decide +kernel⟩,
   ⟨{ block := { jobBlock 1024 [] with plan := { (jobBlock 1024 []).plan with windowOpen := true, echoing := true, held := zeros 256 } } }, by decide +kernel⟩⟩

theorem test_witness_PlainAndControlOperationsIssue :
    (∃ (s : State) (e : CoreEng), readyFor s.block (ceNum e) (isOp opNOP)) ∧
    (∃ (s : State) (e : CoreEng), readyFor s.block (ceNum e) (isOp opSYNC)) ∧
    (∃ (s : State) (e : CoreEng), readyFor s.block (ceNum e) (isOp opEND)) ∧
    (∃ (s : State) (e : CoreEng), readyFor s.block (ceNum e) (isOp opSHEETEND)) ∧
    (∃ (s : State) (e : CoreEng), readyFor s.block (ceNum e) (isOp opSETCNT) ∧ fCntSrc (opWord s.block (ceNum e)) = false) ∧
    (∃ (s : State) (e : CoreEng), readyFor s.block (ceNum e) (isOp opSETCNT) ∧ fCntSrc (opWord s.block (ceNum e)) = true ∧ accessCauses s.block (ceNum e) (opWord s.block (ceNum e)) ⟨fCntSpace (opWord s.block (ceNum e)), fCntAddr (opWord s.block (ceNum e)), 4, false, none⟩ = []) ∧
    (∃ (s : State) (e : CoreEng), readyFor s.block (ceNum e) (isOp opHINT) ∧ fHintCount (opWord s.block (ceNum e)) ≤ 4 ∧ 256 ≤ fHintLead (opWord s.block (ceNum e))) :=
  ⟨⟨runs ⟨0, 0, 0⟩ 0x0 [], ⟨0, 0, 0⟩, by unfold readyFor standsAt; decide +kernel⟩,
   ⟨runs ⟨15, 5, 7⟩ 0x6 [], ⟨15, 5, 7⟩, by unfold readyFor standsAt; decide +kernel⟩,
   ⟨runs ⟨15, 5, 7⟩ 0x1 [], ⟨15, 5, 7⟩, by unfold readyFor standsAt; decide +kernel⟩,
   ⟨runs ⟨15, 5, 7⟩ 0x100000000000000002 [], ⟨15, 5, 7⟩, by unfold readyFor standsAt; decide +kernel⟩,
   ⟨runs ⟨15, 5, 7⟩ 0xffffffff7000000000004 [], ⟨15, 5, 7⟩, by unfold readyFor standsAt; decide +kernel⟩,
   ⟨runs ⟨15, 5, 7⟩ 0x100000000f000000000004 [], ⟨15, 5, 7⟩, by unfold readyFor standsAt; decide +kernel⟩,
   ⟨runs ⟨15, 5, 7⟩ 0x804000000000008 [], ⟨15, 5, 7⟩, by unfold readyFor standsAt; decide +kernel⟩⟩

theorem test_witness_LoopsBarriersAndWaits :
    (∃ (s : State) (e : CoreEng), readyFor s.block (ceNum e) (isOp opLOOP) ∧ (eng s.block (ceNum e)).loops.length < 4 ∧ fLoopSrc (opWord s.block (ceNum e)) = false ∧ 1 ≤ fLoopCount (opWord s.block (ceNum e))) ∧
    (∃ (s : State) (e : CoreEng), readyFor s.block (ceNum e) (isOp opLOOP) ∧ (eng s.block (ceNum e)).loops.length < 4 ∧ fLoopSrc (opWord s.block (ceNum e)) = false ∧ fLoopCount (opWord s.block (ceNum e)) = 0) ∧
    (∃ (s : State) (e : CoreEng), engState s.block (ceNum e) = 3 ∧ rd s.block (Reg.ENG.STATE_WAIT_KIND (engBlock (ceNum e))) = 5 ∧ (eng s.block (ceNum e)).padUntil ≤ cycleOf s.block (ceNum e)) ∧
    (∃ (s : State) (e : CoreEng), readyFor s.block (ceNum e) (isOp opBAR) ∧ bit (rd s.block (Reg.COR.BAR_MASK (corPage e.cl e.core) (fBarrier (opWord s.block (ceNum e))))) e.eng = true) ∧
    (∃ (s : State) (cl : Fin 16) (k : Fin 6) (i : Fin 16), rd s.block (Reg.COR.BAR_MASK (corPage cl k) i) ≠ 0 ∧ rd s.block (Reg.COR.BAR_STATE_ARRIVED (corPage cl k) i) = rd s.block (Reg.COR.BAR_MASK (corPage cl k) i) ∧ ((∀ x : Fin 8, bit (rd s.block (Reg.COR.BAR_MASK (corPage cl k) i)) x = true → barOnly s.block (engCore cl k x) i = true))) ∧
    (∃ (s : State) (e : CoreEng), engState s.block (ceNum e) = 3 ∧ ((rd s.block (Reg.ENG.STATE_WAIT_KIND (engBlock (ceNum e))) = 1 ∨ rd s.block (Reg.ENG.STATE_WAIT_KIND (engBlock (ceNum e))) = 2)) ∧ flag s.block (Reg.CLK.FREQ_NOW_STOPPED (clkPage e.cl)) = false ∧ waitOkRace s.block (ceNum e) (eng s.block (ceNum e)).awaited (eng s.block (ceNum e)).partner = true) ∧
    (∃ (s : State) (e : CoreEng), flag s.block (Reg.CLK.FREQ_NOW_STOPPED (clkPage e.cl)) = true) :=
  ⟨⟨runs ⟨0, 0, 0⟩ 0x2000200020002000000000003 [], ⟨0, 0, 0⟩, by unfold readyFor standsAt; decide +kernel⟩,
   ⟨runs ⟨0, 0, 0⟩ 0x2000200020000000000000003 [], ⟨0, 0, 0⟩, by unfold readyFor standsAt; decide +kernel⟩,
   ⟨waits ⟨15, 5, 7⟩ 5 [], ⟨15, 5, 7⟩, by decide +kernel⟩,
   ⟨runs ⟨15, 5, 7⟩ 0xf000000000005 [(Reg.COR.BAR_MASK (corPage 15 5) 15, 128)], ⟨15, 5, 7⟩, by unfold readyFor standsAt; decide +kernel⟩,
   ⟨{ block := setEng (regState [(Reg.COR.BAR_MASK (corPage 15 5) 15, 128), (Reg.COR.BAR_STATE_ARRIVED (corPage 15 5) 15, 128)]).block (engCore 15 5 7) { inflight := [⟨0, 0, 0, 0, 1, 0, 0, 0, .bar 15⟩] } }, 15, 5, 15, by decide +kernel⟩,
   ⟨waits ⟨0, 0, 0⟩ 1 [], ⟨0, 0, 0⟩, by decide +kernel⟩,
   ⟨regState [(Reg.CLK.FREQ_NOW_STOPPED (clkPage 15), 1)], ⟨15, 5, 7⟩, by decide +kernel⟩⟩

theorem test_witness_EveryIssueHaltsOnWhatMayNotIssue :
    (∃ (s : State) (e : CoreEng) (c : Instr), c ∈ issueCommands e ∧ canIssue s.block (ceNum e) = false) ∧
    (∃ (s : State) (e : CoreEng) (c : Instr), c ∈ issueCommands e ∧ canIssue s.block (ceNum e) = true ∧ rd s.block (Reg.ENG.ACTIVE_LEN (engBlock (ceNum e))) ≤ nextOp s.block (ceNum e)) ∧
    (∃ (s : State) (e : CoreEng) (c : Instr), c ∈ issueCommands e ∧ canIssue s.block (ceNum e) = true ∧ nextOp s.block (ceNum e) < rd s.block (Reg.ENG.ACTIVE_LEN (engBlock (ceNum e))) ∧ fetchBad s.block (ceNum e) (activeBank s.block (ceNum e)) (nextOp s.block (ceNum e)) = true) ∧
    (∃ (s : State) (e : CoreEng) (c : Instr), c ∈ issueCommands e ∧ canIssue s.block (ceNum e) = true ∧ nextOp s.block (ceNum e) < rd s.block (Reg.ENG.ACTIVE_LEN (engBlock (ceNum e))) ∧ fetchBad s.block (ceNum e) (activeBank s.block (ceNum e)) (nextOp s.block (ceNum e)) = false ∧ opLegal e.eng (opWord s.block (ceNum e)) = false) :=
  ⟨⟨{}, ⟨0, 0, 0⟩, .nop ⟨0, 0, 0⟩, by decide +kernel⟩,
   ⟨regState [(Reg.ENG.STATE_STATE (engBlock 0), 2)], ⟨0, 0, 0⟩, .svcread ⟨0, 0, 0⟩, by decide +kernel⟩,
   ⟨{ block := { (runs ⟨0, 0, 0⟩ 0 []).block with imemPoison := [(1, 1)] } }, ⟨0, 0, 0⟩, .wload ⟨0, 0, 0⟩, by decide +kernel⟩,
   ⟨runs ⟨0, 0, 0⟩ 0x7 [], ⟨0, 0, 0⟩, .mma ⟨0, 0, 0⟩, by decide +kernel⟩⟩

theorem test_witness_WeightsLoadAndSwap :
    (∃ (s : State) (e : CoreEng) (w : Nat), w = opWord s.block (ceNum e) ∧ readyFor s.block (ceNum e) (isOp opWLOAD) ∧ isLeader s.block (ceNum e) = true ∧ shadowState s.block e.cl e.core = 0 ∧ accessCauses s.block (ceNum e) w ⟨0, fWlAddr w, tileBytes (fWlFmt w), false, none⟩ = []) ∧
    (∃ (s : State) (cl : Fin 16) (k : Fin 6), shadowState s.block cl k = 1 ∧ (core s.block cl k).loadEnd ≤ (clus s.block cl).cycle) ∧
    (∃ (s : State) (e : CoreEng), readyFor s.block (ceNum e) (isOp opSWAP)) ∧
    (∃ (s : State) (cl : Fin 16) (k : Fin 6), swapGroup s.block cl k ≠ [] ∧ (swapGroup s.block cl k).all (swapArrived s.block) = true ∧ shadowState s.block cl k = 2) :=
  ⟨⟨runs ⟨0, 0, 0⟩ 0xe02000000000000000011 [(Reg.COR.ENGINE_MASK_MASK (corPage 0 0), 1)], ⟨0, 0, 0⟩, 0xe02000000000000000011, by unfold readyFor standsAt; decide +kernel⟩,
   ⟨regState ((mxPages 15 5).map (fun p => (Reg.MX.ARRAY_STATUS_SHADOW p, 1))), 15, 5, by decide +kernel⟩,
   ⟨runs ⟨0, 0, 0⟩ 0x12 [], ⟨0, 0, 0⟩, by unfold readyFor standsAt; decide +kernel⟩,
   ⟨regState ([(Reg.COR.ENGINE_MASK_MASK (corPage 15 5), 1), (Reg.MX.ARRAY_STATUS_SWAP_PENDING (engBlock (engCore 15 5 0)), 1), (Reg.ENG.STATE_STATE (engBlock (engCore 15 5 0)), 3), (Reg.ENG.STATE_WAIT_KIND (engBlock (engCore 15 5 0)), 3)] ++ (mxPages 15 5).map (fun p => (Reg.MX.ARRAY_STATUS_SHADOW p, 2))), 15, 5, by decide +kernel⟩⟩

theorem test_witness_MatricesMultiplyAccumulateAndDrain :
    (∃ (s : State) (e : CoreEng) (w : Nat), w = opWord s.block (ceNum e) ∧ readyFor s.block (ceNum e) (isOp opMMA) ∧ (eng s.block (ceNum e)).arrayFree ≤ issueAt s.block (ceNum e) ∧ rd s.block (Reg.MX.ACC_HDR_STATE (engBlock (ceNum e)) (fHalf w)) ≠ 2 ∧ mmaCauses s.block (ceNum e) w = []) ∧
    (∃ (s : State) (e : CoreEng) (x : InFlight) (h : Nat) (r0 : Nat) (mode : Nat) (heavy : Bool) (rows : List (List Int)) (inexact : Nat) (ovf : Bool), dueWith s.block (ceNum e) x (.mma h r0 mode heavy false rows inexact ovf) ∧ fOpcode x.word = opMMA) ∧
    (∃ (s : State) (e : CoreEng) (x : InFlight) (h : Nat) (r0 : Nat) (mode : Nat) (heavy : Bool) (rows : List (List Int)) (inexact : Nat) (ovf : Bool), dueWith s.block (ceNum e) x (.mma h r0 mode heavy true rows inexact ovf) ∧ fOpcode x.word = opMMA) ∧
    (∃ (s : State) (e : CoreEng) (w : Nat), w = opWord s.block (ceNum e) ∧ readyFor s.block (ceNum e) (isOp opDRAIN) ∧ (eng s.block (ceNum e)).drainFree ≤ issueAt s.block (ceNum e) ∧ rd s.block (Reg.MX.ACC_HDR_STATE (engBlock (ceNum e)) (fDrHalf w)) = 1 ∧ accessCauses s.block (ceNum e) w ⟨1 + fDrDest w, fDrAddr w, fDrRows w * drainRowBytes (fDrOut w), true, none⟩ = []) ∧
    (∃ (s : State) (e : CoreEng) (x : InFlight) (h : Nat) (ws : List (Nat × List Byte)) (narrow : Bool), dueWith s.block (ceNum e) x (.drain h ws narrow) ∧ fOpcode x.word = opDRAIN) :=
  ⟨⟨runs ⟨0, 0, 0⟩ 0x80008008000000000000000010 [], ⟨0, 0, 0⟩, 0x80008008000000000000000010, by unfold readyFor standsAt; decide +kernel⟩,
   ⟨due 0 0x80008008000000000000000010 0 (.mma 0 0 0 false false [] 0 false) [], ⟨0, 0, 0⟩, ⟨0x80008008000000000000000010, 0, 0, 0, 1, 0, 0, 0, .mma 0 0 0 false false [] 0 false⟩, 0, 0, 0, false, [], 0, false, by unfold dueWith; decide +kernel⟩,
   ⟨due 0 0x80008008000000000000000010 0 (.mma 1 0 0 false true [] 0 false) [], ⟨0, 0, 0⟩, ⟨0x80008008000000000000000010, 0, 0, 0, 1, 0, 0, 0, .mma 1 0 0 false true [] 0 false⟩, 1, 0, 0, false, [], 0, false, by unfold dueWith; decide +kernel⟩,
   ⟨runs ⟨0, 0, 0⟩ 0x8000000000000013 [(Reg.MX.ACC_HDR_STATE (engBlock 0) 0, 1)], ⟨0, 0, 0⟩, 0x8000000000000013, by unfold readyFor standsAt; decide +kernel⟩,
   ⟨due 0 0x8000000000000013 0 (.drain 0 [] false) [], ⟨0, 0, 0⟩, ⟨0x8000000000000013, 0, 0, 0, 1, 0, 0, 0, .drain 0 [] false⟩, 0, [], false, by unfold dueWith; decide +kernel⟩⟩

theorem test_witness_ElementwiseFunctionsWriteTheirLanes :
    (∃ (c : Nat), c < 2 ^ 32 ∧ (num32 c).isNan = false) ∧
    (∃ (c : Nat), c < 2 ^ 32 ∧ (num32 c).isNan = false) ∧
    (∃ (a : Nat) (b : Nat), (num32 a).isNan = false ∧ (num32 b).isNan = false) ∧
    (∃ (a : Nat) (b : Nat), (num32 a).isNan = true ∧ (num32 b).isNan = true) ∧
    (∃ (c : Nat), (num32 c).isNan = true) ∧
    (∃ (c : Nat), (num32 c).isNan = true) ∧
    (∃ (a : Nat) (b : Nat), (num32 a).isNan = false ∧ (num32 b).isNan = false) ∧
    (∃ (a : Nat) (b : Nat), (num32 a).isNan = true ∧ (num32 b).isNan = false) ∧
    (∃ (a : Nat) (b : Nat), (num32 a).isNan = true ∧ (num32 b).isNan = false) ∧
    (∃ (a : Nat) (b : Nat), (num32 a).isNan = false ∧ (num32 b).isNan = true) ∧
    (∃ (a : Nat) (b : Nat), (num32 a).isNan = false ∧ (num32 b).isNan = true) ∧
    (∃ (a : Nat) (b : Nat), (num32 a).isNan = true ∧ (num32 b).isNan = true) ∧
    (∃ (a : Nat) (b : Nat), (num32 a).isNan = true ∧ (num32 b).isNan = true) :=
  ⟨⟨0x80000000, by decide +kernel⟩,
   ⟨0x80000000, by decide +kernel⟩,
   ⟨0x3F800000, 0, by decide +kernel⟩,
   ⟨0x7FC00000, 0xFF800001, by decide +kernel⟩,
   ⟨0x7FC00000, by decide +kernel⟩,
   ⟨0xFF800001, by decide +kernel⟩,
   ⟨0x80000000, 0, by decide +kernel⟩,
   ⟨0x7F800001, 0x7F7FFFFF, by decide +kernel⟩,
   ⟨0x7F800001, 0x7F7FFFFF, by decide +kernel⟩,
   ⟨0xFF7FFFFF, 0x7F800001, by decide +kernel⟩,
   ⟨0xFF7FFFFF, 0x7F800001, by decide +kernel⟩,
   ⟨0x7F800001, 0xFF800001, by decide +kernel⟩,
   ⟨0x7F800001, 0xFF800001, by decide +kernel⟩⟩

theorem test_witness_OtherVectorFunctionsHaveTheirEffects :
    (∃ (s : State) (e : CoreEng) (w : Nat), w = opWord s.block (ceNum e) ∧ (readyFor s.block (ceNum e) (fun v => isOp opVOP v && fFunc v == 0x25)) ∧ accessCauses s.block (ceNum e) w (vxAccess (fVd w) (2 * rawRowBytes (fVWidth w)) true) = []) :=
  ⟨runs ⟨15, 5, 4⟩ 0x25000000000020 [], ⟨15, 5, 4⟩, 0x25000000000020, by unfold readyFor standsAt; decide +kernel⟩

theorem test_witness_MovesIssueAndReadWhatTheyReach :
    (∃ (s : State) (e : CoreEng) (w : Nat), w = opWord s.block (ceNum e) ∧ readyFor s.block (ceNum e) (isOp opMOVE) ∧ accessCauses s.block (ceNum e) w (devAccess s.block w (fMvDev w * 256) (256 * fMvLen w) (fMvDir w == 1)) = [] ∧ accessCauses s.block (ceNum e) w ⟨fMvSpace w, fMvLocal w, 256 * fMvLen w, fMvDir w == 0, none⟩ = []) ∧
    (∃ (s : State) (e : CoreEng) (p : Fin 128) (w : Nat) (src : Nat), w = opWord s.block (ceNum e) ∧ standsAt s.block (ceNum e) (isOp opMOVE) ∧ waitOkRace s.block (ceNum e) w (some p.val) = true ∧ fWaitK w = 1 ∧ fWSpace w = 1 ∧ src = raceSource s.block (ceNum e) w p (moveSrc s.block (ceNum e) w) ∧ accessCauses s.block (ceNum e) w (devAccess s.block w (fMvDev w * 256) (256 * fMvLen w) (fMvDir w == 1)) = [] ∧ accessCauses s.block (ceNum e) w ⟨fMvSpace w, fMvLocal w, 256 * fMvLen w, fMvDir w == 0, none⟩ = []) ∧
    (∃ (s : State) (e : CoreEng) (w : Nat) (k : Nat) (d : GDesc), w = opWord s.block (ceNum e) ∧ readyFor s.block (ceNum e) (isOp opGATHER) ∧ d = gatherDesc s.block (ceNum e) w ∧ d.ok = true ∧ k = stepsNow s.block (ceNum e) (ceilDiv d.size 256) (fGaN w) ∧ accessCauses s.block (ceNum e) w ⟨1 + fGaISpace w, fGaIAddr w, 4 * fGaN w, false, none⟩ = [] ∧ accessCauses s.block (ceNum e) w ⟨fGaSpace w, fGaDest w, d.size * fGaN w, true, none⟩ = [] ∧ ((gatherFetched s.block (ceNum e) w d).any (fun a => poisoned s.block a d.size) = false)) ∧
    (∃ (s : State) (e : CoreEng) (w : Nat) (src : Nat), w = opWord s.block (ceNum e) ∧ readyFor s.block (ceNum e) (isOp opIMLOAD) ∧ src = fImDev w * 256 + wptrAdd s.block w ∧ src < 0x80000000000 ∧ accessCauses s.block (ceNum e) w (devAccess s.block w (fImDev w * 256) (256 * fImLen w) false) = []) ∧
    (∃ (s : State) (e : CoreEng) (w : Nat), w = opWord s.block (ceNum e) ∧ readyFor s.block (ceNum e) (isOp opSVCREAD) ∧ accessCauses s.block (ceNum e) w (svcAccess w) = []) :=
  ⟨⟨withRange (runs ⟨15, 5, 6⟩ 0x100000000000000000000000000030 []) 0 256, ⟨15, 5, 6⟩, 0x100000000000000000000000000030, by unfold readyFor standsAt; decide +kernel⟩,
   ⟨withRange (runs ⟨15, 5, 6⟩ 0x100000000000000000000010001130 [(Reg.STORE.TOK_REGION_VALID (storePage 15) 0, 1), (Reg.STORE.TOK_REGION_BASE (storePage 15) 0, 1), (Reg.STORE.TOK_REGION_LEN (storePage 15) 0, 1), (Reg.STORE.TOK_REGION_VALID (storePage 15) 127, 1), (Reg.STORE.TOK_REGION_BASE (storePage 15) 127, 2), (Reg.STORE.TOK_REGION_LEN (storePage 15) 127, 1), (fPosted (storePage 15) 1 127, 1)]) 0 256, ⟨15, 5, 6⟩, 127, 0x100000000000000000000010001130, raceSource (withRange (runs ⟨15, 5, 6⟩ 0x100000000000000000000010001130 [(Reg.STORE.TOK_REGION_VALID (storePage 15) 0, 1), (Reg.STORE.TOK_REGION_BASE (storePage 15) 0, 1), (Reg.STORE.TOK_REGION_LEN (storePage 15) 0, 1), (Reg.STORE.TOK_REGION_VALID (storePage 15) 127, 1), (Reg.STORE.TOK_REGION_BASE (storePage 15) 127, 2), (Reg.STORE.TOK_REGION_LEN (storePage 15) 127, 1), (fPosted (storePage 15) 1 127, 1)]) 0 256).block (ceNum ⟨15, 5, 6⟩) 0x100000000000000000000010001130 127 (moveSrc (withRange (runs ⟨15, 5, 6⟩ 0x100000000000000000000010001130 [(Reg.STORE.TOK_REGION_VALID (storePage 15) 0, 1), (Reg.STORE.TOK_REGION_BASE (storePage 15) 0, 1), (Reg.STORE.TOK_REGION_LEN (storePage 15) 0, 1), (Reg.STORE.TOK_REGION_VALID (storePage 15) 127, 1), (Reg.STORE.TOK_REGION_BASE (storePage 15) 127, 2), (Reg.STORE.TOK_REGION_LEN (storePage 15) 127, 1), (fPosted (storePage 15) 1 127, 1)]) 0 256).block (ceNum ⟨15, 5, 6⟩) 0x100000000000000000000010001130), by unfold standsAt; decide +kernel⟩,
   ⟨withRange (runs ⟨15, 5, 6⟩ 0x400040000000000000000031 [(Reg.MV.ELEM (engBlock (ceNum ⟨15, 5, 6⟩)) 0, 1), (Reg.MV.DFLAGS_VALID (engBlock (ceNum ⟨15, 5, 6⟩)) 0, 1)]) 0 256, ⟨15, 5, 6⟩, 0x400040000000000000000031, stepsNow (withRange (runs ⟨15, 5, 6⟩ 0x400040000000000000000031 [(Reg.MV.ELEM (engBlock (ceNum ⟨15, 5, 6⟩)) 0, 1), (Reg.MV.DFLAGS_VALID (engBlock (ceNum ⟨15, 5, 6⟩)) 0, 1)]) 0 256).block (ceNum ⟨15, 5, 6⟩) (ceilDiv 32 256) (fGaN 0x400040000000000000000031), (gatherDesc (withRange (runs ⟨15, 5, 6⟩ 0x400040000000000000000031 [(Reg.MV.ELEM (engBlock (ceNum ⟨15, 5, 6⟩)) 0, 1), (Reg.MV.DFLAGS_VALID (engBlock (ceNum ⟨15, 5, 6⟩)) 0, 1)]) 0 256).block (ceNum ⟨15, 5, 6⟩) 0x400040000000000000000031), by unfold readyFor standsAt; decide +kernel⟩,
   ⟨withRange (runs ⟨15, 5, 6⟩ 0x100070000000000000000000032 []) 0 65536, ⟨15, 5, 6⟩, 0x100070000000000000000000032, fImDev 0x100070000000000000000000032 * 256, by unfold readyFor standsAt; decide +kernel⟩,
   ⟨runs ⟨15, 5, 6⟩ 0x100000000000001000000000033 [], ⟨15, 5, 6⟩, 0x100000000000001000000000033, by unfold readyFor standsAt; decide +kernel⟩⟩

theorem test_witness_OperationsCompleteInOrder :
    (∃ (s : State) (e : CoreEng) (x : InFlight), dueWith s.block (ceNum e) x .none) ∧
    (∃ (s : State) (e : CoreEng) (x : InFlight) (ws : List (Nat × List Byte)), dueWith s.block (ceNum e) x (.writes ws 0)) ∧
    (∃ (s : State) (e : CoreEng) (x : InFlight) (r : Nat) (a : Nat), dueWith s.block (ceNum e) x (.ar r (.clr a))) ∧
    (∃ (s : State) (e : CoreEng) (x : InFlight) (m : Nat) (off : Nat) (src : Nat) (data : List Byte), dueWith s.block (ceNum e) x (.imload m off src data) ∧ (eng s.block m).tailBank ≠ some (inactiveBank s.block m) ∧ m ≠ ceNum e) ∧
    (∃ (s : State) (e : CoreEng) (x : InFlight) (d : Nat), dueWith s.block (ceNum e) x (.sheetEnd d) ∧ e.eng ≠ 7) ∧
    (∃ (s : State) (e : CoreEng) (x : InFlight) (src : Nat) (dst : Nat) (data : List Byte), dueWith s.block (ceNum e) x (.copy src dst data)) ∧
    (∃ (s : State) (e : CoreEng) (x : InFlight) (d : GDesc) (idx : Nat) (dst : Nat) (data : List Byte) (codes : List Nat), dueWith s.block (ceNum e) x (.gather d idx dst data codes) ∧ gatherHalt codes = 0) ∧
    (∃ (s : State) (e : CoreEng) (x : InFlight) (d : GDesc) (idx : Nat) (dst : Nat) (data : List Byte) (codes : List Nat), dueWith s.block (ceNum e) x (.gather d idx dst data codes) ∧ gatherHalt codes ≠ 0 ∧ engState s.block (ceNum e) ≠ 4) :=
  ⟨⟨due (ceNum ⟨15, 5, 7⟩) 0 0 (.none) [], ⟨15, 5, 7⟩, ⟨0, 0, 0, 0, 1, 0, 0, 0, .none⟩, by unfold dueWith; decide +kernel⟩,
   ⟨due (ceNum ⟨15, 5, 6⟩) 0x100000000000000000000000000030 0 (.writes [(0, [1])] 0) [], ⟨15, 5, 6⟩, ⟨0x100000000000000000000000000030, 0, 0, 0, 1, 0, 0, 0, .writes [(0, [1])] 0⟩, [(0, [1])], by unfold dueWith; decide +kernel⟩,
   ⟨due (ceNum ⟨15, 5, 4⟩) 0 0 (.ar 7 (.clr 1023)) [], ⟨15, 5, 4⟩, ⟨0, 0, 0, 0, 1, 0, 0, 0, .ar 7 (.clr 1023)⟩, 7, 1023, by unfold dueWith; decide +kernel⟩,
   ⟨due (ceNum ⟨15, 5, 6⟩) 0x100070000000000000000000032 0 (.imload 0 0 65536 [1]) [], ⟨15, 5, 6⟩, ⟨0x100070000000000000000000032, 0, 0, 0, 1, 0, 0, 0, .imload 0 0 65536 [1]⟩, 0, 0, 65536, [1], by unfold dueWith; decide +kernel⟩,
   ⟨due (ceNum ⟨0, 0, 0⟩) 2 0 (.sheetEnd 1048576) [], ⟨0, 0, 0⟩, ⟨2, 0, 0, 0, 1, 0, 0, 0, .sheetEnd 1048576⟩, 1048576, by unfold dueWith; decide +kernel⟩,
   ⟨due (ceNum ⟨15, 5, 6⟩) 0x100000000000000000000000000030 0 (.copy 512 256 [1]) [], ⟨15, 5, 6⟩, ⟨0x100000000000000000000000000030, 0, 0, 0, 1, 0, 0, 0, .copy 512 256 [1]⟩, 512, 256, [1], by unfold dueWith; decide +kernel⟩,
   ⟨due (ceNum ⟨15, 5, 6⟩) 0x400040000000000000000031 0 (.gather ⟨0, 32, 0, 1, 0, false, true⟩ 0 256 [1] []) [], ⟨15, 5, 6⟩, ⟨0x400040000000000000000031, 0, 0, 0, 1, 0, 0, 0, .gather ⟨0, 32, 0, 1, 0, false, true⟩ 0 256 [1] []⟩, ⟨0, 32, 0, 1, 0, false, true⟩, 0, 256, [1], [], by unfold dueWith; decide +kernel⟩,
   ⟨due (ceNum ⟨15, 5, 6⟩) 0x400040000000000000000031 65520 (.gather ⟨0, 32, 0, 1, 0, false, true⟩ 0 256 [1] [2]) [], ⟨15, 5, 6⟩, ⟨0x400040000000000000000031, 65520, 0, 0, 1, 0, 0, 0, .gather ⟨0, 32, 0, 1, 0, false, true⟩ 0 256 [1] [2]⟩, ⟨0, 32, 0, 1, 0, false, true⟩, 0, 256, [1], [2], by unfold dueWith; decide +kernel⟩⟩

theorem test_witness_EnginesHaltOnRequestAndWhenLate :
    (∃ (s : State) (rq : Requester) (e : EngineId), guardOpen s.block rq = true ∧ pageResponds s.block (engPage (engNum e)) = true ∧ ((engState s.block (engNum e) = 2 ∨ engState s.block (engNum e) = 3))) ∧
    (∃ (s : State) (e : CoreEng), inJob s.block = true ∧ engInJob s.block (ceNum e) = true ∧ jobState s.block = 3 ∧ checkPoint s.block (ceNum e) ≤ sched s.block ∧ (eng s.block (ceNum e)).doneSheet = false ∧ engState s.block (ceNum e) ≠ 4) ∧
    (∃ (s : State) (e : EngineId) (tick : Nat), 768 ≤ engNum e ∧ engState s.block (engNum e) ≠ 4 ∧ engState s.block (engNum e) ≠ 0 ∧ missed s.block (engNum e) tick = true ∧ tick + rd s.block (Reg.ENG.GRACE (engBlock (engNum e))) ≤ sched s.block) ∧
    (∃ (s : State) (e : EngineId) (tick : Nat), missed s.block (engNum e) tick = false) :=
  ⟨⟨openState [(Reg.ENG.STATE_STATE (engBlock 833), 3)], .host, .me 15 1, by decide +kernel⟩,
   ⟨{ block := jobBlock 4096 [(Reg.COR.ENGINE_MASK_IN_JOB (corPage 15 5), 1), (Reg.COR.ENGINE_MASK_MASK (corPage 15 5), 255), (Reg.ENG.STATE_STATE (engBlock (ceNum ⟨15, 5, 7⟩)), 2)] }, ⟨15, 5, 7⟩, by decide +kernel⟩,
   ⟨{ block := jobBlock 1 [(Reg.ENG.STATE_STATE (engBlock 780), 2), (Reg.ENG.GRACE (engBlock 780), 0)] }, .hbe, 1, by decide +kernel⟩,
   ⟨{}, .pe 0, 1, by decide +kernel⟩⟩

theorem test_witness_BanksAreCheckedAndTokenSlotsWritten :
    (∃ (s : State) (e : EngineId) (crc : Nat), pageResponds s.block (engPage (engNum e)) = true ∧ crc = crc32c (imemRead s.block ((2 * engNum e + (1 - activeBank s.block (engNum e))) * 65536) (min (rd s.block (Reg.ENG.IMEM_LEN (engBlock (engNum e)))) 65536))) ∧
    (∃ (s : State) (rq : Requester) (cl : Fin 16) (k : Fin 6) (i : Fin 64) (a : BitVec 26) (v : BitVec 32), a.toNat = corPage cl k + 0x400 + 8 * i.val ∧ pageResponds s.block (corPage cl k) = true ∧ flag s.block (Reg.COR.ENGINE_MASK_IN_JOB (corPage cl k)) = false ∧ regionRefused s.block a.toNat 0 i v.toNat = false ∧ takesAll s.block rq (a.toNat) = true) :=
  ⟨⟨{}, .hbe, 0, by decide +kernel⟩,
   ⟨{}, .host, 15, 5, 63, BitVec.ofNat 26 (corPage 15 5 + 0x400 + 8 * 63), 0x80002FFF, by decide +kernel⟩⟩

theorem test_witness_ResetRequestsClaimTheirDomainAndComplete :
    (∃ (s : State) (rq : Requester) (e : CoreEng), guardOpen s.block rq = true ∧ pageResponds s.block (corPage e.cl e.core) = true ∧ resetting s.block (.engine (ceNum e)) = false ∧ heldForward s.block (.engine (ceNum e)) = false) ∧
    (∃ (s : State) (rq : Requester) (cl : Fin 16) (k : Fin 6), guardOpen s.block rq = true ∧ pageResponds s.block (corPage cl k) = true ∧ resetting s.block (.core cl k) = false ∧ heldForward s.block (.core cl k) = false) ∧
    (∃ (s : State) (rq : Requester) (cl : Fin 16), guardOpen s.block rq = true ∧ pageResponds s.block (cluPage cl) = true ∧ resetting s.block (.cluster cl) = false ∧ heldForward s.block (.cluster cl) = false) ∧
    (∃ (s : State) (rq : Requester) (cl : Fin 16) (i : Fin 2), guardOpen s.block rq = true ∧ pageResponds s.block (cluPage cl) = true ∧ resetting s.block (.engine (engME cl i)) = false) ∧
    (∃ (s : State) (n : Fin 12), resetting s.block (.engine (engPE n)) = false) ∧
    (∃ (s : State) (d : Domain), resetting s.block (domOf d) = true ∧ (eng s.block (domOf d).eng).resetBy ≠ 0 ∧ (eng s.block (domOf d).eng).resetAt + 10000 ≤ now s.block ∧ drained s.block (domOf d) = false) ∧
    (∃ (s : State) (d : Domain), resetting s.block (domOf d) = true ∧ drained s.block (domOf d) = true ∧ inLarger s.block (domOf d) = false) ∧
    (∃ (s : State) (d : Domain), inLarger s.block (domOf d) = true) :=
  ⟨⟨openState [], .host, ⟨15, 5, 7⟩, by decide +kernel⟩,
   ⟨openState [], .host, 15, 5, by decide +kernel⟩,
   ⟨openState [], .host, 15, by decide +kernel⟩,
   ⟨openState [], .host, 15, 1, by decide +kernel⟩,
   ⟨{}, 11, by decide +kernel⟩,
   ⟨withEng (atTick 10000 []) 833 { resetBy := 1, inflight := [⟨0, 0, 0, 0, 1, 0, 0, 0, .none⟩] }, .engine (.me 15 1), by decide +kernel⟩,
   ⟨withEng {} 833 { resetBy := 1 }, .engine (.me 15 1), by decide +kernel⟩,
   ⟨openState [(Reg.CLU.RESET_CTRL_CLUSTER_RESET (cluPage 15), 1)], .core 15 5, by decide +kernel⟩⟩

theorem test_witness_TiersReadAndWriteOnSchedule :
    (∃ (s : State) (u : MemUnit) (o : SlotOp) (x : Nat) (a : Nat), tierOp s.block (unitNum u) opTREAD = some (o, x) ∧ tierRuns s.block (unitNum u) = true ∧ tierFresh s.block (unitNum u) x = true ∧ a = stepAddr (fTAddr o.word) (fTStep o.word) (fTFirst o.word) x ∧ unitOf s.block a = some (unitNum u) ∧ inRanges s.block a (slotBytes (unitNum u)) = true) ∧
    (∃ (s : State) (u : MemUnit) (r : ReadData), ((unit s.block (unitNum u)).reads.find? (fun q => !q.delivered) = some r) ∧ r.due ≤ sched s.block) ∧
    (∃ (s : State) (u : MemUnit) (o : SlotOp) (x : Nat) (a : Nat), tierOp s.block (unitNum u) opTWRITE = some (o, x) ∧ tierRuns s.block (unitNum u) = true ∧ tierFresh s.block (unitNum u) x = true ∧ a = stepAddr (fTAddr o.word) (fTStep o.word) (fTFirst o.word) x ∧ unitOf s.block a = some (unitNum u) ∧ inRanges s.block a (slotBytes (unitNum u)) = true ∧ ((∀ f ∈ s.block.mesh, f.payload.length = 256))) ∧
    (∃ (s : State) (n : Fin 8) (o : SlotOp) (x : Nat) (a : Nat) (f : MeshFlit), tierOp s.block (12 + n) opTWRITE = some (o, x) ∧ tierRuns s.block (12 + n) = true ∧ tierFresh s.block (12 + n) x = true ∧ a = stepAddr (fTAddr o.word) (fTStep o.word) (fTFirst o.word) x ∧ unitOf s.block a = some (12 + n.val) ∧ inRanges s.block a 256 = true ∧ (s.block.mesh.find? (fun g => g.node == unitNode (12 + n) && g.chan == fChan o.word && decide (2 * g.slot + unitHop s.block (12 + n) ≤ sched s.block)) = some f) ∧ f.hollow = false ∧ f.bad = false) :=
  ⟨⟨withRange (dieRuns 782 0x400000040 74 []) 0 12288, .hbm 0, soleOp 0x400000040, 0, 0, by decide +kernel⟩,
   ⟨withUnit {} 19 { reads := [⟨0, 0, false, 0, [], []⟩] }, .ddr 7, ⟨0, 0, false, 0, [], []⟩, by decide +kernel⟩,
   ⟨withRange (dieRuns 782 0x400000041 74 []) 0 12288, .hbm 0, soleOp 0x400000041, 0, 0, by decide +kernel⟩,
   ⟨withMesh (withRange (dieRuns 801 0x2c00000000000400000041 74 [(Reg.DDR.DIMM_STATUS_CAP (ddrPage 7), 1)]) 0x2C000000000 256) [⟨17, 0, 0, false, false, false, zeros 256⟩], 7, soleOp 0x2c00000000000400000041, 0, 0x2C000000000, ⟨17, 0, 0, false, false, false, zeros 256⟩, by decide +kernel⟩⟩

theorem test_witness_RefreshPatrolAndMovesKeepTheirPlaces :
    (∃ (s : State), now s.block % 1024 < 64) ∧
    (∃ (s : State) (u : MemUnit), 64 ≤ now s.block % 1024 ∧ now s.block % 1024 < 69 ∧ (unit s.block (unitNum u)).scrubbed ≠ now s.block / 1024 + 1) ∧
    (∃ (s : State) (u : MemUnit), 69 ≤ now s.block % 1024 ∧ now s.block % 1024 < 74 ∧ (unit s.block (unitNum u)).reserved ≠ now s.block / 1024 + 1 ∧ (unit s.block (unitNum u)).readback = []) ∧
    (∃ (s : State) (u : MemUnit), ((now s.block % 1024 < 64 ∨ 74 ≤ now s.block % 1024)) ∧ (unit s.block (unitNum u)).waited ≠ now s.block / 1024 + 1) ∧
    (∃ (s : State) (u : MemUnit), ((now s.block % 1024 < 64 ∨ 74 ≤ now s.block % 1024)) ∧ (unit s.block (unitNum u)).waited = now s.block / 1024 + 1) ∧
    (∃ (s : State) (u : MemUnit) (c : MoveClass), slotOpen s.block (unitNum u) (classCode c) = true ∧ (unit s.block (unitNum u)).lastSlot ≠ now s.block / 1024 * 190 + (now s.block % 1024 - 74) / 5 + 1) ∧
    (∃ (s : State) (u : MemUnit) (m : Move) (r : List Move), slotOpen s.block (unitNum u) 1 = true ∧ (unit s.block (unitNum u)).lastSlot ≠ now s.block / 1024 * 190 + (now s.block % 1024 - 74) / 5 + 1 ∧ (unit s.block (unitNum u)).kv = m :: r ∧ m.kind = 3 ∧ m.len ≠ 0) :=
  ⟨⟨atTick 63 [], by decide +kernel⟩,
   ⟨atTick 68 [], .hbm 11, by decide +kernel⟩,
   ⟨atTick 69 [], .hbm 11, by decide +kernel⟩,
   ⟨atTick 74 [], .hbm 11, by decide +kernel⟩,
   ⟨withUnit (atTick 74 []) 11 { waited := 1 }, .hbm 11, by decide +kernel⟩,
   ⟨atTick 74 [], .ddr 7, .host, by decide +kernel⟩,
   ⟨withUnit (atTick 74 []) 0 { kv := [⟨3, 0, 12289, 0, false, [], [], 0⟩] }, .hbm 0, ⟨3, 0, 12289, 0, false, [], [], 0⟩, [], by decide +kernel⟩⟩

theorem test_witness_SlotsDepart :
    (∃ (s : State) (e : SlotEng) (ch : Fin 128) (o : SlotOp), turnOf s.block (slotNum e) opIDLE ch o) ∧
    (∃ (s : State) (e : SlotEng) (ch : Fin 128) (partner : Option RaceMember) (o : SlotOp) (t : Taken), turnOf s.block (slotNum e) opSEND ch o ∧ usable s.block (slotNum e) [ch] = [ch.val] ∧ takeSource s.block (slotNum e) o (slotNow s.block) partner = t) ∧
    (∃ (s : State) (e : SlotEng) (ch : Fin 128) (o : SlotOp) (h : HeldEntry), turnOf s.block (slotNum e) opFWD ch o ∧ usable s.block (slotNum e) [ch] = [ch.val] ∧ ((eng s.block (slotNum e)).held.find? (fun h => h.input == fInChan o.word && h.slot == jobSlot s.block - fK o.word) = some h)) ∧
    (∃ (s : State) (e : SlotEng) (o : SlotOp) (c : Nat) (chs : List Nat) (h : HeldEntry), outsOf (eng s.block (slotNum e)).outBase (eng s.block (slotNum e)).outMask = c :: chs ∧ turnOf s.block (slotNum e) opMCAST c o ∧ usable s.block (slotNum e) (c :: chs) ≠ [] ∧ fKind o.word = 15 ∧ ((eng s.block (slotNum e)).held.find? (fun h => h.input == fInChan o.word && h.slot == jobSlot s.block - fK o.word) = some h)) :=
  ⟨⟨dieRuns 833 0x800057f80 10 [], .me 15 1, 127, soleOp 0x800057f80, by unfold turnOf; decide +kernel⟩,
   ⟨dieRuns 768 0x180000800050081 10 [(Reg.PRT.PORT_STATUS_IN_JOB (prtPage 0), 1), (Reg.PRT.PORT_STATUS_TRAINED (prtPage 0), 1), (Reg.PRT.PORT_STATUS_WIDTH (prtPage 0), 8), (Reg.PRT.PORT_STATUS_FENCED (prtPage 0), 0)], .pe 0, 0, none, soleOp 0x180000800050081, takeSource (dieRuns 768 0x180000800050081 10 [(Reg.PRT.PORT_STATUS_IN_JOB (prtPage 0), 1), (Reg.PRT.PORT_STATUS_TRAINED (prtPage 0), 1), (Reg.PRT.PORT_STATUS_WIDTH (prtPage 0), 8), (Reg.PRT.PORT_STATUS_FENCED (prtPage 0), 0)]).block 768 (soleOp 0x180000800050081) 5 none, by unfold turnOf; decide +kernel, by decide +kernel, rfl⟩,
   ⟨withEng (dieRuns 768 0x3c0000000800140082 40 [(Reg.PRT.PORT_STATUS_IN_JOB (prtPage 0), 1), (Reg.PRT.PORT_STATUS_TRAINED (prtPage 0), 1), (Reg.PRT.PORT_STATUS_WIDTH (prtPage 0), 8), (Reg.PRT.PORT_STATUS_FENCED (prtPage 0), 0)]) 768 { held := [⟨0, 5, false, false, zeros 256⟩] }, .pe 0, 0, soleOp 0x3c0000000800140082, ⟨0, 5, false, false, zeros 256⟩, by unfold turnOf; decide +kernel⟩,
   ⟨{ block := setEng (imemWr (jobBlock 40 ([(Reg.PRT.PORT_STATUS_IN_JOB (prtPage 0), 1), (Reg.PRT.PORT_STATUS_TRAINED (prtPage 0), 1), (Reg.PRT.PORT_STATUS_WIDTH (prtPage 0), 8), (Reg.PRT.PORT_STATUS_FENCED (prtPage 0), 0)] ++ [(Reg.ENG.STATE_STATE (engBlock 768), 2), (Reg.ENG.ACTIVE_LEN (engBlock 768), 32)])) (2 * 768 * 65536) (natLe 16 0x10084 ++ natLe 16 0x3c03c0000800140083)) 768 { held := [⟨0, 5, false, false, zeros 256⟩], outMask := 1 } }, .pe 0, ⟨0x3c03c0000800140083, 1, 0x10084, []⟩, 0, [], ⟨0, 5, false, false, zeros 256⟩, by unfold turnOf; decide +kernel⟩⟩

theorem test_witness_SlotProgramsAndSideFlitsMoveOn :
    (∃ (s : State) (e : SlotEng), engState s.block (slotNum e) = 2 ∧ fOpcode (opWord s.block (slotNum e)) = opOUTSET ∧ ((bankProgram s.block (slotNum e) (activeBank s.block (slotNum e))).find? (fun o => fOpcode o.word == opMCAST && o.names (slotNow s.block)) = none)) ∧
    (∃ (s : State) (e : SlotEng) (o : SlotOp), engState s.block (slotNum e) = 2 ∧ ((bankProgram s.block (slotNum e) (activeBank s.block (slotNum e))).find? (fun o => fOpcode o.word == opMCAST && o.names (slotNow s.block)) = some o) ∧ fOpcode o.outset = opOUTSET) ∧
    (∃ (s : State) (e : SlotEng), engState s.block (slotNum e) = 2 ∧ fOpcode (opWord s.block (slotNum e)) = opREPEAT) ∧
    (∃ (s : State), (inJob s.block = true → s.block.plan.sheetStart + 2048 ≤ sched s.block)) ∧
    (∃ (s : State) (cl : Fin 16) (out : Fin 128) (f : SideFlit) (r : List SideFlit), 4 ≤ out.val ∧ out.val < 14 ∧ sideSlot s.block cl out = true ∧ sideHeld s.block cl out = false ∧ sideQueue s.block cl out = f :: r ∧ f.back = false ∧ f.write = true ∧ f.tag = 0 ∧ (mapped s.block = false ∨ unitOf s.block f.addr = none)) ∧
    (∃ (s : State) (cl : Fin 16) (out : Fin 128) (f : SideFlit) (r : List SideFlit), 4 ≤ out.val ∧ out.val < 14 ∧ sideSlot s.block cl out = true ∧ sideHeld s.block cl out = false ∧ sideQueue s.block cl out = f :: r ∧ f.back = true) ∧
    (∃ (s : State) (cl : Fin 16) (out : Fin 128) (f : SideFlit) (r : List SideFlit) (u : Nat), 4 ≤ out.val ∧ out.val < 14 ∧ sideSlot s.block cl out = true ∧ sideHeld s.block cl out = false ∧ sideQueue s.block cl out = f :: r ∧ f.back = false ∧ mapped s.block = true ∧ unitOf s.block f.addr = some u) ∧
    (∃ (s : State) (cl : Fin 16) (out : Fin 4) (f : SideFlit) (c : Nat) (o : Nat) (r : List SideFlit), sideSlot s.block cl out = true ∧ sideQueue s.block cl out = f :: r ∧ c = nextRouter cl out ∧ o = sideOut c (f.target s.block) ∧ (sideQueue s.block c o).length < 32) ∧
    (∃ (s : State) (cl : Fin 16) (f : SideFlit) (o : Nat) (r : List SideFlit), sideSlot s.block cl 14 = true ∧ sideQueue s.block cl 14 = f :: r ∧ o = sideOut cl (f.target s.block) ∧ (sideQueue s.block cl o).length < 32) :=
  ⟨⟨dieRuns 833 0xffffffffffffffffff84 0 [], .me 15 1, by decide +kernel⟩,
   ⟨{ block := imemWr (jobBlock 0 [(Reg.ENG.STATE_STATE (engBlock 833), 2), (Reg.ENG.ACTIVE_LEN (engBlock 833), 32)]) (2 * 833 * 65536) (natLe 16 0xffffffffffffffffff84 ++ natLe 16 0x800000083) }, .me 15 1, ⟨0x800000083, 1, 0xffffffffffffffffff84, []⟩, by decide +kernel⟩,
   ⟨dieRuns 833 0xfffff000008f 0 [], .me 15 1, by decide +kernel⟩,
   ⟨atTick 0 [], by decide +kernel⟩,
   ⟨{ block := { (jobBlock 0 []) with side := [(253, [⟨0x80000000000+15*0x2000000, 1, [7], 0, true, false, false⟩])], plan := { (jobBlock 0 []).plan with inQuantum := true } } }, 15, 13, ⟨0x80000000000+15*0x2000000, 1, [7], 0, true, false, false⟩, [], by decide +kernel⟩,
   ⟨{ block := { (jobBlock 0 []) with side := [(253, [⟨0x80000000000+15*0x2000000, 1, [7], 3, true, false, true⟩])], plan := { (jobBlock 0 []).plan with inQuantum := true } } }, 15, 13, ⟨0x80000000000+15*0x2000000, 1, [7], 3, true, false, true⟩, [], by decide +kernel⟩,
   ⟨{ block := { (jobBlock 0 []) with side := [(15*16+4, [⟨0xB000000000, 1, [7], 0, true, false, false⟩])], plan := { (jobBlock 0 []).plan with inQuantum := true } } }, 15, 4, ⟨0xB000000000, 1, [7], 0, true, false, false⟩, [], 11, by decide +kernel⟩,
   ⟨{ block := { (jobBlock 0 []) with side := [(1, [⟨0x80000000000+15*0x2000000, 1, [7], 0, true, false, false⟩])], plan := { (jobBlock 0 []).plan with inQuantum := true } } }, 0, 1, ⟨0x80000000000+15*0x2000000, 1, [7], 0, true, false, false⟩, 4, 1, [], by decide +kernel⟩,
   ⟨{ block := { (jobBlock 0 []) with side := [(14, [⟨0x80000000000+15*0x2000000, 1, [7], 0, true, false, false⟩])], plan := { (jobBlock 0 []).plan with inQuantum := true } } }, 0, ⟨0x80000000000+15*0x2000000, 1, [7], 0, true, false, false⟩, 1, [], by decide +kernel⟩⟩

theorem test_witness_ScheduledFlitsArrive :
    (∃ (s : State) (p : Fin 12) (h : BitVec 128) (d : List Byte) (o : SlotOp) (bank : Nat) (x : Nat) (js : Nat), d.length = 256 ∧ bits h.toNat 0 2 = 1 ∧ rd s.block (Reg.PRT.JOB_TAG_TAG (prtPage p)) ≠ 0 ∧ bits h.toNat 56 16 = rd s.block (Reg.PRT.JOB_TAG_TAG (prtPage p)) ∧ js = slotOfHeader s.block (bits h.toNat 44 12) ∧ (rxOp s.block (engPE p) 0 js (fun _ => true) = some (o, bank, x)) ∧ bank = bits h.toNat 41 1 ∧ released s.block (2 * js + releaseDelay s.block (engPE p) 0) = false) ∧
    (∃ (s : State) (p : Fin 12) (h : BitVec 128) (d : List Byte), d.length = 256 ∧ bits h.toNat 0 2 = 1 ∧ (rd s.block (Reg.PRT.JOB_TAG_TAG (prtPage p)) = 0 ∨ bits h.toNat 56 16 ≠ rd s.block (Reg.PRT.JOB_TAG_TAG (prtPage p)))) ∧
    (∃ (s : State) (p : Fin 12) (h : BitVec 128) (d : List Byte), d.length = 256 ∧ bits h.toNat 0 2 = 1 ∧ rd s.block (Reg.PRT.JOB_TAG_TAG (prtPage p)) ≠ 0 ∧ bits h.toNat 56 16 = rd s.block (Reg.PRT.JOB_TAG_TAG (prtPage p)) ∧ (rxOp s.block (engPE p) 0 (slotOfHeader s.block (bits h.toNat 44 12)) (fun _ => true) = none)) :=
  ⟨⟨dieRuns 768 0x800050089 20 [(Reg.PRT.JOB_TAG_TAG (prtPage 0), 1), (Reg.PRT.RELEASE_OFFSET (prtPage 0), 30)], 0, 0x100500000000001, zeros 256, soleOp 0x800050089, 0, 5, 5, by decide +kernel⟩,
   ⟨dieRuns 768 0x800050089 20 [(Reg.PRT.JOB_TAG_TAG (prtPage 0), 1), (Reg.PRT.RELEASE_OFFSET (prtPage 0), 30)], 0, 0x200500000000001, zeros 256, by decide +kernel⟩,
   ⟨dieRuns 768 0x800050089 20 [(Reg.PRT.JOB_TAG_TAG (prtPage 0), 1), (Reg.PRT.RELEASE_OFFSET (prtPage 0), 30)], 0, 0x100600000000001, zeros 256, by decide +kernel⟩⟩

theorem test_witness_ReleasesHoldOrDeliver :
    (∃ (s : State) (e : SlotEng) (i : Fin 128) (o : SlotOp) (js : Nat) (bank : Nat) (x : Nat) (d : List Byte), releasesNow s.block (slotNum e) i opHOLD js o bank x ∧ foundAt s.block (slotNum e) i js d) ∧
    (∃ (s : State) (p : Fin 12) (i : Fin 128) (o : SlotOp) (js : Nat) (bank : Nat) (x : Nat), releasesNow s.block (engPE p) i opHOLD js o bank x ∧ ((prt s.block p).couch.find? (fun c => c.1 == js % 1024 && c.2.slot == js) = none)) ∧
    (∃ (s : State) (e : SlotEng) (i : Fin 128) (o : SlotOp) (js : Nat) (bank : Nat) (x : Nat) (a : Nat) (d : List Byte), releasesNow s.block (slotNum e) i opDELIVER js o bank x ∧ foundAt s.block (slotNum e) i js d ∧ a = stepAddr (fSAddr o.word) (fStep o.word) (fFirst o.word) x ∧ (fKind o.word = 2 ∨ fKind o.word = 3) ∧ (unitOf s.block a).isSome = true ∧ devIn s.block a 256 = true ∧ inRanges s.block a 256 = true) ∧
    (∃ (s : State) (e : SlotEng) (i : Fin 128) (o : SlotOp) (js : Nat) (bank : Nat) (x : Nat) (a : Nat) (c : Nat) (k : Nat) (pg : Nat) (d : List Byte), releasesNow s.block (slotNum e) i opDELIVER js o bank x ∧ foundAt s.block (slotNum e) i js d ∧ a = sramAddr (stepAddr (fSAddr o.word) (fStep o.word) (fFirst o.word) x) ∧ fKind o.word < 2 ∧ kindFits s.block (fKind o.word) a = true ∧ sramOwner s.block a = some (c, k) ∧ pg = tokPageAt c k (tokTable o.word) ∧ slotUsable s.block pg (tokTable o.word) (fTok o.word) = true ∧ flag s.block (Reg.CLK.FREQ_NOW_STOPPED (clkPage c)) = false) ∧
    (∃ (s : State) (e : SlotEng) (i : Fin 128) (o : SlotOp) (js : Nat) (bank : Nat) (x : Nat) (a : Nat) (c : Nat) (k : Nat) (d : List Byte), releasesNow s.block (slotNum e) i opDELIVER js o bank x ∧ foundAt s.block (slotNum e) i js d ∧ a = sramAddr (stepAddr (fSAddr o.word) (fStep o.word) (fFirst o.word) x) ∧ fKind o.word < 2 ∧ kindFits s.block (fKind o.word) a = true ∧ sramOwner s.block a = some (c, k) ∧ flag s.block (Reg.CLK.FREQ_NOW_STOPPED (clkPage c)) = true) :=
  ⟨⟨withPort (dieRuns 768 0x800050089 40 [(Reg.PRT.JOB_TAG_TAG (prtPage 0), 1), (Reg.PRT.RELEASE_OFFSET (prtPage 0), 30)]) 0 { couch := [(5, ⟨5, false, false, zeros 256, 0, 20, 0, false⟩)] }, .pe 0, 0, soleOp 0x800050089, 5, 0, 5, zeros 256, by unfold releasesNow; decide +kernel, ⟨fun _ => ⟨(5, ⟨5, false, false, zeros 256, 0, 20, 0, false⟩), by decide +kernel⟩, fun h => absurd h (by decide +kernel)⟩⟩,
   ⟨dieRuns 768 0x800050089 40 [(Reg.PRT.JOB_TAG_TAG (prtPage 0), 1), (Reg.PRT.RELEASE_OFFSET (prtPage 0), 30)], 0, 0, soleOp 0x800050089, 5, 0, 5, by unfold releasesNow; decide +kernel⟩,
   ⟨withRange (withPort (dieRuns 768 0x80000800050088 40 [(Reg.PRT.JOB_TAG_TAG (prtPage 0), 1), (Reg.PRT.RELEASE_OFFSET (prtPage 0), 30)]) 0 { couch := [(5, ⟨5, false, false, zeros 256, 0, 20, 0, false⟩)] }) 0 256, .pe 0, 0, soleOp 0x80000800050088, 5, 0, 5, 0, zeros 256, by unfold releasesNow; decide +kernel, ⟨fun _ => ⟨(5, ⟨5, false, false, zeros 256, 0, 20, 0, false⟩), by decide +kernel⟩, fun h => absurd h (by decide +kernel)⟩, by decide +kernel, by decide +kernel, by decide +kernel, by decide +kernel, by decide +kernel⟩,
   ⟨withMesh (dieRuns 833 0x3f80000078000040000800051f88 18 [(Reg.STORE.TOK_REGION_VALID (storePage 15) 127, 1), (Reg.STORE.TOK_REGION_LEN (storePage 15) 127, 1)]) [⟨115, 31, 5, false, false, false, zeros 256⟩], .me 15 1, 31, soleOp 0x3f80000078000040000800051f88, 5, 0, 5, 0x80000000000 + 503316480, 15, 0, storePage 15, zeros 256, by unfold releasesNow; decide +kernel, ⟨fun h => absurd h (by decide +kernel), fun _ => ⟨⟨115, 31, 5, false, false, false, zeros 256⟩, by decide +kernel⟩⟩, by decide +kernel, by decide +kernel, by decide +kernel, by decide +kernel, by decide +kernel, by decide +kernel, by decide +kernel⟩,
   ⟨withMesh (dieRuns 833 0x3f80000078000040000800051f88 18 [(Reg.STORE.TOK_REGION_VALID (storePage 15) 127, 1), (Reg.STORE.TOK_REGION_LEN (storePage 15) 127, 1), (Reg.CLK.FREQ_NOW_STOPPED (clkPage 15), 1)]) [⟨115, 31, 5, false, false, false, zeros 256⟩], .me 15 1, 31, soleOp 0x3f80000078000040000800051f88, 5, 0, 5, 0x80000000000 + 503316480, 15, 0, zeros 256, by unfold releasesNow; decide +kernel, ⟨fun h => absurd h (by decide +kernel), fun _ => ⟨⟨115, 31, 5, false, false, false, zeros 256⟩, by decide +kernel⟩⟩, by decide +kernel, by decide +kernel, by decide +kernel, by decide +kernel, by decide +kernel⟩⟩

theorem test_witness_LinksTrain :
    (∃ (s : State) (p : Fin 12), trainState s.block p = 1) ∧
    (∃ (s : State) (p : Fin 12), trainState s.block p = 2) ∧
    (∃ (s : State) (p : Fin 12) (m : BitVec 8), trainState s.block p = 3 ∧ (prt s.block p).eqRx &&& m.toNat ≠ 0) ∧
    (∃ (s : State) (p : Fin 12) (mt : BitVec 8) (mr : BitVec 8), trainState s.block p = 4 ∧ (prt s.block p).eqTx &&& mr.toNat ≠ 0 ∧ (prt s.block p).eqRx &&& mt.toNat ≠ 0) ∧
    (∃ (s : State) (p : Fin 12) (l : Nat), trainLimit (trainState s.block p) = some l ∧ (prt s.block p).trainSince + l ≤ now s.block) :=
  ⟨⟨withPort (atTick 0 [(Reg.LNK.LINK_STATUS_TRAIN_STATE (lnkPage 11), 1)]) 11 {}, 11, by decide +kernel⟩,
   ⟨withPort (atTick 0 [(Reg.LNK.LINK_STATUS_TRAIN_STATE (lnkPage 11), 2)]) 11 {}, 11, by decide +kernel⟩,
   ⟨withPort (atTick 0 [(Reg.LNK.LINK_STATUS_TRAIN_STATE (lnkPage 11), 3)]) 11 { eqRx := 255 }, 11, 0x80, by decide +kernel⟩,
   ⟨withPort (atTick 0 [(Reg.LNK.LINK_STATUS_TRAIN_STATE (lnkPage 11), 4)]) 11 { eqTx := 255, eqRx := 255 }, 11, 0x80, 1, by decide +kernel⟩,
   ⟨withPort (atTick 20000000 [(Reg.LNK.LINK_STATUS_TRAIN_STATE (lnkPage 11), 2)]) 11 {}, 11, 20000000, by decide +kernel⟩⟩

theorem test_witness_LinksGoDown :
    (∃ (s : State) (p : Fin 12), linkUp s.block p = true ∧ (prt s.block p).lastGood + 1000 * rd s.block (Reg.LNK.DOWN_TIMEOUT (lnkPage p)) ≤ now s.block) ∧
    (∃ (s : State) (p : Fin 12) (copies : List (BitVec 40)) (c : BitVec 40), linkUp s.block p = true ∧ goodCopy copies opLINKOFF = some c) ∧
    (∃ (copies : List (BitVec 40)), goodCopy copies opLINKOFF = none) ∧
    (∃ (s : State) (rq : Requester) (p : Fin 12), linkUp s.block p = true ∧ guardOpen s.block rq = true ∧ pageResponds s.block (lnkPage p) = true) ∧
    (∃ (s : State) (rq : Requester) (p : Fin 12) (v : BitVec 32), linkUp s.block p = true ∧ guardOpen s.block rq = true ∧ pageResponds s.block (lnkPage p) = true ∧ bit v.toNat 0 = false ∧ takesAll s.block rq (lnkPage p + 0x48) = true) ∧
    (∃ (s : State) (rq : Requester) (p : Fin 12) (v : BitVec 32), trainState s.block p = 0 ∧ guardOpen s.block rq = true ∧ pageResponds s.block (lnkPage p) = true ∧ bit v.toNat 0 = true ∧ flag s.block Reg.PCI.PCI_STATUS_MODULE_RESET = false ∧ takesAll s.block rq (lnkPage p + 0x48) = true) :=
  ⟨⟨{ block := wr (upState []).block Reg.TBS.PLAN_TIME 100000000 }, 11, by decide +kernel⟩,
   ⟨upState [], 11, (BitVec.ofNat 40 (2 ^ 32 * 255) :: List.replicate 7 (BitVec.ofNat 40 (laneMsg opLINKOFF 0 0))), (BitVec.ofNat 40 (laneMsg opLINKOFF 0 0)), by decide +kernel⟩,
   ⟨List.replicate 8 (BitVec.ofNat 40 (laneMsg opADD 0 0)), by decide +kernel⟩,
   ⟨{ block := { (upState []).block with hostGuard := ⟨true, 1⟩ } }, .host, 11, by decide +kernel⟩,
   ⟨{ block := { (upState []).block with hostGuard := ⟨true, 1⟩ } }, .host, 11, 0, by decide +kernel⟩,
   ⟨{ block := { (regState [(Reg.PCI.PCI_STATUS_MODULE_RESET, 0)]).block with hostGuard := ⟨true, 1⟩ } }, .host, 11, 1, by decide +kernel⟩⟩

theorem test_witness_FlitsAreNumberedAndReplayed :
    (∃ (s : State) (p : Fin 12) (pos : Fin 16) (d : List Byte) (m : Nat), linkUp s.block p = true ∧ positionNow s.block p pos = true ∧ (6 ≤ txWidth s.block p → (positionSlot (txWidth s.block p) pos).isSome = true) ∧ (txWidth s.block p < 6 → (prt s.block p).replayQ = []) ∧ (prt s.block p).replayBuf.length < 768 ∧ inDeckleSlot s.block = false ∧ (prt s.block p).txSlot = some (d, m)) ∧
    (∃ (s : State) (p : Fin 12) (pos : Fin 16), linkUp s.block p = true ∧ 6 ≤ txWidth s.block p ∧ positionNow s.block p pos = true ∧ (positionSlot (txWidth s.block p) pos).isSome = true ∧ (prt s.block p).replayBuf.length < 768 ∧ inDeckleSlot s.block = false ∧ (prt s.block p).txSlot = none ∧ serviceHere s.block p = false) ∧
    (∃ (s : State) (p : Fin 12) (pos : Fin 16) (q : Nat) (n : Nat) (r : List Nat) (d : List Byte), linkUp s.block p = true ∧ positionNow s.block p pos = true ∧ (txWidth s.block p < 6 ∨ positionSlot (txWidth s.block p) pos = none) ∧ (prt s.block p).replayQ = q :: r ∧ ((prt s.block p).replayBuf.find? (fun e => e.1 == q) = some (n, d))) ∧
    (∃ (s : State) (p : Fin 12) (pos : Fin 16), linkUp s.block p = true ∧ positionNow s.block p pos = true ∧ (6 ≤ txWidth s.block p → (positionSlot (txWidth s.block p) pos).isSome = true) ∧ (txWidth s.block p < 6 → (prt s.block p).replayQ = []) ∧ 768 ≤ (prt s.block p).replayBuf.length) :=
  ⟨⟨withPort (upState [(Reg.LNK.TX_SEQ_NEXT (lnkPage 11), 4095)]) 11 { txSlot := some (zeros 256, 3) }, 11, 0, zeros 256, 3, by decide +kernel⟩,
   ⟨upState [(Reg.PRT.PORT_STATUS_IN_JOB (prtPage 11), 1), (Reg.PRT.PORT_STATUS_FENCED (prtPage 11), 0), (Reg.PRT.PORT_STATUS_WIDTH (prtPage 11), 8)], 11, 0, by decide +kernel⟩,
   ⟨withPort (upState [(Reg.TBS.PLAN_TIME, 1)]) 11 { replayQ := [5], replayBuf := [(5, zeros 272)] }, 11, 1, 5, 5, [], zeros 272, by decide +kernel⟩,
   ⟨withPort (upState []) 11 { replayBuf := List.replicate 768 (0, []) }, 11, 0, by decide +kernel⟩⟩

theorem test_witness_FlitsAreTakenInOrder :
    (∃ (s : State) (p : Fin 12), linkUp s.block p = true ∧ 6 ≤ rxWidth s.block p ∧ seqSub (prt s.block p).predicted (rd s.block (Reg.LNK.RX_SEQ_ACK_SENT (lnkPage p))) ≤ 768) ∧
    (∃ (s : State) (p : Fin 12) (f : List Byte) (h : Nat), linkUp s.block p = true ∧ f.length = 280 ∧ h = leNat (f.take 16) ∧ crc64 (f.take 272) = fieldLe f 272 8 ∧ bits h 120 4 = 1 ∧ bit h 2 = false) ∧
    (∃ (s : State) (p : Fin 12) (f : List Byte) (h : Nat) (q : Nat), linkUp s.block p = true ∧ 6 ≤ rxWidth s.block p ∧ f.length = 280 ∧ h = leNat (f.take 16) ∧ crc64 (f.take 272) = fieldLe f 272 8 ∧ bits h 120 4 = 1 ∧ bit h 2 = true ∧ bits h 0 2 = 0 ∧ q = bits h 4 12 ∧ q = (rd s.block (Reg.LNK.RX_SEQ_ACK_SENT (lnkPage p)) + 1) % 4096 ∧ (prt s.block p).got = []) ∧
    (∃ (s : State) (p : Fin 12) (seq : Fin 4096) (t : Nat) (n : Nat), linkUp s.block p = true ∧ ((prt s.block p).missing.find? (fun m => m.1 == seq.val) = some (seq.val, t, n)) ∧ t + retryCycle (flightOf s.block p) (rxWidth s.block p) ≤ now s.block) :=
  ⟨⟨withPort (upState [(Reg.LNK.RX_SEQ_ACK_SENT (lnkPage 11), 4095)]) 11 { predicted := 767 }, 11, by decide +kernel⟩,
   ⟨upState [(Reg.LNK.TX_SEQ_NEXT (lnkPage 11), 5), (Reg.LNK.TX_SEQ_ACKED (lnkPage 11), 0)], 11, flitOf 0x1000000000ff0000700000000030000, 0x1000000000ff0000700000000030000, by decide +kernel⟩,
   ⟨upState [(Reg.LNK.RX_SEQ_ACK_SENT (lnkPage 11), 4095)], 11, flitOf 0x1000000000000000000000000000004, 0x1000000000000000000000000000004, 0, by decide +kernel⟩,
   ⟨withPort (atTick 1000000 [(Reg.LNK.LINK_STATUS_UP (lnkPage 11), 1)]) 11 { missing := [(4095, 0, 1)] }, 11, 4095, 0, 1, by decide +kernel⟩⟩

theorem test_witness_WidthChangesAreAgreed :
    (∃ (s : State) (p : Fin 12) (copies : List (BitVec 40)) (c : BitVec 40) (m : Nat), linkUp s.block p = true ∧ goodCopy copies opDROP = some c ∧ m = bits c.toNat 4 8 ∧ ((∀ x, (prt s.block p).txPend = some x → x.acked = false)) ∧ m ≠ 0 ∧ m ≠ txMask s.block p ∧ txMask s.block p &&& m = m) ∧
    (∃ (s : State) (p : Fin 12) (copies : List (BitVec 40)) (c : BitVec 40) (m : Nat), linkUp s.block p = true ∧ goodCopy copies opADD = some c ∧ m = bits c.toNat 4 8 ∧ ((∀ x, (prt s.block p).txPend = some x → x.acked = false)) ∧ m ≠ 0 ∧ m ≠ txMask s.block p ∧ txMask s.block p &&& m = txMask s.block p) ∧
    (∃ (s : State) (p : Fin 12) (copies : List (BitVec 40)) (c : BitVec 40) (m : Nat) (q : Nat), linkUp s.block p = true ∧ goodCopy copies opCHANGE = some c ∧ m = bits c.toNat 4 8 ∧ q = bits c.toNat 12 12 ∧ m ≠ 0) ∧
    (∃ (s : State) (p : Fin 12) (copies : List (BitVec 40)) (c : BitVec 40) (m : Nat) (q : Nat), linkUp s.block p = true ∧ goodCopy copies opCHANGEACK = some c ∧ m = bits c.toNat 4 8 ∧ q = bits c.toNat 12 12 ∧ (prt s.block p).txPend = some ⟨m, q, false⟩) ∧
    (∃ (s : State) (p : Fin 12) (op : Nat) (m : Nat) (t : Nat) (w : Nat), linkUp s.block p = true ∧ (prt s.block p).reqPend = some (op, m, t) ∧ t + 1024 ≤ now s.block ∧ w = wantedMask s.block p op ∧ w ≠ 0 ∧ w ≠ rxMask s.block p) ∧
    (∃ (s : State) (p : Fin 12) (c : LaneChange), linkUp s.block p = true ∧ (prt s.block p).txPend = some c ∧ c.acked = true ∧ seqAfter (rd s.block (Reg.LNK.TX_SEQ_NEXT (lnkPage p))) c.s = true) ∧
    (∃ (s : State) (p : Fin 12) (c : LaneChange), linkUp s.block p = true ∧ (prt s.block p).rxPend = some c ∧ seqAfter (prt s.block p).predicted c.s = true) :=
  ⟨⟨upState [], 11, (BitVec.ofNat 40 (2 ^ 32 * 255) :: List.replicate 7 (BitVec.ofNat 40 (laneMsg opDROP 0x7F 0))), (BitVec.ofNat 40 (laneMsg opDROP 0x7F 0)), 0x7F, by decide +kernel⟩,
   ⟨upState [(Reg.LNK.LINK_STATUS_TX_MASK (lnkPage 11), 127), (Reg.LNK.LINK_STATUS_TX_WIDTH (lnkPage 11), 7)], 11, (BitVec.ofNat 40 (2 ^ 32 * 255) :: List.replicate 7 (BitVec.ofNat 40 (laneMsg opADD 0xFF 0))), (BitVec.ofNat 40 (laneMsg opADD 0xFF 0)), 255, by decide +kernel⟩,
   ⟨upState [], 11, (BitVec.ofNat 40 (2 ^ 32 * 255) :: List.replicate 7 (BitVec.ofNat 40 (laneMsg opCHANGE 0x3F 4095))), (BitVec.ofNat 40 (laneMsg opCHANGE 0x3F 4095)), 0x3F, 4095, by decide +kernel⟩,
   ⟨withPort (upState []) 11 { txPend := some ⟨127, 9, false⟩ }, 11, (BitVec.ofNat 40 (2 ^ 32 * 255) :: List.replicate 7 (BitVec.ofNat 40 (laneMsg opCHANGEACK 127 9))), (BitVec.ofNat 40 (laneMsg opCHANGEACK 127 9)), 127, 9, by decide +kernel⟩,
   ⟨withPort (upState [(Reg.TBS.PLAN_TIME, 1024), (Reg.LNK.LANE_STATE (lnkPage 11), 5461)]) 11 { reqPend := some (opDROP, 127, 0) }, 11, opDROP, 127, 0, 127, by decide +kernel⟩,
   ⟨withPort (upState [(Reg.LNK.TX_SEQ_NEXT (lnkPage 11), 0)]) 11 { txPend := some ⟨127, 4095, true⟩ }, 11, ⟨127, 4095, true⟩, by decide +kernel⟩,
   ⟨withPort (upState []) 11 { rxPend := some ⟨127, 4095, true⟩ }, 11, ⟨127, 4095, true⟩, by decide +kernel⟩⟩

theorem test_witness_LanesAreJudged :
    (∃ (s : State), now s.block % 2 ^ 20 = 0) ∧
    (∃ (s : State) (p : Fin 12) (l : Fin 8), linkUp s.block p = true ∧ bit (rxMask s.block p) l = true ∧ laneCode s.block p l ≠ 0) ∧
    (∃ (s : State) (rq : Requester) (p : Fin 12), linkUp s.block p = true ∧ guardOpen s.block rq = true ∧ pageResponds s.block (lnkPage p) = true) ∧
    (∃ (s : State) (p : Fin 12) (kind : Fin 4), chargedWithin s.block (9 + kind.val) p 10000000 = false) :=
  ⟨⟨upState [(Reg.LNK.LANE_STATE (lnkPage 11), 21845)], by decide +kernel⟩,
   ⟨upState [(Reg.LNK.LANE_STATE (lnkPage 11), 21845)], 11, 7, by decide +kernel⟩,
   ⟨{ block := { (upState [(Reg.LNK.LINK_STATUS_RX_MASK (lnkPage 11), 127)]).block with hostGuard := ⟨true, 1⟩ } }, .host, 11, by decide +kernel⟩,
   ⟨{}, 11, 3, by decide +kernel⟩⟩

theorem test_witness_PacketsFindTheirWay :
    (∃ (flits : List (List Byte)), flits ≠ [] ∧ ((∀ f ∈ flits, f.length = 256)) ∧ (headerOk flits.flatten = false ∨ hFlits flits.flatten ≠ flits.length)) ∧
    (∃ (s : State) (src : Option (Fin 12)) (flits : List (List Byte)), flits ≠ [] ∧ ((∀ f ∈ flits, f.length = 256)) ∧ headerOk flits.flatten = true ∧ hFlits flits.flatten = flits.length ∧ hResponse flits.flatten = false ∧ (hCoord flits.flatten = true → hOpcode flits.flatten = svMCTP) ∧ mustWait s.block src flits.flatten = false) ∧
    (∃ (s : State) (src : Option (Fin 12)) (flits : List (List Byte)), flits ≠ [] ∧ ((∀ f ∈ flits, f.length = 256)) ∧ headerOk flits.flatten = true ∧ hFlits flits.flatten = flits.length ∧ mustWait s.block src flits.flatten = true) ∧
    (∃ (s : State) (p : Fin 12) (h : List Byte) (d : List Byte) (e : OutEntry), h.length = 48 ∧ d.length = hLength h ∧ hResponse h = true ∧ ((prt s.block p).outstanding.find? (fun e => e.token == hToken h) = some e)) ∧
    (∃ (s : State) (token : BitVec 32) (r : Pending), (s.block.ni.requests.find? (fun r => r.token == token.toNat && r.done == none) = some r) ∧ r.since + 1000 * rd s.block Reg.NI.NI_REQ_TIMEOUT ≤ now s.block) ∧
    (∃ (s : State) (p : Fin 12) (token : BitVec 32) (e : OutEntry), ((prt s.block p).outstanding.find? (fun e => e.token == token.toNat) = some e) ∧ e.since + 2000000 ≤ now s.block) :=
  ⟨⟨[zeros 256], by decide +kernel⟩,
   ⟨{ block := { (regState [(Reg.NI.NI_RT_LEN, 1)]).block with ni := { members0 := [0] }, store := { (regState [(Reg.NI.NI_RT_LEN, 1)]).block.store with rank := Memory.writeN [] 0 (natLe 4 (2^18)) } } }, some 11, [mkHeader 0 0 0 8 1 5 0 0 0 32 0 0 ++ zeros 208], by decide +kernel⟩,
   ⟨withPort (withPort { block := withRegs [(Reg.LNK.LINK_STATUS_UP (lnkPage 10), 1), (Reg.LNK.LINK_STATUS_TX_WIDTH (lnkPage 10), 8)] (upState []).block } 11 { outstanding := [⟨5, some 10, 0, []⟩] }) 10 { txVc := [(4, List.replicate 256 ⟨none, true, []⟩)] }, some 11, [mkHeader 0 0 0 4 1 5 0 0 0 0 0 0 ++ zeros 208], by decide +kernel⟩,
   ⟨withPort (upState []) 11 { outstanding := [⟨5, some 11, 0, []⟩] }, 11, mkHeader 0 0 0 4 1 5 0 0 0 32 0 0, zeros 32, ⟨5, some 11, 0, []⟩, by decide +kernel⟩,
   ⟨{ block := { (atTick 100000000 []).block with ni := { requests := [⟨5, 0, 1, none, []⟩] } } }, 5, ⟨5, 0, 1, none, []⟩, by decide +kernel⟩,
   ⟨withPort (atTick 2000000 []) 11 { outstanding := [⟨5, none, 0, []⟩] }, 11, 5, ⟨5, none, 0, []⟩, by decide +kernel⟩⟩

theorem test_witness_RequestsAreExecutedOnce :
    (∃ (s : State) (p : Fin 12) (h : List Byte), h.length = 48 ∧ hCoord h = false ∧ linkUp s.block p = true ∧ mapped s.block = false ∧ s.block.side = [] ∧ ((∀ x ∈ s.block.units, x.2.readback = [])) ∧ 32 ≤ hLength h ∧ hLength h ≤ 2048 ∧ hLength h % 32 = 0 ∧ devIn s.block (hAddr h) (hLength h) = true ∧ badBlocks s.block (hAddr h) (ceilDiv (hAddr h % 64 + hLength h) 64) = []) ∧
    (∃ (s : State) (p : Fin 12) (h : List Byte) (k : Nat) (got : List SideFlit), h.length = 48 ∧ hCoord h = false ∧ linkUp s.block p = true ∧ mapped s.block = true ∧ Tab.get s.block.sideWait 0 (2 ^ 40 + hToken h) = k + 1 ∧ (got = s.block.sideIn.filter (fun f => f.tag == 2 ^ 40 + hToken h)) ∧ k ≤ got.length ∧ 32 ≤ hLength h ∧ hLength h ≤ 2048 ∧ hLength h % 32 = 0 ∧ devIn s.block (hAddr h) (hLength h) = true ∧ badBlocks s.block (hAddr h) (ceilDiv (hAddr h % 64 + hLength h) 64) = []) ∧
    (∃ (s : State) (p : Fin 12) (h : List Byte), h.length = 48 ∧ hCoord h = false ∧ linkUp s.block p = true ∧ devIn s.block (hAddr h) (hLength h) = false) ∧
    (∃ (s : State) (p : Fin 12) (h : List Byte) (d : List Byte), h.length = 48 ∧ d.length = hLength h ∧ hCoord h = false ∧ linkUp s.block p = true ∧ recentOf s.block (hToken h) = none ∧ recentFull s.block = false ∧ inWindow s.block (hAddr h) d.length = true ∧ (remoteAccess s.block true (hAddr h) d.length (hToken h) d).2.isSome = true) ∧
    (∃ (s : State) (p : Fin 12) (h : List Byte) (d : List Byte) (r : Recent), h.length = 48 ∧ d.length = hLength h ∧ hCoord h = false ∧ linkUp s.block p = true ∧ recentOf s.block (hToken h) = some r) ∧
    (∃ (s : State) (p : Fin 12) (h : List Byte) (d : List Byte), h.length = 48 ∧ d.length = hLength h ∧ hCoord h = false ∧ linkUp s.block p = true ∧ recentOf s.block (hToken h) = none ∧ recentFull s.block = false ∧ flag s.block Reg.PCI.MBX_CTRL_ENABLE = true ∧ dist32 (rd s.block Reg.PCI.MBX_WRITTEN) (rd s.block Reg.PCI.MBX_CONSUMED) < 16) ∧
    (∃ (s : State) (p : Fin 12) (h : List Byte), h.length = 48 ∧ hCoord h = false ∧ linkUp s.block p = true ∧ hAddr h % 16 < 12) ∧
    (∃ (s : State) (d : List Byte), mctpOf s.block d = none) ∧
    (∃ (s : State) (d : List Byte), mctpOf s.block d = none) ∧
    (∃ (s : State) (p : Fin 12) (d : List Byte) (pkt : List Byte), mctpOf s.block d = some (some p, pkt) ∧ linkUp s.block p = true ∧ recentOf s.block (hToken (pkt.take 48)) = none ∧ recentFull s.block = false ∧ d.length ≤ 1028 ∧ (sess s.block (fieldLe d 5 4 % 16)).opened = true) ∧
    (∃ (s : State) (p : Fin 12) (d : List Byte) (pkt : List Byte) (r : Recent), mctpOf s.block d = some (some p, pkt) ∧ linkUp s.block p = true ∧ recentOf s.block (hToken (pkt.take 48)) = some r) :=
  ⟨⟨upState [], 11, mkHeader 0 0 0 8 1 5 0 0 0 2048 0 0, by decide +kernel⟩,
   ⟨{ block := { withRegs [(Reg.LNK.LINK_STATUS_UP (lnkPage 11), 1)] (jobBlock 0 []) with sideWait := [(2 ^ 40 + 5, 2)], sideIn := [⟨8796093022208, 32, zeros 32, 2 ^ 40 + 5, false, true, true⟩] } }, 11, mkHeader 0 0 0 8 1 5 0 0 8796093022208 32 0 0, 1, [⟨8796093022208, 32, zeros 32, 2 ^ 40 + 5, false, true, true⟩], by decide +kernel⟩,
   ⟨upState [], 11, mkHeader 0 0 0 8 1 5 0 0 6597069766656 32 0 0, by decide +kernel⟩,
   ⟨{ block := { (withRegs [(Reg.LNK.LINK_STATUS_UP (lnkPage 11), 1), (Reg.DDR.DIMM_STATUS_CAP (ddrPage 3), 1)] (jobBlock 0 [])) with plan := { (jobBlock 0 []).plan with ream := some { ranges := [⟨7, 0, 0, 0x1C000000000, 2208⟩] } }, sideWait := [(2 ^ 40 + 5, 1)] } }, 11, mkHeader 0 0 0 0 2 5 0 0 1924145348608 2208 0 0, zeros 2208, by decide +kernel⟩,
   ⟨{ block := { (upState []).block with ni := { recent := [⟨5, 0, [4]⟩] } } }, 11, mkHeader 0 0 0 0 2 5 0 0 0 32 0 0, zeros 32, ⟨5, 0, [4]⟩, by decide +kernel⟩,
   ⟨upState [(Reg.PCI.MBX_CTRL_ENABLE, 1), (Reg.PCI.MBX_WRITTEN, 4294967295), (Reg.PCI.MBX_CONSUMED, 4294967280)], 11, mkHeader 0 0 0 0 3 5 0 0 0 32 0 0, zeros 32, by decide +kernel⟩,
   ⟨upState [], 11, mkHeader 0 0 0 8 4 5 0 0 11 0 0 0, by decide +kernel⟩,
   ⟨regState [(Reg.NI.SESSIONS, 1)], zeros 1028, by decide +kernel⟩,
   ⟨{}, [], by decide +kernel⟩,
   ⟨{ block := { (upState []).block with mgmt := { sessions := [(0, ⟨true, 0, 1, 1, 0⟩)] }, ni := { inbox := [(some 11, (mkHeader 0 0 0 8 svMCTP 5 0 0 0 12 0 0 ++ zeros 208))] } } }, 11, zeros 12, (mkHeader 0 0 0 8 svMCTP 5 0 0 0 12 0 0 ++ zeros 208), by decide +kernel⟩,
   ⟨{ block := { (upState []).block with ni := { inbox := [(some 11, (mkHeader 0 0 0 8 svMCTP 5 0 0 0 12 0 0 ++ zeros 208))], recent := [⟨5, 0, [4]⟩] } } }, 11, zeros 12, (mkHeader 0 0 0 8 svMCTP 5 0 0 0 12 0 0 ++ zeros 208), ⟨5, 0, [4]⟩, by decide +kernel⟩⟩

theorem test_witness_RankTablesFlipAndWindowsAreCounted :
    (∃ (s : State), pageResponds s.block niPg = true ∧ tableOk s.block (1 - activeTable s.block) = true) ∧
    (∃ (s : State), pageResponds s.block niPg = true ∧ tableOk s.block (1 - activeTable s.block) = false) ∧
    (∃ (s : State) (rq : Requester), pageResponds s.block niPg = true ∧ guardOpen s.block rq = true ∧ flag s.block Reg.NI.NI_TABLE_READY = true) ∧
    (∃ (s : State), flag s.block Reg.NI.NI_TABLE_TAIL = true ∧ s.block.ni.tailEnd ≤ now s.block) ∧
    (∃ (s : State) (p : Fin 12), ((prt s.block p).winStart / 2 ^ (prt s.block p).winLog2 + 1) * 2 ^ (prt s.block p).winLog2 ≤ now s.block) :=
  ⟨⟨{ block := { (regState [(Reg.NI.NI_RT_LEN, 1), (Reg.GLB.COORD_HI_RING_X, 4), (Reg.GLB.COORD_HI_RING_Y, 4), (Reg.GLB.COORD_HI_RING_Z, 4), (Reg.NI.NI_RT_REF, crc32c (natLe 4 (2^18)))]).block with store := { (regState [(Reg.NI.NI_RT_LEN, 1), (Reg.GLB.COORD_HI_RING_X, 4), (Reg.GLB.COORD_HI_RING_Y, 4), (Reg.GLB.COORD_HI_RING_Z, 4), (Reg.NI.NI_RT_REF, crc32c (natLe 4 (2^18)))]).block.store with rank := Memory.writeN [] 0x40000 (natLe 4 (2^18)) } } }, by decide +kernel⟩,
   ⟨{}, by decide +kernel⟩,
   ⟨openState [(Reg.NI.NI_TABLE_READY, 1)], .host, by decide +kernel⟩,
   ⟨regState [(Reg.NI.NI_TABLE_TAIL, 1)], by decide +kernel⟩,
   ⟨withPort (atTick 1048576 []) 11 { counts := [(11, 4294967296)] }, 11, by decide +kernel⟩⟩

theorem test_witness_SessionsAndKeysAreManaged :
    (∃ (s : State) (i : Nat), ((List.range 16).find? (fun i => !(sess s.block i).opened) = some i)) ∧
    (∃ (s : State), ((List.range 16).find? (fun i => !(sess s.block i).opened) = none) ∧ s.block.mgmt.askers = []) ∧
    (∃ (s : State), s.block.mgmt.askers = []) ∧
    (∃ (s : State), s.block.mgmt.askers = []) ∧
    (∃ (s : State), s.block.mgmt.askers = []) ∧
    (∃ (s : State) (c : Instr) (nonce : List Byte) (a : Nat) (l : List Nat), s.block.mgmt.askers = a :: l ∧ (c = .getCertificate ∨ c = .challenge nonce ∨ c = .getMeasurements nonce)) ∧
    (∃ (s : State) (i : Fin 16), (sess s.block i).opened = true) ∧
    (∃ (s : State) (i : Fin 16) (x : Session), (sess s.block i).opened = true ∧ x = renewed { sess s.block i with heard := s.block.mgmt.clock, records := (sess s.block i).records + 1 }) ∧
    (∃ (s : State) (i : Fin 16), (sess s.block i).opened = true ∧ (sess s.block i).heard + 90000000000 ≤ s.block.mgmt.clock) ∧
    (∃ (s : State) (m : SignedMsg), firmwareUp s.block = true ∧ rd s.block Reg.NI.SESSIONS ≠ 0 ∧ operatorSigned s.block m = true ∧ m.body.length = 388) ∧
    (∃ (s : State) (m : SignedMsg), firmwareUp s.block = true ∧ rd s.block Reg.NI.SESSIONS ≠ 0 ∧ operatorSigned s.block m = true) ∧
    (∃ (s : State) (key : List Byte), firmwareUp s.block = true ∧ key.length = 388 ∧ s.block.mgmt.rootKey = []) ∧
    (∃ (s : State) (i : Fin 16), inSession s.block i = true) ∧
    (∃ (s : State) (i : Fin 16) (v : BitVec 8), inSession s.block i = true ∧ (v = 0xA1 ∨ (v = 0xB0 ∧ rd s.block Reg.MGT.BEHAVIOUR_PHYSICAL = 0xB0))) ∧
    (∃ (s : State) (rq : Requester) (v : BitVec 32), guardOpen s.block rq = true ∧ (bits v.toNat 8 8 = 0xA1 ∨ (bits v.toNat 8 8 = 0xB0 ∧ rd s.block Reg.MGT.BEHAVIOUR_PHYSICAL = 0xB0)) ∧ takesAll s.block rq (0x5080) = true) :=
  ⟨⟨{ block := { (regState []).block with mgmt := { sessions := (List.range 15).map (fun i => (i, ⟨true, 0, 1, 1, 0⟩)) } } }, 15, by decide +kernel⟩,
   ⟨{ block := { (regState []).block with mgmt := { sessions := (List.range 16).map (fun i => (i, ⟨true, 0, 1, 1, 0⟩)) } } }, by decide +kernel⟩,
   ⟨{}, by decide +kernel⟩,
   ⟨{}, by decide +kernel⟩,
   ⟨{}, by decide +kernel⟩,
   ⟨{ block := { (regState []).block with mgmt := { askers := [5] } } }, .getCertificate, [], 5, [], by decide +kernel, Or.inl rfl⟩,
   ⟨{ block := { (regState []).block with mgmt := { sessions := [(15, ⟨true, 0, 1, 1, 0⟩)] } } }, 15, by decide +kernel⟩,
   ⟨({ block := { (regState []).block with mgmt := { sessions := [(15, ⟨true, 0, 1, 1, 0⟩)] } } } : State), 15, renewed { sess ({ block := { (regState []).block with mgmt := { sessions := [(15, ⟨true, 0, 1, 1, 0⟩)] } } } : State).block 15 with heard := ({ block := { (regState []).block with mgmt := { sessions := [(15, ⟨true, 0, 1, 1, 0⟩)] } } } : State).block.mgmt.clock, records := (sess ({ block := { (regState []).block with mgmt := { sessions := [(15, ⟨true, 0, 1, 1, 0⟩)] } } } : State).block 15).records + 1 }, by decide +kernel⟩,
   ⟨{ block := { (regState []).block with mgmt := { sessions := [(15, ⟨true, 0, 1, 1, 0⟩)], clock := 90000000000 } } }, 15, by decide +kernel⟩,
   ⟨{ block := { (regState [(Reg.NI.SESSIONS, 1)]).block with mgmt := { stage := 3, modReset := false, rootKey := rootK, sessions := [(15, ⟨true, 0, 1, 1, 0⟩)] } } }, signedZeros, by decide +kernel⟩,
   ⟨{ block := { (regState [(Reg.NI.SESSIONS, 1)]).block with mgmt := { stage := 3, modReset := false, rootKey := rootK, sessions := [(15, ⟨true, 0, 1, 1, 0⟩)] } } }, signedZeros, by decide +kernel⟩,
   ⟨{ block := { (regState []).block with mgmt := { stage := 3 } } }, zeros 388, by decide +kernel⟩,
   ⟨{ block := { (regState []).block with mgmt := { stage := 3, modReset := false, rootKey := rootK, sessions := [(15, ⟨true, 0, 1, 1, 0⟩)] } } }, 15, by decide +kernel⟩,
   ⟨{ block := { (regState [(Reg.MGT.BEHAVIOUR_PHYSICAL, 0xB0)]).block with mgmt := { stage := 3, modReset := false, rootKey := rootK, sessions := [(15, ⟨true, 0, 1, 1, 0⟩)] } } }, 15, 0xB0, by decide +kernel⟩,
   ⟨openState [(Reg.MGT.BEHAVIOUR_PHYSICAL, 0xB0)], .host, 0xB000, by decide +kernel⟩⟩

theorem test_witness_FirmwareIsUpdated :
    (∃ (s : State) (i : Fin 16) (m : SignedMsg) (c : Fin 65536), firmwareUp s.block = true ∧ s.block.mgmt.romMinimal = false ∧ inSession s.block i = true ∧ operatorSigned s.block m = true ∧ (c.val = 1 ∨ c.val = 2 ∨ c.val = 3) ∧ s.block.mgmt.update = none) ∧
    (∃ (s : State) (via : Bool) (off : Nat) (d : List Byte) (u : Update), s.block.mgmt.update = some u ∧ u.verified = false ∧ d ≠ [] ∧ d.length ≤ (if via then 512 else 960) ∧ off + d.length ≤ (updBase u.component u.slot).2) ∧
    (∃ (d : List Byte), 512 < d.length) ∧
    (∃ (s : State) (u : Update) (img : List Byte), s.block.mgmt.update = some u ∧ img = flashRead s.block (updBase u.component u.slot).1 u.received) ∧
    (∃ (s : State) (i : Fin 16) (m : SignedMsg) (u : Update), s.block.mgmt.update = some u ∧ u.verified = true ∧ s.block.mgmt.stage ≠ 4 ∧ inSession s.block i = true ∧ operatorSigned s.block m = true) ∧
    (∃ (s : State) (i : Fin 16), inSession s.block i = true ∧ inJob s.block = false) :=
  ⟨⟨{ block := { (regState []).block with mgmt := { stage := 3, modReset := false, rootKey := rootK, sessions := [(15, ⟨true, 0, 1, 1, 0⟩)] } } }, 15, signedZeros, 3, by decide +kernel⟩,
   ⟨{ block := { (regState []).block with mgmt := { update := some ⟨2, 1, 0, false⟩, stage := 3, modReset := false, rootKey := rootK, sessions := [(15, ⟨true, 0, 1, 1, 0⟩)] } } }, false, 0, List.replicate 960 7, ⟨2, 1, 0, false⟩, by decide +kernel⟩,
   ⟨List.replicate 513 7, by decide +kernel⟩,
   ⟨{ block := { (regState []).block with mgmt := { update := some ⟨2, 1, 16, false⟩, stage := 3, modReset := false, rootKey := rootK, sessions := [(15, ⟨true, 0, 1, 1, 0⟩)] } } }, ⟨2, 1, 16, false⟩, flashRead {} (updBase 2 1).1 16, by decide +kernel⟩,
   ⟨{ block := { (regState []).block with mgmt := { update := some ⟨1, 1, 16, true⟩, stage := 3, modReset := false, rootKey := rootK, sessions := [(15, ⟨true, 0, 1, 1, 0⟩)] } } }, 15, signedZeros, ⟨1, 1, 16, true⟩, by decide +kernel⟩,
   ⟨{ block := { (regState []).block with mgmt := { stage := 3, modReset := false, rootKey := rootK, sessions := [(15, ⟨true, 0, 1, 1, 0⟩)] } } }, 15, by decide +kernel⟩⟩

theorem test_witness_HealthSensorsAndLogAreShown :
    (∃ (s : State), firmwareUp s.block = true) ∧
    (∃ (s : State) (rq : Requester), guardOpen s.block rq = true ∧ inJob s.block = false ∧ s.block.mgmt.stage = 3 ∧ s.block.mgmt.modReset = false ∧ flag s.block Reg.MGT.MGT_STATUS_SELFTEST_RUNNING = false) ∧
    (∃ (s : State), flag s.block Reg.MGT.MGT_STATUS_SELFTEST_RUNNING = true) ∧
    (∃ (s : State), firmwareUp s.block = true) ∧
    (∃ (s : State), firmwareUp s.block = true) ∧
    (∃ (s : State) (rq : Requester) (v : BitVec 32), 1 ≤ dist32 (rd s.block Reg.MGT.LOG_WRITTEN) v.toNat ∧ dist32 (rd s.block Reg.MGT.LOG_WRITTEN) v.toNat ≤ dist32 (rd s.block Reg.MGT.LOG_WRITTEN) (rd s.block Reg.MGT.LOG_OLDEST) ∧ takesAll s.block rq (0x508C) = true) :=
  ⟨⟨{ block := { (regState [(Reg.MGT.HEALTH_THRESHOLD, 700)]).block with mgmt := { stage := 3, events := List.replicate 10 ⟨1, 100, 0, 0⟩ } } }, by decide +kernel⟩,
   ⟨{ block := { (regState []).block with mgmt := { stage := 3, modReset := false }, hostGuard := ⟨true, 1⟩ } }, .host, by decide +kernel⟩,
   ⟨{ block := { (regState [(Reg.MGT.MGT_STATUS_SELFTEST_RUNNING, 1)]).block with mgmt := { stage := 3 } } }, by decide +kernel⟩,
   ⟨{ block := { (regState []).block with mgmt := { stage := 3 } } }, by decide +kernel⟩,
   ⟨{ block := { (regState []).block with mgmt := { stage := 3 } } }, by decide +kernel⟩,
   ⟨regState [(Reg.MGT.LOG_WRITTEN, 5), (Reg.MGT.LOG_OLDEST, 4294967295)], .host, 4294967295, by decide +kernel⟩⟩

theorem test_witness_TheModuleBoots :
    (∃ (s : State) (svn : Fin 256), s.block.mgmt.stage = 0 ∧ s.block.mgmt.pinsLow.contains 0 = false ∧ rd s.block Reg.MGT.SVN_FLOOR ≤ svn) ∧
    (∃ (s : State) (svn : Fin 256), s.block.mgmt.stage = 0 ∧ s.block.mgmt.pinsLow.contains 0 = false ∧ rd s.block Reg.MGT.SVN_FLOOR ≤ svn) ∧
    (∃ (s : State), s.block.mgmt.stage = 0 ∧ s.block.mgmt.pinsLow.contains 0 = false) ∧
    (∃ (s : State) (svn : Fin 256), s.block.mgmt.stage = 1 ∧ rd s.block Reg.MGT.BOOT_FAILS_CONSECUTIVE < 3 ∧ rd s.block Reg.MGT.SVN_FLOOR ≤ svn) ∧
    (∃ (s : State), s.block.mgmt.stage = 1 ∧ rd s.block Reg.MGT.BOOT_FAILS_CONSECUTIVE < 3) ∧
    (∃ (s : State), s.block.mgmt.stage = 1 ∧ 3 ≤ rd s.block Reg.MGT.BOOT_FAILS_CONSECUTIVE) ∧
    (∃ (s : State), s.block.mgmt.stage = 2 ∧ s.block.mgmt.modReset = false ∧ s.block.mgmt.calOk = true ∧ flag s.block Reg.HARV.HARVEST_SRC_SIG_OK = true ∧ flag s.block Reg.HARV.HARVEST_SRC_BIST_OK = true ∧ flag s.block Reg.PCI.PCI_STATUS_MGT_READY = true) ∧
    (∃ (s : State) (st : Fin 3), s.block.mgmt.stage = st ∧ s.block.mgmt.pinsLow.contains 0 = false ∧ s.block.mgmt.since + stageLimit st ≤ s.block.mgmt.clock) ∧
    (∃ (s : State) (rq : Requester), guardOpen s.block rq = true ∧ flag s.block Reg.MGT.MGT_STATUS_MINIMAL = true ∧ s.block.mgmt.stage = 4) :=
  ⟨⟨{}, 255, by decide +kernel⟩,
   ⟨{}, 255, by decide +kernel⟩,
   ⟨{}, by decide +kernel⟩,
   ⟨{ block := { (regState []).block with mgmt := { stage := 1 } } }, 255, by decide +kernel⟩,
   ⟨{ block := { (regState [(Reg.MGT.BOOT_FAILS_CONSECUTIVE, 2)]).block with mgmt := { stage := 1 } } }, by decide +kernel⟩,
   ⟨{ block := { (regState [(Reg.MGT.BOOT_FAILS_CONSECUTIVE, 3)]).block with mgmt := { stage := 1 } } }, by decide +kernel⟩,
   ⟨{ block := { (regState [(Reg.HARV.HARVEST_SRC_SIG_OK, 1), (Reg.HARV.HARVEST_SRC_BIST_OK, 1), (Reg.PCI.PCI_STATUS_MGT_READY, 1)]).block with mgmt := { stage := 2, modReset := false, calOk := true } } }, by decide +kernel⟩,
   ⟨{ block := { (regState []).block with mgmt := { stage := 2, clock := 1000000000000 } } }, 2, by decide +kernel⟩,
   ⟨{ block := { (regState [(Reg.MGT.MGT_STATUS_MINIMAL, 1)]).block with mgmt := { stage := 4 }, hostGuard := ⟨true, 1⟩ } }, .host, by decide +kernel⟩⟩

theorem test_witness_StepsAreTakenBuiltAndLate :
    (∃ (s : State) (avail : Nat), serves s.block ∧ flag s.block Reg.SES.SES_STATUS_LEAD = true ∧ stepStart s.block (sheet s.block + 2) = true ∧ s.block.plan.stepHdr = [] ∧ s.block.plan.sheetStart + rd s.block Reg.SES.CUTOFF ≤ sched s.block ∧ (s.block.serv.taken.any (fun x => x.1 == stepNumber s.block (sheet s.block + 2)) = false) ∧ s.block.plan.inQuantum = false ∧ avail = dist32 (stagingNum s.block 0 4) (rd s.block Reg.SES.STEP_TAKEN)) ∧
    (∃ (s : State) (step : Nat), serves s.block ∧ s.block.serv.building = true ∧ step = stepNumber s.block (sheet s.block + 1)) ∧
    (∃ (s : State), inJob s.block = true ∧ jobState s.block = 3 ∧ s.block.plan.halted = false ∧ (ream s.block).mode ≠ 0 ∧ stepStart s.block (sheet s.block + 1) = true ∧ s.block.plan.sheetStart + rd s.block Reg.SES.BUILD ≤ sched s.block ∧ s.block.serv.building = true) :=
  ⟨⟨{ block := { servBlock 4000 [(Reg.SES.SES_STATUS_LEAD, 1), (Reg.SES.CUTOFF, 4000)] with store := { (servBlock 4000 [(Reg.SES.SES_STATUS_LEAD, 1), (Reg.SES.CUTOFF, 4000)]).store with staging := Memory.writeN [] 0 (natLe 4 4096) } } }, 4096, by unfold serves; decide +kernel⟩,
   ⟨{ block := { servBlock 0 [(Reg.TBS.SHEET_NUM, 2)] with serv := { building := true } } }, 1, by unfold serves; decide +kernel⟩,
   ⟨{ block := { servBlock 4000 [(Reg.SES.BUILD, 4000), (Reg.TBS.SHEET_NUM, 2)] with serv := { building := true, bankReady := [1] } } }, by decide +kernel⟩⟩

theorem test_witness_PagesMoveAndResultsGoOut :
    (∃ (s : State) (u : MemUnit) (m : Move) (r : List Move), (unit s.block (unitNum u)).kv = m :: r ∧ m.kind = 2 ∧ m.len = 0 ∧ m.bad = false ∧ seState s.block (bits m.tag 0 20) = seACTIVE ∧ copyApart s.block m) ∧
    (∃ (s : State) (u : MemUnit) (m : Move) (r : List Move), (unit s.block (unitNum u)).kv = m :: r ∧ m.kind = 3 ∧ m.len = 0 ∧ pageState s.block (bits m.tag 28 1) (bits m.tag 0 28) = pgQUARANTINE ∧ (unitOf s.block (pageRecAddr s.block (bits m.tag 28 1) (bits m.tag 0 28))).isSome = true) ∧
    (∃ (s : State) (u : MemUnit) (m : Move) (r : List Move), (unit s.block (unitNum u)).kv = m :: r ∧ m.kind = 3 ∧ m.len = 0 ∧ pageState s.block (bits m.tag 28 1) (bits m.tag 0 28) = pgQUARANTINE) ∧
    (∃ (s : State) (r : Result) (rest : List Result), s.block.serv.results = r :: rest ∧ rd s.block Reg.SES.RING_ENTRIES ≠ 0 ∧ dist32 s.block.serv.written (rd s.block Reg.SES.RING_CONSUMED) < rd s.block Reg.SES.RING_ENTRIES ∧ (resultsAcross s.block (resultsUnit s.block) (2 ^ 42 + r.step) (resultBody s.block r).length).2 = true) ∧
    (∃ (s : State) (r : Result) (rest : List Result) (u : Nat), s.block.serv.results = r :: rest ∧ rd s.block Reg.SES.RING_ENTRIES ≠ 0 ∧ dist32 s.block.serv.written (rd s.block Reg.SES.RING_CONSUMED) < rd s.block Reg.SES.RING_ENTRIES ∧ inJob s.block = true ∧ jobState s.block < 5 ∧ u = resultsUnit s.block ∧ (unit s.block u).hostq.length < 256 ∧ ((unit s.block u).hostq.find? (fun m => m.tag == 2 ^ 42 + r.step && m.kind == 9) = none)) ∧
    (∃ (s : State) (rq : Requester), pageResponds s.block sesPg = true ∧ takesAll s.block rq (Reg.SES.RING_ENTRIES.addr) = true) :=
  ⟨⟨withUnit { block := { (regState [(Reg.SES.TABLE_BASE, 0x100000), (Reg.SES.SESSIONS, 16), (Reg.HBM.POOL_PAGES (hbmPage 0), 1), (Reg.HBM.QUOTA_BASE (hbmPage 0), 0x200000), (Reg.DDR.POOL_PAGES (ddrPage 0), 1), (Reg.DDR.DIMM_STATUS_CAP (ddrPage 0), 1)]).block with store := { (regState [(Reg.SES.TABLE_BASE, 0x100000), (Reg.SES.SESSIONS, 16), (Reg.HBM.POOL_PAGES (hbmPage 0), 1), (Reg.HBM.QUOTA_BASE (hbmPage 0), 0x200000), (Reg.DDR.POOL_PAGES (ddrPage 0), 1), (Reg.DDR.DIMM_STATUS_CAP (ddrPage 0), 1)]).block.store with dev := Memory.writeN [] 0x100000 [1] } } } 12 { kv := [⟨2, 0x10000000000, 0, 2 ^ 76, false, [9], [], 0⟩] }, .ddr 0, ⟨2, 0x10000000000, 0, 2 ^ 76, false, [9], [], 0⟩, [], by unfold copyApart; decide +kernel⟩,
   ⟨withUnit { block := { (regState [(Reg.SES.TABLE_BASE, 0x100000), (Reg.SES.SESSIONS, 16), (Reg.HBM.POOL_PAGES (hbmPage 0), 1), (Reg.HBM.QUOTA_BASE (hbmPage 0), 0x200000), (Reg.DDR.POOL_PAGES (ddrPage 0), 1), (Reg.DDR.DIMM_STATUS_CAP (ddrPage 0), 1)]).block with store := { (regState [(Reg.SES.TABLE_BASE, 0x100000), (Reg.SES.SESSIONS, 16), (Reg.HBM.POOL_PAGES (hbmPage 0), 1), (Reg.HBM.QUOTA_BASE (hbmPage 0), 0x200000), (Reg.DDR.POOL_PAGES (ddrPage 0), 1), (Reg.DDR.DIMM_STATUS_CAP (ddrPage 0), 1)]).block.store with dev := Memory.writeN [] 0x210008 [4] } } } 12 { kv := [⟨3, 0x10000000000, 0, 2 ^ 28, false, [], [], 0⟩] }, .ddr 0, ⟨3, 0x10000000000, 0, 2 ^ 28, false, [], [], 0⟩, [], by decide +kernel⟩,
   ⟨withUnit { block := { (regState [(Reg.SES.TABLE_BASE, 0x100000), (Reg.SES.SESSIONS, 16), (Reg.HBM.POOL_PAGES (hbmPage 0), 1), (Reg.HBM.QUOTA_BASE (hbmPage 0), 0x200000), (Reg.DDR.POOL_PAGES (ddrPage 0), 1), (Reg.DDR.DIMM_STATUS_CAP (ddrPage 0), 1)]).block with store := { (regState [(Reg.SES.TABLE_BASE, 0x100000), (Reg.SES.SESSIONS, 16), (Reg.HBM.POOL_PAGES (hbmPage 0), 1), (Reg.HBM.QUOTA_BASE (hbmPage 0), 0x200000), (Reg.DDR.POOL_PAGES (ddrPage 0), 1), (Reg.DDR.DIMM_STATUS_CAP (ddrPage 0), 1)]).block.store with dev := Memory.writeN [] 0x210008 [4] } } } 12 { kv := [⟨3, 0x10000000000, 0, 2 ^ 28, false, [], [], 0⟩] }, .ddr 0, ⟨3, 0x10000000000, 0, 2 ^ 28, false, [], [], 0⟩, [], by decide +kernel⟩,
   ⟨{ block := { (regState [(Reg.SES.RING_ENTRIES, 1)]).block with serv := { results := [⟨0, [], [], none⟩] } } }, ⟨0, [], [], none⟩, [], by decide +kernel⟩,
   ⟨{ block := { withRegs [(Reg.SES.RING_ENTRIES, 1)] (jobBlock 0 []) with serv := { results := [⟨0, [], [], none⟩] } } }, ⟨0, [], [], none⟩, [], 0, by decide +kernel⟩,
   ⟨{}, .host, by decide +kernel⟩⟩

theorem test_witness_IntakeRunsFromManifestToLastChunk :
    (∃ (s : State) (rq : Requester) (d : Fin 4), guardOpen s.block rq = true ∧ pageResponds s.block hdbPg = true ∧ intakeBusy s.block = false ∧ wsState s.block d = wsEMPTY ∧ ((openKind s.block = 0 → ∀ i : Fin 4, i ≠ d → wsState s.block i = wsEMPTY ∨ wsSet s.block i ≠ wsSet s.block d))) ∧
    (∃ (s : State) (h : List Byte) (m : List Byte), intakeState s.block = 1 ∧ s.block.hdb.aborting = false ∧ intakePaused s.block = false ∧ s.block.hdb.copying = false ∧ mapped s.block = false ∧ h = hostRead s.block (rd s.block Reg.HDB.MAN_ADDR) 0x100 ∧ manBaseOk s.block (rd s.block Reg.HDB.MAN_BASE) = true ∧ manHeaderOk h = true ∧ m = hostRead s.block (rd s.block Reg.HDB.MAN_ADDR) (manLen (manChunks h))) ∧
    (∃ (s : State) (h : List Byte) (m : List Byte) (u : Nat), intakeState s.block = 1 ∧ s.block.hdb.aborting = false ∧ intakePaused s.block = false ∧ s.block.hdb.copying = false ∧ mapped s.block = true ∧ manBaseOk s.block (rd s.block Reg.HDB.MAN_BASE) = true ∧ h = hostRead s.block (rd s.block Reg.HDB.MAN_ADDR) 0x100 ∧ manHeaderOk h = true ∧ m = hostRead s.block (rd s.block Reg.HDB.MAN_ADDR) (manLen (manChunks h)) ∧ u = rd s.block Reg.HDB.MAN_BASE / 0x1000000000) ∧
    (∃ (s : State) (h : List Byte) (m : List Byte), intakeState s.block = 1 ∧ s.block.hdb.aborting = false ∧ intakePaused s.block = false ∧ s.block.hdb.copying = true ∧ queuedChunks s.block = [] ∧ h = devRead s.block (rd s.block Reg.HDB.MAN_BASE) 0x100 ∧ m = devRead s.block (rd s.block Reg.HDB.MAN_BASE) (manLen (manChunks h))) ∧
    (∃ (s : State) (e : Entry) (stored : List Byte) (d : List Byte) (o : List Byte) (a : Nat) (ea : Nat), intakeState s.block = 2 ∧ intakePaused s.block = false ∧ s.block.hdb.aborting = false ∧ s.block.hdb.next < s.block.hdb.chunks ∧ s.block.hdb.next < rd s.block Reg.HDB.CHUNKS_AVAIL ∧ ea = rd s.block Reg.HDB.MAN_BASE + 0x100 + 64 * s.block.hdb.next ∧ poisoned s.block ea 64 = false ∧ e = entryOf (devRead s.block ea 64) ∧ stored = hostRead s.block (rd s.block Reg.HDB.CHUNK_ADDR + 1048576 * s.block.hdb.next) e.stored ∧ sha256 (0 :: stored) = e.leaf ∧ decodeChunk e stored = some d ∧ outputOf e d = some o ∧ target s.block (intakeKind s.block) (devNum s.block (rd s.block Reg.HDB.MAN_BASE + 0x10) 8) e = some a ∧ queuedChunks s.block = []) ∧
    (∃ (s : State) (e : Entry) (ea : Nat), intakeState s.block = 2 ∧ intakePaused s.block = false ∧ s.block.hdb.aborting = false ∧ s.block.hdb.next < s.block.hdb.chunks ∧ s.block.hdb.next < rd s.block Reg.HDB.CHUNKS_AVAIL ∧ ea = rd s.block Reg.HDB.MAN_BASE + 0x100 + 64 * s.block.hdb.next ∧ poisoned s.block ea 64 = false ∧ e = entryOf (devRead s.block ea 64) ∧ sha256 (0 :: hostRead s.block (rd s.block Reg.HDB.CHUNK_ADDR + 1048576 * s.block.hdb.next) e.stored) ≠ e.leaf) ∧
    (∃ (s : State) (rq : Requester), pageResponds s.block hdbPg = true ∧ takesAll s.block rq (0x6058) = true) ∧
    (∃ (s : State) (rq : Requester) (d : Fin 4), guardOpen s.block rq = true ∧ pageResponds s.block hdbPg = true ∧ intakeBusy s.block = true ∧ intakeDesc s.block = d ∧ queuedChunks s.block = []) :=
  ⟨⟨openState [], .host, 3, by decide +kernel⟩,
   ⟨{ block := { (regState [(Reg.HDB.HDB_STATUS_INTAKE, 1)]).block with store := { (regState [(Reg.HDB.HDB_STATUS_INTAKE, 1)]).block.store with host := Memory.writeN [] 0 (natLe 4 0x53484448 ++ natLe 2 1 ++ zeros 2 ++ natLe 4 1 ++ zeros 244) } } }, (natLe 4 0x53484448 ++ natLe 2 1 ++ zeros 2 ++ natLe 4 1 ++ zeros 244), (natLe 4 0x53484448 ++ natLe 2 1 ++ zeros 2 ++ natLe 4 1 ++ zeros 244) ++ zeros 448, by decide +kernel⟩,
   ⟨{ block := { withRegs [(Reg.HDB.HDB_STATUS_INTAKE, 1)] (jobBlock 0 []) with store := { (withRegs [(Reg.HDB.HDB_STATUS_INTAKE, 1)] (jobBlock 0 [])).store with host := Memory.writeN [] 0 (natLe 4 0x53484448 ++ natLe 2 1 ++ zeros 2 ++ natLe 4 1 ++ zeros 244) } } }, (natLe 4 0x53484448 ++ natLe 2 1 ++ zeros 2 ++ natLe 4 1 ++ zeros 244), (natLe 4 0x53484448 ++ natLe 2 1 ++ zeros 2 ++ natLe 4 1 ++ zeros 244) ++ zeros 448, 0, by decide +kernel⟩,
   ⟨{ block := { (regState [(Reg.HDB.HDB_STATUS_INTAKE, 1)]).block with hdb := { copying := true } } }, zeros 256, zeros (manLen 0), by decide +kernel⟩,
   ⟨{ block := { (regState [(Reg.HDB.HDB_STATUS_INTAKE, 2), (Reg.HDB.HDB_STATUS_DESC, 3), (Reg.HDB.CHUNKS_AVAIL, 1), (Reg.HDB.WS_OFFSET 3, 1048575), (Reg.HDB.WS_SIZE 3, 1)]).block with store := { (regState [(Reg.HDB.HDB_STATUS_INTAKE, 2), (Reg.HDB.HDB_STATUS_DESC, 3), (Reg.HDB.CHUNKS_AVAIL, 1), (Reg.HDB.WS_OFFSET 3, 1048575), (Reg.HDB.WS_SIZE 3, 1)]).block.store with dev := Memory.writeN [] 0x100 (sha256 (zeros 4) ++ natLe 4 3 ++ natLe 4 3 ++ [11, 0, 0, 4] ++ zeros 20) }, hdb := { next := 0, chunks := 1 } } }, entryOf (sha256 (zeros 4) ++ natLe 4 3 ++ natLe 4 3 ++ [11, 0, 0, 4] ++ zeros 20), zeros 3, zeros 3, zeros 3, 0xB000000000 + 65536 * 1048575, 0x100, by decide +kernel⟩,
   ⟨{ block := { (regState [(Reg.HDB.HDB_STATUS_INTAKE, 2), (Reg.HDB.HDB_STATUS_DESC, 3), (Reg.HDB.CHUNKS_AVAIL, 1), (Reg.HDB.WS_OFFSET 3, 1048575), (Reg.HDB.WS_SIZE 3, 1)]).block with store := { (regState [(Reg.HDB.HDB_STATUS_INTAKE, 2), (Reg.HDB.HDB_STATUS_DESC, 3), (Reg.HDB.CHUNKS_AVAIL, 1), (Reg.HDB.WS_OFFSET 3, 1048575), (Reg.HDB.WS_SIZE 3, 1)]).block.store with dev := Memory.writeN [] 0x100 (zeros 32 ++ natLe 4 3 ++ natLe 4 3 ++ [11, 0, 0, 4] ++ zeros 20) }, hdb := { next := 0, chunks := 1 } } }, entryOf (zeros 32 ++ natLe 4 3 ++ natLe 4 3 ++ [11, 0, 0, 4] ++ zeros 20), 0x100, by decide +kernel⟩,
   ⟨{}, .host, by decide +kernel⟩,
   ⟨openState [(Reg.HDB.HDB_STATUS_INTAKE, 2), (Reg.HDB.HDB_STATUS_DESC, 3)], .host, 3, by decide +kernel⟩⟩

theorem test_witness_WeightSetsChangeHands :
    (∃ (s : State) (rq : Requester) (d : Fin 4), guardOpen s.block rq = true ∧ pageResponds s.block hdbPg = true ∧ inJob s.block = false ∧ (wsState s.block d = wsVERIFIED ∨ wsState s.block d = wsSTANDBY)) ∧
    (∃ (s : State) (rq : Requester) (d : Fin 4), guardOpen s.block rq = true ∧ pageResponds s.block hdbPg = true ∧ releaseRefused s.block d = false ∧ (wsState s.block d = wsVERIFIED ∨ wsState s.block d = wsSTANDBY ∨ wsState s.block d = wsFAILED)) ∧
    (∃ (s : State) (rq : Requester) (d : Fin 4), guardOpen s.block rq = true ∧ pageResponds s.block hdbPg = true ∧ releaseRefused s.block d = true) ∧
    (∃ (s : State) (rq : Requester) (d : Fin 4), pageResponds s.block hdbPg = true ∧ wsState s.block d = wsEMPTY ∧ takesAll s.block rq (0x6080 + 16 * d) = true) ∧
    (∃ (s : State) (rq : Requester) (d : Fin 4), pageResponds s.block hdbPg = true ∧ wsState s.block d = wsEMPTY ∧ takesAll s.block rq (0x6084 + 16 * d) = true) ∧
    (∃ (s : State) (rq : Requester) (hi : Bool) (v : BitVec 32) (new : Nat), pageResponds s.block hdbPg = true ∧ intakeState s.block = 0 ∧ new = (if hi then rd s.block Reg.HDB.MAN_BASE % 2 ^ 32 + v.toNat % 2 ^ 16 * 2 ^ 32 else rd s.block Reg.HDB.MAN_BASE / 2 ^ 32 * 2 ^ 32 + v.toNat) ∧ takesAll s.block rq (if hi then 0x6074 else 0x6070) = true) :=
  ⟨⟨openState [(Reg.HDB.WS_CTRL_STATE 3, 4), (Reg.HDB.WS_CTRL_STATE 0, 3), (Reg.HDB.WS_OFFSET 3, 5)], .host, 3, by decide +kernel⟩,
   ⟨openState [(Reg.HDB.WS_CTRL_STATE 3, 5), (Reg.HDB.WS_CTRL_DAMAGED 3, 1)], .host, 3, by decide +kernel⟩,
   ⟨openState [(Reg.HDB.WS_CTRL_STATE 3, 3)], .host, 3, by decide +kernel⟩,
   ⟨{}, .host, 3, by decide +kernel⟩,
   ⟨{}, .host, 3, by decide +kernel⟩,
   ⟨{}, .host, true, 4294967295, 65535 * 2 ^ 32, by decide +kernel⟩⟩

theorem test_witness_TeardownTakesItsCourse :
    (∃ (s : State) (rq : Requester), guardOpen s.block rq = true ∧ teardownCode s.block ≠ 0) ∧
    (∃ (s : State) (rq : Requester), guardOpen s.block rq = true ∧ teardownCode s.block = 0 ∧ (jobState s.block = 2 ∨ jobState s.block = 3)) ∧
    (∃ (s : State) (rq : Requester), guardOpen s.block rq = true ∧ teardownCode s.block = 0 ∧ jobState s.block = 4) ∧
    (∃ (s : State), teardownDue s.block = true) ∧
    (∃ (s : State), jobState s.block = 5 ∧ s.block.plan.drained = false ∧ rd s.block Reg.GLB.TEARDOWN_TICK + 2048 ≤ now s.block) ∧
    (∃ (s : State), jobState s.block = 5 ∧ s.block.plan.drained = true ∧ movesDone s.block = true) ∧
    (∃ (s : State), jobState s.block = 6) :=
  ⟨⟨openState [], .host, by decide +kernel⟩,
   ⟨openState [(Reg.GLB.JOB_STATUS_STATE, 3), (Reg.GLB.TEARDOWN_SHEET, 2)], .host, by decide +kernel⟩,
   ⟨openState [(Reg.GLB.JOB_STATUS_STATE, 4)], .host, by decide +kernel⟩,
   ⟨{ block := { (regState [(Reg.GLB.JOB_STATUS_STATE, 4)]).block with plan := { teardownNamed := true } } }, by decide +kernel⟩,
   ⟨atTick 2048 [(Reg.GLB.JOB_STATUS_STATE, 5)], by decide +kernel⟩,
   ⟨{ block := { (regState [(Reg.GLB.JOB_STATUS_STATE, 5)]).block with plan := { drained := true } } }, by decide +kernel⟩,
   ⟨regState [(Reg.GLB.JOB_STATUS_STATE, 6), (Reg.TBS.STATE_IN_JOB, 1)], by decide +kernel⟩⟩

theorem test_witness_KeptRangesAreNamedAndReleased :
    (∃ (s : State) (rq : Requester) (r : Fin 16), keptBusy s.block r = false ∧ takesAll s.block rq (0x108 + 16 * r) = true) ∧
    (∃ (s : State) (rq : Requester) (r : Fin 16), keptBusy s.block r = false ∧ takesAll s.block rq (0x100 + 16 * r) = true) ∧
    (∃ (s : State) (r : Fin 16), keptBusy s.block r = true) ∧
    (∃ (s : State) (rq : Requester), guardOpen s.block rq = true) ∧
    (∃ (s : State) (r : Fin 16), keptState s.block r = 3) :=
  ⟨⟨{}, .host, 15, by decide +kernel⟩,
   ⟨{}, .host, 15, by decide +kernel⟩,
   ⟨regState [(Reg.GLB.KEPT_STATE_STATE 15, 3)], 15, by decide +kernel⟩,
   ⟨openState [(Reg.GLB.KEPT_SELECT, 65535), (Reg.GLB.KEPT_STATE_STATE 15, 2)], .host, by decide +kernel⟩,
   ⟨regState [(Reg.GLB.KEPT_LEN 15, 1), (Reg.GLB.KEPT_BASE 15, 0xBFFFFF0000), (Reg.GLB.KEPT_STATE_STATE 15, 3)], 15, by decide +kernel⟩⟩

theorem test_witness_ModuleResets :
    (∃ (s : State) (rq : Requester), guardOpen s.block rq = true ∧ s.block.mgmt.modReset = false) ∧
    (∃ (s : State), s.block.mgmt.modReset = false) ∧
    (∃ (s : State) (ns : Nat), 500 ≤ ns ∧ s.block.mgmt.pinsLow = []) ∧
    (∃ (s : State) (ns : Nat), 500 ≤ ns ∧ s.block.mgmt.pinsLow = []) ∧
    (∃ (s : State) (ns : Nat), 500 ≤ ns ∧ s.block.mgmt.pinsLow = []) ∧
    (∃ (ns : Nat), ns < 500) ∧
    (∃ (ns : Nat), ns < 500) ∧
    (∃ (ns : Nat), ns < 500) ∧
    (∃ (s : State) (pin : ResetPin), pin ≠ .perst ∧ s.block.mgmt.pinsLow = [pinNum pin]) ∧
    (∃ (s : State), s.block.mgmt.pinsLow = [1]) ∧
    (∃ (mv : Nat), mv < 38500) ∧
    (∃ (s : State) (d : Nat), 112 ≤ d ∧ s.block.mgmt.modReset = false) :=
  ⟨⟨{ block := { (openState []).block with mgmt := { modReset := false, stage := 3 } } }, .host, by decide +kernel⟩,
   ⟨{ block := { (regState []).block with mgmt := { modReset := false, stage := 3 } } }, by decide +kernel⟩,
   ⟨{}, 500, by decide +kernel⟩,
   ⟨{}, 500, by decide +kernel⟩,
   ⟨{}, 500, by decide +kernel⟩,
   ⟨499, by decide +kernel⟩,
   ⟨499, by decide +kernel⟩,
   ⟨499, by decide +kernel⟩,
   ⟨{ block := { (regState []).block with mgmt := { pinsLow := [2] } } }, .mod, by decide +kernel⟩,
   ⟨{ block := { (regState []).block with mgmt := { pinsLow := [1] } } }, by decide +kernel⟩,
   ⟨38499, by decide +kernel⟩,
   ⟨{ block := { (regState []).block with mgmt := { modReset := false, stage := 3 } } }, 112, by decide +kernel⟩⟩

theorem test_witness_RecoveryEndsAndTheFunctionResets :
    (∃ (s : State) (r : Recovery), s.block.mgmt.modReset = true ∧ s.block.mgmt.pinsLow = [] ∧ (s.block.mgmt.stage = 2 ∨ s.block.mgmt.stage = 3) ∧ xingOver s.block r = none ∧ r.bistOk = true ∧ r.harvestOk = true ∧ r.trimFail = none ∧ r.abort = none) ∧
    (∃ (s : State) (r : Recovery), s.block.mgmt.modReset = true ∧ s.block.mgmt.pinsLow = [] ∧ (s.block.mgmt.stage = 2 ∨ s.block.mgmt.stage = 3) ∧ xingOver s.block r = none ∧ r.bistOk = false) ∧
    (∃ (s : State) (r : Recovery) (n : Fin 64), s.block.mgmt.modReset = true ∧ s.block.mgmt.pinsLow = [] ∧ (s.block.mgmt.stage = 2 ∨ s.block.mgmt.stage = 3) ∧ xingOver s.block r = none ∧ r.bistOk = true ∧ r.harvestOk = true ∧ r.trimFail = some n) ∧
    (∃ (s : State), s.block.pcie.flrBusy = true ∧ flag s.block Reg.PCI.EVT_CTRL_ENABLE = false) ∧
    (∃ (s : State), s.block.pcie.flrBusy = true ∧ flag s.block Reg.PCI.EVT_CTRL_ENABLE = true ∧ dist32 (rd s.block Reg.PCI.EVT_WRITTEN) (rd s.block Reg.PCI.EVT_CONSUMED) < 64) :=
  ⟨⟨{ block := { (regState []).block with mgmt := { stage := 3 } } }, recov [4, 4, 3, 4, 6, 8, 5] true, by decide +kernel⟩,
   ⟨{ block := { (regState []).block with mgmt := { stage := 2 } } }, recov [4, 4, 3, 4, 6, 8, 5] false, by decide +kernel⟩,
   ⟨{ block := { (regState []).block with mgmt := { stage := 2 } } }, recovTrim, 63, by decide +kernel⟩,
   ⟨{ block := { pcie := { flrBusy := true } } }, by decide +kernel⟩,
   ⟨{ block := { (regState [(Reg.PCI.EVT_CTRL_ENABLE, 1), (Reg.PCI.EVT_WRITTEN, 4294967295), (Reg.PCI.EVT_CONSUMED, 4294967232)]).block with pcie := { flrBusy := true } } }, by decide +kernel⟩⟩

theorem test_witness_WindowsReadAndWriteWhatTheyMap :
    (∃ (s : State) (off : Nat) (n : Nat) (w : Nat) (a : Nat), w = off / winSize s.block ∧ w < 16 ∧ winKind s.block w = 1 ∧ a = winBase s.block w + off % winSize s.block ∧ devIn s.block a n = true ∧ mapped s.block = false ∧ badBlocks (drainSide s.block) a (ceilDiv (a % 64 + n) 64) = []) ∧
    (∃ (s : State) (off : Nat) (n : Nat) (w : Nat) (a : Nat), w = off / winSize s.block ∧ w < 16 ∧ winKind s.block w = 1 ∧ a = winBase s.block w + off % winSize s.block ∧ devIn s.block a n = true ∧ mapped s.block = true ∧ Tab.get s.block.sideWait 0 (windowTag a n) = 0) ∧
    (∃ (s : State) (off : Nat) (n : Nat) (w : Nat) (a : Nat) (k : Nat) (got : List SideFlit), w = off / winSize s.block ∧ w < 16 ∧ winKind s.block w = 1 ∧ a = winBase s.block w + off % winSize s.block ∧ devIn s.block a n = true ∧ mapped s.block = true ∧ Tab.get s.block.sideWait 0 (windowTag a n) = k + 1 ∧ (got = s.block.sideIn.filter (fun f => f.tag == windowTag a n)) ∧ k ≤ got.length ∧ badBlocks s.block a (ceilDiv (a % 64 + n) 64) = []) ∧
    (∃ (s : State) (off : Nat) (n : Nat) (w : Nat) (a : Nat), w = off / winSize s.block ∧ w < 16 ∧ winKind s.block w = 1 ∧ a = winBase s.block w + off % winSize s.block ∧ devIn s.block a n = false) ∧
    (∃ (s : State) (off : Nat) (n : Nat) (w : Nat), w = off / winSize s.block ∧ w < 16 ∧ winKind s.block w = 3 ∧ off % winSize s.block + n ≤ 0x800000 ∧ stagingLead s.block = true) ∧
    (∃ (s : State) (off : Nat) (w : Nat), w = off / winSize s.block ∧ (16 ≤ w ∨ winKind s.block w = 0 ∨ winKind s.block w = 7)) ∧
    (∃ (s : State) (off : Nat) (w : Nat) (a : Nat) (d : List Byte), w = off / winSize s.block ∧ w < 16 ∧ winKind s.block w = 1 ∧ a = winBase s.block w + off % winSize s.block ∧ devIn s.block a d.length = true ∧ flag s.block (Reg.PCI.WIN_CTRL_WRITE w) = true ∧ inQuota s.block a d.length = false ∧ stateSlot s.block a d.length = none ∧ hostMayWrite s.block a d.length = true) ∧
    (∃ (s : State) (off : Nat) (w : Nat) (a : Nat) (d : List Byte), w = off / winSize s.block ∧ w < 16 ∧ winKind s.block w = 1 ∧ a = winBase s.block w + off % winSize s.block ∧ devIn s.block a d.length = true ∧ flag s.block (Reg.PCI.WIN_CTRL_WRITE w) = false) ∧
    (∃ (s : State) (e : EngineId) (off : Nat) (d : List Byte), off + d.length ≤ 0x20000 ∧ 0x10000 ≤ off ∧ (eng s.block (engNum e)).tailBank ≠ some (inactiveBank s.block (engNum e))) ∧
    (∃ (off : Nat) (d : List Byte), off + d.length ≤ 0x20000 ∧ off < 0x10000) ∧
    (∃ (s : State) (off : Nat) (d : List Byte), off + d.length ≤ 0x800000 ∧ stagingLead s.block = true) ∧
    (∃ (s : State) (off : Nat) (d : List Byte), d ≠ [] ∧ (1 - activeTable s.block) * 0x40000 ≤ off ∧ off + d.length ≤ (1 - activeTable s.block) * 0x40000 + 0x40000 ∧ flag s.block Reg.NI.NI_TABLE_TAIL = false) ∧
    (∃ (s : State) (off : Nat) (d : List Byte), d ≠ [] ∧ activeTable s.block * 0x40000 ≤ off ∧ off + d.length ≤ activeTable s.block * 0x40000 + 0x40000) :=
  ⟨⟨regState [(Reg.PCI.WIN_CTRL_KIND 15, 1), (Reg.PCI.WIN_BASE 15, 0xB000000000)], 15 * 0x10000000, 256, 15, 0xB000000000, by decide +kernel⟩,
   ⟨{ block := { jobBlock 0 [(Reg.PCI.WIN_CTRL_KIND 15, 1), (Reg.PCI.WIN_BASE 15, 0xB000000000)] with side := [] } }, 15 * 0x10000000, 256, 15, 0xB000000000, by decide +kernel⟩,
   ⟨{ block := { jobBlock 0 [(Reg.PCI.WIN_CTRL_KIND 15, 1), (Reg.PCI.WIN_BASE 15, 0xB000000000)] with sideWait := [(windowTag 0xB000000000 256, 2)], sideIn := [⟨0xB000000000, 256, zeros 256, windowTag 0xB000000000 256, false, false, true⟩] } }, 15 * 0x10000000, 256, 15, 0xB000000000, 1, [⟨0xB000000000, 256, zeros 256, windowTag 0xB000000000 256, false, false, true⟩], by decide +kernel⟩,
   ⟨regState [(Reg.PCI.WIN_CTRL_KIND 15, 1), (Reg.PCI.WIN_BASE 15, 0xC000000000)], 15 * 0x10000000, 256, 15, 0xC000000000, by decide +kernel⟩,
   ⟨regState [(Reg.PCI.WIN_CTRL_KIND 15, 3), (Reg.PCI.WIN_BASE 15, 0xB000000000)], 15 * 0x10000000 + 0x7FFFC0, 64, 15, by decide +kernel⟩,
   ⟨{}, 16 * 0x10000000, 16, by decide +kernel⟩,
   ⟨regState [(Reg.PCI.WIN_CTRL_KIND 15, 1), (Reg.PCI.WIN_BASE 15, 0xB000000000), (Reg.PCI.WIN_CTRL_WRITE 15, 1)], 16 * 0x10000000 - 1, 15, 0xB000000000 + 0xFFFFFFF, [7], by decide +kernel⟩,
   ⟨regState [(Reg.PCI.WIN_CTRL_KIND 15, 1), (Reg.PCI.WIN_BASE 15, 0xB000000000)], 15 * 0x10000000, 15, 0xB000000000, [7], by decide +kernel⟩,
   ⟨{}, .core ⟨15, 5, 7⟩, 0x1FFFF, [7], by decide +kernel⟩,
   ⟨0xFFFF, [7], by decide +kernel⟩,
   ⟨{}, 0x7FFFFF, [7], by decide +kernel⟩,
   ⟨{}, 0x7FFFF, [7], by decide +kernel⟩,
   ⟨{}, 0x3FFFF, [7], by decide +kernel⟩⟩

theorem test_witness_DmaDescriptorsMoveTheirBytesAndComplete :
    (∃ (s : State) (rq : Requester) (q : Fin 8) (v : BitVec 32), flag s.block (Reg.PCI.Q_CTRL_ENABLE q) = true ∧ dmaOf s.block q = [] ∧ rd s.block (Reg.PCI.Q_HEAD q) ≠ v.toNat % 2 ^ 16 % qLen s.block q ∧ takesAll s.block rq (pci + 0x214 + 32 * q) = true) ∧
    (∃ (s : State) (q : Fin 8) (x : Dma), nextDma s.block q 1 = some x ∧ lenOk x.len = true ∧ devIn s.block x.dev x.len = true ∧ inQuota s.block x.dev x.len = false ∧ hostMayWrite s.block x.dev x.len = true ∧ inJob s.block = false ∧ nothingUnderWay s.block ∧ noHostWait s.block (dmaTag q x.index)) ∧
    (∃ (s : State) (q : Fin 8) (x : Dma) (u : Nat), nextDma s.block q 1 = some x ∧ lenOk x.len = true ∧ devIn s.block x.dev x.len = true ∧ inQuota s.block x.dev x.len = false ∧ hostMayWrite s.block x.dev x.len = true ∧ inJob s.block = true ∧ jobState s.block < 5 ∧ unitOf s.block x.dev = some u ∧ noHostWait s.block (dmaTag q x.index) ∧ (unit s.block u).hostq.length < 256) ∧
    (∃ (s : State) (q : Fin 8) (x : Dma) (u : Nat) (m : Move), nextDma s.block q 1 = some x ∧ lenOk x.len = true ∧ devIn s.block x.dev x.len = true ∧ inQuota s.block x.dev x.len = false ∧ hostMayWrite s.block x.dev x.len = true ∧ unitOf s.block x.dev = some u ∧ ((unit s.block u).hostq.find? (fun m => m.tag == dmaTag q x.index && m.kind != 8) = some m) ∧ m.len = 0 ∧ m.data = []) ∧
    (∃ (s : State) (q : Fin 8) (x : Dma), nextDma s.block q 1 = some x ∧ lenOk x.len = true ∧ devIn s.block x.dev x.len = true) ∧
    (∃ (s : State) (q : Fin 8) (x : Dma), nextDma s.block q 2 = some x ∧ lenOk x.len = true ∧ devIn s.block x.dev x.len = true ∧ inJob s.block = false ∧ nothingUnderWay s.block ∧ noHostWait s.block (dmaTag q x.index) ∧ badBlocks s.block x.dev (ceilDiv (x.dev % 64 + x.len) 64) = []) ∧
    (∃ (s : State) (q : Fin 8) (x : Dma) (u : Nat) (m : Move), nextDma s.block q 2 = some x ∧ lenOk x.len = true ∧ devIn s.block x.dev x.len = true ∧ unitOf s.block x.dev = some u ∧ ((unit s.block u).hostq.find? (fun m => m.tag == dmaTag q x.index && m.kind != 8) = some m) ∧ m.len = 0 ∧ m.data = [] ∧ m.far.length = x.len ∧ badBlocks s.block x.dev (ceilDiv (x.dev % 64 + x.len) 64) = []) ∧
    (∃ (s : State) (q : Fin 8) (x : Dma), nextDma s.block q 2 = some x ∧ lenOk x.len = true ∧ devIn s.block x.dev x.len = true) ∧
    (∃ (s : State) (q : Fin 8) (x : Dma), nextDma s.block q 3 = some x ∧ x.token = none ∧ x.len % 32 = 0 ∧ 32 ≤ x.len ∧ x.len ≤ 2048) ∧
    (∃ (s : State) (q : Fin 8) (x : Dma) (token : Nat) (r : Pending), nextDma s.block q 3 = some x ∧ x.token = some token ∧ answered s.block token = some r ∧ r.done = some stOK) ∧
    (∃ (s : State) (q : Fin 8) (x : Dma) (e : Nat), nextDma s.block q 4 = some x ∧ engNamed x.dev = some e ∧ lenOk x.len = true ∧ bits x.dev 16 16 + x.len ≤ 65536 ∧ (eng s.block e).tailBank ≠ some (inactiveBank s.block e)) ∧
    (∃ (s : State) (q : Fin 8) (x : Dma) (r : List Dma) (st : Nat), dmaOf s.block q = x :: r ∧ x.status = some st) ∧
    (∃ (s : State) (q : Fin 8), flag s.block (Reg.PCI.Q_CTRL_ENABLE q) = true) :=
  ⟨⟨regState [(Reg.PCI.Q_CTRL_ENABLE 7, 1), (Reg.PCI.Q_CTRL_LOG2_ENTRIES 7, 6)], .host, 7, 63, by decide +kernel⟩,
   ⟨dmaState ⟨0, descOf 1 0 32 0x40 (0x80000000000 + 15 * 0x2000000), none, 0, none⟩ [], 7, ⟨0, descOf 1 0 32 0x40 (0x80000000000 + 15 * 0x2000000), none, 0, none⟩, by decide +kernel, by decide +kernel, by decide +kernel, by decide +kernel, by decide +kernel, by decide +kernel, ⟨rfl, by decide +kernel⟩, fun _ => rfl⟩,
   ⟨{ block := { jobBlock 0 [] with pcie := { dma := [(7, [⟨0, descOf 1 0 32 0x40 0xB000000000, none, 0, none⟩])] }, plan := { ream := some { ranges := [⟨7, 0, 0, 0xB000000000, 32⟩] } } } }, 7, ⟨0, descOf 1 0 32 0x40 0xB000000000, none, 0, none⟩, 11, by decide +kernel, by decide +kernel, by decide +kernel, by decide +kernel, by decide +kernel, by decide +kernel, by decide +kernel, by decide +kernel, fun _ => rfl, by decide +kernel⟩,
   ⟨{ block := { jobBlock 0 [] with pcie := { dma := [(7, [⟨0, descOf 1 0 32 0x40 0xB000000000, none, 0, none⟩])] }, plan := { ream := some { ranges := [⟨7, 0, 0, 0xB000000000, 32⟩] } }, units := [(11, { hostq := [⟨7, 0xB000000000, 0, dmaTag 7 0, false, [], [], 32⟩] })] } }, 7, ⟨0, descOf 1 0 32 0x40 0xB000000000, none, 0, none⟩, 11, ⟨7, 0xB000000000, 0, dmaTag 7 0, false, [], [], 32⟩, by decide +kernel⟩,
   ⟨dmaState ⟨0, descOf 1 0 32 0x40 (0x80000000000 + 15 * 0x2000000), none, 0, none⟩ [], 7, ⟨0, descOf 1 0 32 0x40 (0x80000000000 + 15 * 0x2000000), none, 0, none⟩, by decide +kernel⟩,
   ⟨dmaState ⟨0, descOf 2 0 32 0x40 (0x80000000000 + 15 * 0x2000000), none, 0, none⟩ [], 7, ⟨0, descOf 2 0 32 0x40 (0x80000000000 + 15 * 0x2000000), none, 0, none⟩, by decide +kernel, by decide +kernel, by decide +kernel, by decide +kernel, ⟨rfl, by decide +kernel⟩, fun _ => rfl, by decide +kernel⟩,
   ⟨{ block := { jobBlock 0 [] with pcie := { dma := [(7, [⟨0, descOf 2 0 32 0x40 0xB000000000, none, 0, none⟩])] }, plan := { ream := some { ranges := [⟨7, 0, 0, 0xB000000000, 32⟩] } }, units := [(11, { hostq := [⟨6, 0xB000000000, 0, dmaTag 7 0, false, [], zeros 32, 32⟩] })] } }, 7, ⟨0, descOf 2 0 32 0x40 0xB000000000, none, 0, none⟩, 11, ⟨6, 0xB000000000, 0, dmaTag 7 0, false, [], zeros 32, 32⟩, by decide +kernel⟩,
   ⟨dmaState ⟨0, descOf 2 0 32 0x40 (0x80000000000 + 15 * 0x2000000), none, 0, none⟩ [], 7, ⟨0, descOf 2 0 32 0x40 (0x80000000000 + 15 * 0x2000000), none, 0, none⟩, by decide +kernel⟩,
   ⟨dmaState ⟨0, descOf 3 0 2048 0x40 0, none, 0, none⟩ [], 7, ⟨0, descOf 3 0 2048 0x40 0, none, 0, none⟩, by decide +kernel⟩,
   ⟨{ block := { (dmaState ⟨0, descOf 3 0 32 0x40 0, none, 0, some 5⟩ []).block with ni := { requests := [⟨5, 0, 8, some 0, [7]⟩] } } }, 7, ⟨0, descOf 3 0 32 0x40 0, none, 0, some 5⟩, 5, ⟨5, 0, 8, some 0, [7]⟩, by decide +kernel⟩,
   ⟨dmaState ⟨0, descOf 4 0 32 0x40 (0x50 + 15 * 256 + 65504 * 65536), none, 0, none⟩ [], 7, ⟨0, descOf 4 0 32 0x40 (0x50 + 15 * 256 + 65504 * 65536), none, 0, none⟩, 832, by decide +kernel⟩,
   ⟨dmaState ⟨0, descOf 1 0 32 0x40 (0x80000000000 + 15 * 0x2000000), some 0, 0, none⟩ [(Reg.PCI.Q_DONE 7, 4294967295)], 7, ⟨0, descOf 1 0 32 0x40 (0x80000000000 + 15 * 0x2000000), some 0, 0, none⟩, [], 0, by decide +kernel⟩,
   ⟨regState [(Reg.PCI.Q_CTRL_ENABLE 7, 1), (Reg.PCI.Q_CTRL_LOG2_ENTRIES 7, 6)], 7, by decide +kernel⟩⟩

theorem test_witness_ImagesAreLoadedOrRefused :
    (∃ (s : State) (rq : Requester), guardOpen s.block rq = true ∧ inJob s.block = false ∧ rd s.block Reg.PCI.LOAD_STATUS_STATE ≠ 1) ∧
    (∃ (s : State) (rq : Requester), guardOpen s.block rq = true ∧ (inJob s.block = true ∨ rd s.block Reg.PCI.LOAD_STATUS_STATE = 1)) ∧
    (∃ (s : State) (c : Nat) (d : Nat), rd s.block Reg.PCI.LOAD_STATUS_STATE = 1 ∧ firstFailure (checks (loadView s.block) s.block.pcie.image) = some (c, d)) ∧
    (∃ (s : State) (img : List Byte), rd s.block Reg.PCI.LOAD_STATUS_STATE = 1 ∧ img = s.block.pcie.image ∧ firstFailure (checks (loadView s.block) img) = none ∧ slotFailure (install (loadView s.block) img) img = none) ∧
    (∃ (s : State) (img : List Byte) (c : Nat) (d : Nat) (n : Nat) (bank : Nat), rd s.block Reg.PCI.LOAD_STATUS_STATE = 1 ∧ img = s.block.pcie.image ∧ firstFailure (checks (loadView s.block) img) = none ∧ slotFailure (install (loadView s.block) img) img = some (c, d, n, bank)) ∧
    (∃ (s : State) (rq : Requester), guardOpen s.block rq = true ∧ rd s.block Reg.PCI.LOAD_STATUS_STATE = 2) :=
  ⟨⟨openState [(Reg.PCI.LOAD_LEN, 300)], .host, by decide +kernel⟩,
   ⟨openState [(Reg.PCI.LOAD_STATUS_STATE, 1)], .host, by decide +kernel⟩,
   ⟨loading (zeros 512), 1, 0, by decide +kernel⟩,
   ⟨loading goodReam, goodReam, by decide +kernel, rfl, test_good_ream_passes, test_good_ream_slots⟩,
   ⟨loading slotReam, slotReam, 0x21, 16, 768, 0, by decide +kernel, rfl, test_slot_ream_passes, test_slot_ream_slots⟩,
   ⟨openState [(Reg.PCI.LOAD_STATUS_STATE, 2)], .host, by decide +kernel⟩⟩

theorem test_witness_TokenTablesIgnoreOverlapsAndWritesInAJob :
    (∃ (s : State) (a : BitVec 26) (v : BitVec 32) (k : Nat) (i : Nat), tableReg a.toNat = some (k, i) ∧ pageResponds s.block (pageOf a.toNat) = true ∧ tableInJob s.block a.toNat = false ∧ k < 2 ∧ meetsOther s.block a.toNat k i v.toNat) ∧
    (∃ (s : State) (a : BitVec 26) (k : Nat) (i : Nat), tableReg a.toNat = some (k, i) ∧ pageResponds s.block (pageOf a.toNat) = true ∧ tableInJob s.block a.toNat = true) :=
  ⟨⟨regState [(Reg.COR.TOK_REGION_VALID (corPage 15 5) 0, 1), (Reg.COR.TOK_REGION_BASE (corPage 15 5) 0, 0), (Reg.COR.TOK_REGION_LEN (corPage 15 5) 0, 1)], BitVec.ofNat 26 (corPage 15 5 + 0x400 + 8 * 63), 0x80002000, 0, 63, by unfold meetsOther; decide +kernel⟩,
   ⟨regState [(Reg.COR.ENGINE_MASK_IN_JOB (corPage 15 5), 1)], BitVec.ofNat 26 (corPage 15 5 + 0x400 + 8 * 63), 0, 63, by decide +kernel⟩⟩

theorem test_witness_PairReadsLatchForTheirRequesterAlone :
    (∃ (a : BitVec 26) (f : Field), a.toNat % 4 = 0 ∧ pairAt a.toNat = some f) ∧
    (∃ (a : BitVec 26), a.toNat % 4 ≠ 0) :=
  ⟨⟨BitVec.ofNat 26 Reg.TBS.PLAN_TIME.addr, Reg.TBS.PLAN_TIME, by decide +kernel⟩,
   ⟨67108863, by decide +kernel⟩⟩

theorem test_witness_GuardsAdmitOneWriteAndRegistersTakeTheirs :
    (∃ (rq : Requester) (rq' : Requester), rq' ≠ rq) ∧
    (∃ (key : BitVec 32), key ≠ 0xC1E7) ∧
    (∃ (s : State) (rq : Requester), (guardOf s.block rq).untilT ≤ now s.block) ∧
    (∃ (s : State) (rq : Requester) (a : BitVec 27) (v : BitVec 32) (f : Field), a.toNat < 2 ^ 26 ∧ a.toNat % 4 = 0 ∧ ownRow s.block rq a.toNat v.toNat = none ∧ fieldsAt a.toNat = [(f, 0)] ∧ f.kind = .rw ∧ f.width ≤ 32 ∧ pageResponds s.block (pageOf a.toNat) = true ∧ ignored s.block f (bits v.toNat f.lsb f.width) = false ∧ takesAll s.block rq a.toNat = true ∧ f.guarded = false) ∧
    (∃ (s : State) (rq : Requester) (a : BitVec 27) (v : BitVec 32) (f : Field), a.toNat < 2 ^ 26 ∧ a.toNat % 4 = 0 ∧ ownRow s.block rq a.toNat v.toNat = none ∧ fieldsAt a.toNat = [(f, 0)] ∧ f.kind = .rw ∧ f.width ≤ 32 ∧ pageResponds s.block (pageOf a.toNat) = true ∧ ignored s.block f (bits v.toNat f.lsb f.width) = false ∧ takesAll s.block rq a.toNat = true ∧ f.guarded = true ∧ guardOpen s.block rq = true) ∧
    (∃ (s : State) (rq : Requester) (a : BitVec 27) (v : BitVec 32) (f : Field), a.toNat < 2 ^ 26 ∧ a.toNat % 4 = 0 ∧ ownRow s.block rq a.toNat v.toNat = none ∧ fieldsAt a.toNat = [(f, 0)] ∧ f.kind = .rw ∧ f.width ≤ 32 ∧ pageResponds s.block (pageOf a.toNat) = true ∧ ignored s.block f (bits v.toNat f.lsb f.width) = false ∧ takesAll s.block rq a.toNat = true ∧ f.guarded = true ∧ guardOpen s.block rq = false ∧ bits v.toNat f.lsb f.width ≠ rd s.block f) ∧
    (∃ (s : State) (a : BitVec 27) (v : BitVec 32) (f : Field), a.toNat < 2 ^ 26 ∧ a.toNat % 4 = 0 ∧ ownRow s.block .host a.toNat v.toNat = none ∧ fieldsAt a.toNat = [(f, 0)] ∧ f.kind = .rw ∧ f.width ≤ 32 ∧ f.guarded = false ∧ pageResponds s.block (pageOf a.toNat) = true ∧ rd s.block f = stored f (rd s.block f) ∧ mgtBits s.block a.toNat = (2 ^ f.width - 1) * 2 ^ f.lsb) ∧
    (∃ (s : State) (a : BitVec 27) (v : BitVec 32) (f : Field), a.toNat < 2 ^ 26 ∧ a.toNat % 4 = 0 ∧ ownRow s.block .mgt a.toNat v.toNat = none ∧ fieldsAt a.toNat = [(f, 0)] ∧ f.kind = .rw ∧ f.width ≤ 32 ∧ f.guarded = false ∧ pageResponds s.block (pageOf a.toNat) = true ∧ mgtBits s.block a.toNat = 0 ∧ f.key ≠ Reg.TBS.PLAN_TIME.key) ∧
    (∃ (s : State) (rq : Requester) (a : BitVec 27) (v : BitVec 32), a.toNat < 2 ^ 26 ∧ a.toNat % 4 = 0 ∧ ownRow s.block rq a.toNat v.toNat = none ∧ fieldsAt a.toNat = []) ∧
    (∃ (a : BitVec 27), a.toNat < 2 ^ 26 ∧ a.toNat % 4 ≠ 0) ∧
    (∃ (s : State) (a : BitVec 26) (r : ErrRec), stickyAt a.toNat = some r ∧ pageResponds s.block (pageOf a.toNat) = true) :=
  ⟨⟨.host, .mgt, by decide +kernel⟩,
   ⟨0, by decide +kernel⟩,
   ⟨{ block := { (atTick 1 []).block with hostGuard := ⟨true, 1⟩ } }, .host, by decide +kernel⟩,
   ⟨{}, .host, BitVec.ofNat 27 Reg.PCI.LOAD_LEN.addr, 4294967295, Reg.PCI.LOAD_LEN, by decide +kernel⟩,
   ⟨openState [], .host, BitVec.ofNat 27 Reg.PWR.CAP.addr, 2500, Reg.PWR.CAP, by decide +kernel⟩,
   ⟨{}, .host, BitVec.ofNat 27 Reg.PWR.CAP.addr, 2500, Reg.PWR.CAP, by decide +kernel⟩,
   ⟨{ block := { (regState [(Reg.PCI.LOAD_LEN, 7)]).block with mgtAt := 1, mgtWrites := [(Reg.PCI.LOAD_LEN.addr, 4294967295)] } }, BitVec.ofNat 27 Reg.PCI.LOAD_LEN.addr, 5, Reg.PCI.LOAD_LEN, by decide +kernel⟩,
   ⟨{}, BitVec.ofNat 27 Reg.PCI.LOAD_LEN.addr, 4294967295, Reg.PCI.LOAD_LEN, by decide +kernel⟩,
   ⟨{}, .host, 0xFFC, 0, by decide +kernel⟩,
   ⟨0x3FFFFFF, by decide +kernel⟩,
   ⟨regState [((engRec 0).sticky, 65535)], BitVec.ofNat 26 (engRec 0).sticky.addr, engRec 0, by decide +kernel⟩⟩

theorem test_witness_CoordinatesAndConfigurationAreGuarded :
    (∃ (s : State) (rq : Requester) (v : BitVec 32), guardOpen s.block rq = true ∧ inJob s.block = false ∧ flag s.block Reg.GLB.COORD_LO_VALID = false ∧ takesAll s.block rq 0x58 = true ∧ bit v.toNat 31 = false) ∧
    (∃ (s : State) (rq : Requester) (v : BitVec 32), guardOpen s.block rq = true ∧ inJob s.block = false ∧ flag s.block Reg.GLB.COORD_LO_VALID = false ∧ takesAll s.block rq 0x58 = true ∧ bit v.toNat 31 = true ∧ bits v.toNat 0 6 < rd s.block Reg.GLB.COORD_HI_RING_X ∧ bits v.toNat 6 6 < rd s.block Reg.GLB.COORD_HI_RING_Y ∧ bits v.toNat 12 6 < rd s.block Reg.GLB.COORD_HI_RING_Z ∧ ((∀ r ∈ [Reg.GLB.COORD_HI_RING_X, Reg.GLB.COORD_HI_RING_Y, Reg.GLB.COORD_HI_RING_Z], 2 ≤ rd s.block r ∧ rd s.block r ≤ 64))) ∧
    (∃ (s : State) (rq : Requester), guardOpen s.block rq = true ∧ inJob s.block = false ∧ flag s.block Reg.GLB.COORD_LO_VALID = false ∧ takesAll s.block rq 0x5C = true) ∧
    (∃ (s : State) (rq : Requester), guardOpen s.block rq = true ∧ inJob s.block = true) ∧
    (∃ (s : State) (rq : Requester), guardOpen s.block rq = true) ∧
    (∃ (s : State), passDue s.block = true ∧ flag s.block Reg.GLB.CFG_CTRL_MODE = false ∧ (s.block.cfgSnapshot.map (fun p => p.1) = cfgPages)) ∧
    (∃ (s : State), passDue s.block = true ∧ flag s.block Reg.GLB.CFG_CTRL_MODE = true ∧ (s.block.cfgSnapshot.map (fun p => p.1) = cfgPages)) ∧
    (∃ (s : State), now s.block % 100000 ≠ 0) :=
  ⟨⟨openState [], .host, 0x7FFFFFFF, by decide +kernel⟩,
   ⟨openState [(Reg.GLB.COORD_HI_RING_X, 64), (Reg.GLB.COORD_HI_RING_Y, 64), (Reg.GLB.COORD_HI_RING_Z, 2)], .host, 0x80000FFF, by decide +kernel⟩,
   ⟨openState [], .host, by decide +kernel⟩,
   ⟨openState [(Reg.TBS.STATE_IN_JOB, 1)], .host, by decide +kernel⟩,
   ⟨openState [], .host, by decide +kernel⟩,
   ⟨{ block := { (regState [(Reg.GLB.CFG_CTRL_ADOPT, 1)]).block with cfgSnapshot := cfgPages.map (fun p => (p, 0)) } }, by decide +kernel⟩,
   ⟨{ block := { (regState [(Reg.GLB.CFG_CTRL_MODE, 1)]).block with cfgSnapshot := cfgPages.map (fun p => (p, 2 ^ 34)) } }, by decide +kernel⟩,
   ⟨atTick 99999 [], by decide +kernel⟩⟩

theorem test_witness_AStepRunsTheFrontCommand :
    (∃ (s : State) (c : Instr) (r : List Instr), s.pending = c :: r) ∧
    (∃ (s : State), s.pending = []) :=
  ⟨⟨{ pending := [.powerOn] }, .powerOn, [], by decide +kernel⟩,
   ⟨{}, by decide +kernel⟩⟩

theorem test_witness_WellFormedCommandsCompleteAndQueuesDrain :
    (∃ (c : Instr), c.wf = true) ∧
    (∃ (s : State), s.queueWf = true) ∧
    (∃ (d : List Byte), d.length ≠ 256) ∧
    (∃ (d : List Byte), d.length ≠ 256) ∧
    (∃ (h : List Byte), h.length ≠ 48) :=
  ⟨⟨.scheduledFlitArrival 11 0 (zeros 256), by decide +kernel⟩,
   ⟨{ pending := [.powerOn, .bootOk] }, by decide +kernel⟩,
   ⟨[], by decide +kernel⟩,
   ⟨[], by decide +kernel⟩,
   ⟨[], by decide +kernel⟩⟩

theorem test_witness_EveryStepKeepsTheModuleSafe :
    (∃ (s : State) (t : State), s.safe = true ∧ step s = .next t) :=
  ⟨{}, { block := tick {} }, by decide +kernel, rfl⟩


/-! ### The vector functions: one-operation programs that meet the hypotheses of their statements -/

/-- The last vector engine stands at a function with zero operands. -/
def atVop (f : Nat) : State := runs ⟨15, 5, 4⟩ (0x20 + f * 2 ^ 48) []
def n4 : Nat := ceNum ⟨15, 5, 4⟩

theorem test_witness_elementwise_functions :
    ∀ p ∈ [(0x00, acc2), (0x01, acc2), (0x02, acc2), (0x03, acc3), (0x04, acc2), (0x05, acc1), (0x06, acc1), (0x07, acc1), (0x08, acc1),
      (0x09, acc1), (0x0A, acc2), (0x0B, acc2), (0x0C, acc1), (0x0D, acc1), (0x0F, acc3)],
    readyFor (atVop p.1).block n4 (fun v => isOp opVOP v && fFunc v == p.1) ∧
      (p.2 (opWord (atVop p.1).block n4)).flatMap (accessCauses (atVop p.1).block n4 (opWord (atVop p.1).block n4)) = [] := by
  unfold readyFor standsAt; decide +kernel

theorem test_witness_other_functions :
    ∀ p ∈ [(0x0E, acc2), (0x10, fun w => [vxAccess (fVa w) (256 * narrowBytes (fVFmt w)) false, vxAccess (fVd w) 1024 true]),
      (0x11, fun w => [vxAccess (fVa w) 1024 false, vxAccess (fVd w) (cvtBytes (fVFmt w)) true]), (0x20, fun _ => []),
      (0x22, fun w => [vxAccess (fVa w) (2 * rawRowBytes (fVWidth w)) false]), (0x23, fun _ => []),
      (0x24, fun w => [vxAccess (fVd w) (256 * acvtBytes (fVFmt w)) true]), (0x30, acc1),
      (0x31, fun w => vxAccess (fVd w) 1024 false :: acc1 w), (0x40, acc2)],
    readyFor (atVop p.1).block n4 (fun v => isOp opVOP v && fFunc v == p.1) ∧
      (p.2 (opWord (atVop p.1).block n4)).flatMap (accessCauses (atVop p.1).block n4 (opWord (atVop p.1).block n4)) = [] := by
  unfold readyFor standsAt; decide +kernel

/-! ### Well-formed commands: each check refuses a term that is just outside it, and passes one that is just inside -/

theorem test_ill_formed_commands_are_refused : ([
    .linkOff 0 (List.replicate 9 0), .dropReq 0 (List.replicate 9 0), .addReq 0 (List.replicate 9 0), .change 0 (List.replicate 9 0),
    .changeAck 0 (List.replicate 9 0) 0, .deckleFlitArrival 0 0 0 (zeros 255), .timingExchange 0 (2 ^ 64) 0 0 0 0 0 false 0 15, .sagWarn 65536, .sagClear 65536, .supplyReset 65536,
    .overvolt 65536, .powerWindowEnd 0 0 65536, .thermalSample 0 0 0 0 256, .thermalTrip 0 256, .thermalReset 0 256, .coolantRange 0 256,
    .memoryOvertemp (.hbm 0) 256, .scheduledFlitArrival 0 0 (zeros 257), .flitReceive 0 true (.bytes (zeros 279)),
    .degradeWindowEnd 0 [] (zeros 8 |>.map (fun x => x.toNat)) 0 0, .servicePacketReceive none 0 [], .servicePacketReceive none 0 [zeros 255],
    .svcRead none (zeros 47), .telRead none (zeros 49), .svcWrite none (zeros 48) [0], .svcMailbox none (zeros 47) [], .serviceResponse none (zeros 48) [0],
    .challenge (zeros 31), .getMeasurements (zeros 33), .requestFirmwareData false 0 [], .requestFirmwareData false 0 (zeros 961),
    .moduleResetDone (recov [] true), .requestFirmwareData true 0 (zeros 513), .imemWindowWrite (.pe 0) 0x100000000 [0], .stagingWrite 0x100000000 [0],
    .netifWindowWrite 0x100000000 [0]] :
    List Instr).all (fun c => !c.wf) = true := by decide +kernel

theorem test_well_formed_commands_pass : ([
    .linkOff 0 (List.replicate 8 0), .deckleFlitArrival 0 0 0 (zeros 256), .timingExchange 0 (2 ^ 64 - 1) 0 0 0 0 0 false 0 15, .sagWarn 65535, .thermalSample 0 255 255 255 255,
    .flitReceive 0 true (.bytes (zeros 280)), .flitReceive 0 true .uncorrectable, .servicePacketReceive none 0 [zeros 256], .svcRead none (zeros 48),
    .svcWrite none (zeros 48) [], .requestFirmwareData false 0 (zeros 960), .moduleResetDone (recov [4, 4, 3, 4, 6, 8, 5] true),
    .stagingWrite 0xFFFFFFF [0]] : List Instr).all (fun c => c.wf) = true := by decide +kernel

/-! ### Reset and the queue -/

theorem test_reset_is_safe : State.reset.safe = true := by decide +kernel
theorem test_no_word_is_a_command : decodeTableWord 16 0 = none := rfl
theorem test_idle_step_is_a_tick : (match step State.reset with | .next t => now t.block | _ => 0) = 1 := by decide +kernel
theorem test_step_takes_the_front :
    (match step { pending := [.bootRomVerify true true 3 0, .bootOk] } with | .next t => (t.block.mgmt.stage, t.pending) | _ => (9, [])) =
      (1, [.bootOk]) := by decide +kernel

/-! ### The spec's own numbers -/

/-- Chapter 6, the FP8 column rounded once: V = 30,408,705 at anchor −18 drains to 0x42E8_0000 and to 0x6F; at anchor −17 to 0x6E. -/
theorem test_one_rounding : (convertWin 0 30408705 (-18), convertWin 3 30408705 (-18), convertWin 3 15204352 (-17)) = (0x42E80000, 0x6F, 0x6E) := by
  decide +kernel
/-- Chapter 6: the FP32 result converted again would be 0x6E. -/
theorem test_two_roundings : (fromFp32 2 0x42E80000).1 = 0x6E ∧ (packMag fmtE4M3 116 0 false).1 = 0x6E := by decide +kernel
/-- Chapter 6, the MXFP4 block: V = 36 at anchor −1 is 0x4190_0000, 0x4190, and 24 00 00 00 before the tag FF FF 02 00. -/
theorem test_mxfp4_block : convertWin 0 36 (-1) = 0x41900000 ∧ convertWin 1 36 (-1) = 0x4190 ∧
    ((rawRow 2 0 (-1) false 0 (36 :: List.replicate 127 0)).1.take 4 = [0x24, 0, 0, 0]) ∧
    slice (rawRow 2 0 (-1) false 0 (36 :: List.replicate 127 0)).1 512 16 = [0xFF, 0xFF, 2, 0, 0, 0, 0, 0, 0, 0, 0, 0, 0, 0, 0, 0] := by decide +kernel
/-- Chapter 6: 1.5 enters as 2 and 0.375 as 0, both inexact (ties to even). -/
theorem test_inexact_entries : enterWin 0 false (.fin false 3 (-1)) = (2, true, false) ∧ enterWin 0 false (.fin false 3 (-3)) = (0, true, false) := by
  decide +kernel
/-- Chapter 8: C_r(8) = 276 pt and C_r(6) = 304 pt at a budget of 120 pt. -/
theorem test_retry_cycles : retryCycle 120 8 = 276 ∧ retryCycle 120 6 = 304 := by decide
/-- Chapter 8: DELAY = 78.5 pt and X6 = 5 pt give F = 110 pt. -/
theorem test_flight : rd (updateFlight (regState [(Reg.TBS.LINK_DELAY_VALID 0, 1), (Reg.TBS.LINK_DELAY_DELAY 0, 5024), (Reg.TBS.XING_LAT_CAL 6, 5)]).block 0)
    (Reg.PRT.FLIGHT_CAL (prtPage 0)) = 110 := by decide +kernel
/-- Chapter 16: the VX page of die-wide core 59. -/
theorem test_vx_page : engPage (engCore 9 5 4) = 0x01465000 := by decide
/-- Chapter 16: 0x0008_0008 clears bit 3 of a sticky register; 0x0008_0000 leaves it. -/
theorem test_sticky_clear :
    (match exec (.errStickyWrite .host 0x300C 0x00080008) (regState [(Reg.HDR.ERR_STICKY 0x3000, 8)]) with
      | .next t => rd t.block (Reg.HDR.ERR_STICKY 0x3000) | _ => 99) = 0 ∧
    (match exec (.errStickyWrite .host 0x300C 0x00080000) (regState [(Reg.HDR.ERR_STICKY 0x3000, 8)]) with
      | .next t => rd t.block (Reg.HDR.ERR_STICKY 0x3000) | _ => 99) = 8 := by decide +kernel
/-- FIPS 180-4's digest of "abc"; the check values of CRC-32C (R421). -/
theorem test_sha256 : beNat (sha256 [0x61, 0x62, 0x63]) = 0xBA7816BF8F01CFEA414140DE5DAE2223B00361A396177A9CB410FF61F20015AD := by decide +kernel
theorem test_crc32c : crc32c [0x31, 0x32, 0x33, 0x34, 0x35, 0x36, 0x37, 0x38, 0x39] = 0xE3069283 := by decide +kernel
end

