-- ==== Sys2Proof/Proofs/TokenTables.lean ====
section
/-! PROOF. Token and barrier tables: a write that R88 refuses leaves a report on the owning page, and nothing else. -/

namespace Sys2Proof.Machine

/-- A page in a cluster block lies above the die-level pages that hold the log's and the event ring's registers. -/
theorem pageRec_apart_of_le {p : Nat} (h : 0x200000 ≤ p) : (pageRec p).apart = true := by
  simp only [ErrRec.apart, pageRec, ErrRec.sticky, ErrRec.first, ErrRec.firstTime, List.contains_eq_mem, Bool.not_eq_true',
    decide_eq_false_iff_not, List.mem_cons, List.not_mem_nil, or_false, not_or, Field.key, Reg.HDR.ERR_STICKY, Reg.HDR.ERR_FIRST,
    Reg.HDR.ERR_FIRST_TIME, Reg.MGT.LOG_WRITTEN, Reg.MGT.LOG_OLDEST, Reg.PCI.EVT_WRITTEN, Reg.PCI.EVT_LOST]
  omega

/-- An entry of a list below a positive bound, or its default 0, is below the bound. -/
theorem getD_zero_lt {l : List Nat} {n : Nat} (hn : 0 < n) (hl : ∀ x ∈ l, x < n) (i : Nat) : l.getD i 0 < n := by
  rw [List.getD_eq_getElem?_getD]
  cases hx : l[i]? with
  | none => exact hn
  | some x => exact hl x (List.mem_of_getElem? hx)

/-- Block types from 0x10 on are those of pages in cluster blocks (R374). -/
theorem le_of_le_pageType {p : Nat} (h : 0x10 ≤ pageType p) : 0x200000 ≤ p := by
  refine Nat.le_of_not_lt fun hp => absurd h (Nat.not_le.2 ?_)
  by_cases h9 : p < 0x9000
  · simp only [pageType, if_pos h9]
    exact getD_zero_lt (by decide) (by decide) _
  · simp only [pageType, if_neg h9, if_pos hp]
    exact getD_zero_lt (by decide) (by decide) _

/-- Token and barrier tables lie on core and store pages alone. -/
theorem tableReg_page {a k i : Nat} (h : tableReg a = some (k, i)) : 0x200000 ≤ pageOf a := by
  have htype : pageType (pageOf a) = 0x20 ∨ pageType (pageOf a) = 0x13 := by
    simp only [tableReg] at h
    split at h
    next => cases h
    split at h
    next hcore => exact .inl hcore.1
    split at h
    next hbarrier => exact .inl hbarrier.1
    split at h
    next hstore => exact .inr hstore.1
    next => cases h
  exact le_of_le_pageType (by omega)

/-- A written region that meets another valid slot of its table is refused. -/
theorem regionRefused_of_meetsOther {s : Block} {a k i v : Nat} (h : meetsOther s a k i v) : regionRefused s a k i v = true := by
  obtain ⟨hvalid, hlen, j, hj, hne, hv, hsp, hm⟩ := h
  simp only [regionRefused, Bool.and_eq_true, Bool.or_eq_true, List.any_eq_true, List.mem_range, bne_iff_ne, beq_iff_eq]
  exact ⟨⟨hvalid, hlen⟩, .inr ⟨j, hj, ⟨⟨hne, hv⟩, hsp⟩, hm⟩⟩

/-- A table write to a core or cluster in a job only reports. -/
theorem doTokenTableWrite_inJob {s : Block} {rq : Requester} {a v k i : Nat} (ht : tableReg a = some (k, i))
    (hp : pageResponds s (pageOf a) = true) (hj : tableInJob s a = true) :
    doTokenTableWrite s rq a v = raisePage s (pageOf a) ErrBit.COR.TABLE_WRITE_IN_JOB := by
  simp [doTokenTableWrite, ht, hp, hj]

/-- A write of a refused region outside a job only reports. -/
theorem doTokenTableWrite_refused {s : Block} {rq : Requester} {a v k i : Nat} (ht : tableReg a = some (k, i))
    (hp : pageResponds s (pageOf a) = true) (hj : tableInJob s a = false) (hk : k < 2) (hr : regionRefused s a k i v = true) :
    doTokenTableWrite s rq a v = raisePage s (pageOf a) ErrBit.COR.TOKEN_OVERLAP := by
  simp [doTokenTableWrite, ht, hp, hj, hk, hr]

/-- A table write that ends in a report sets the report's bit and leaves everything that no report writes. -/
theorem yields_tokenTableWrite_report {s : State} {rq : Requester} {a : BitVec 26} {v : BitVec 32} {n : Nat} (hn : n < 16)
    (hpage : 0x200000 ≤ pageOf a.toNat) (h : doTokenTableWrite s.block rq a.toNat v.toNat = raisePage s.block (pageOf a.toNat) n) :
    Yields (.tokenTableWrite rq a v) s (fun b => stickyBit b (pageOf a.toNat) n = true ∧ memKept s.block b ∧
      tablesKept s.block b ∧ regsKept (reportKeys (pageOf a.toNat)) s.block b) := by
  refine yields_run (f := fun t => doTokenTableWrite t rq a.toNat v.toNat) rfl ?_
  simp only [h]
  exact ⟨bit_raisePage_store _ _ (pageRec_apart_of_le hpage) hn, memKept_of_same (sameMem_raisePage _ _ _),
    tablesKept_raisePage (tablesKept_refl _), regsKept_raisePage (fun _ hk => hk) (regsKept_refl _ _)⟩

/-- Settles O53: each refused write takes the branch of the table write that only reports, on a page whose record is its own. -/
theorem tokenTablesIgnoreOverlapsAndWritesInAJob : Obligations.TokenTablesIgnoreOverlapsAndWritesInAJob := by
  intro s rq a v k i ht hp
  have hpage := tableReg_page ht
  constructor
  · intro hj hk hm
    exact yields_tokenTableWrite_report (by decide) hpage
      (doTokenTableWrite_refused ht hp hj hk (regionRefused_of_meetsOther hm))
  · intro hj
    exact yields_tokenTableWrite_report (by decide) hpage (doTokenTableWrite_inJob ht hp hj)

end Sys2Proof.Machine
end

