-- ==== Sys2Proof/Proofs/Power.lean ====
section
/-! PROOF. The supply, the power window and the measured temperatures (R304, R305, R311, R318, R319, R321): what each report of the power page
and of the memory units leaves in the registers, the region gates and the memories. -/

namespace Sys2Proof.Machine

/-! ### Reports of the power page -/

/-- Every register that a report of the power page writes lies on the pages up to the management page, and is no temperature point. -/
theorem mem_raiseKeys_pwr : ∀ k ∈ raiseKeys (pageRec pwr), k < 0x3100 * 32 ∨ 0x3200 * 32 ≤ k ∧ k < 0x6000 * 32 := by decide

theorem notMem_raiseKeys_pwr {k : Nat} (h : 0x6000 * 32 ≤ k) : k ∉ raiseKeys (pageRec pwr) :=
  fun hk => by have := mem_raiseKeys_pwr k hk; omega

theorem stickyBit_raisePage_pwr (s : Block) {i : Nat} (hi : i < 16) : stickyBit (raisePage s pwr i) pwr i = true :=
  bit_raise_same s (pageRec pwr) (by decide) hi

theorem stickyBit_congr {s t : Block} {p i : Nat} (h : rd t (Reg.HDR.ERR_STICKY p) = rd s (Reg.HDR.ERR_STICKY p)) :
    stickyBit t p i = stickyBit s p i := by simp only [stickyBit, h]

theorem isLive_congr {s t : Block} {p i : Nat} (h : rd t (Reg.HDR.STATUS p) = rd s (Reg.HDR.STATUS p)) : isLive t p i = isLive s p i :=
  isLive_keep s t p i h

/-! ### Memories across register writes and reports -/

theorem memKept_wr {a b : Block} {f : Field} {v : Nat} (h : memKept a b) : memKept a (wr b f v) := h
theorem memKept_incSat {a b : Block} {f : Field} {n : Nat} (h : memKept a b) : memKept a (incSat b f n) := h
theorem memKept_raisePage {a b : Block} {p i : Nat} (h : memKept a b) : memKept a (raisePage b p i) :=
  memKept_trans h (memKept_of_same (sameMem_raisePage b p i))
theorem memKept_live {a b : Block} {p i : Nat} {v : Bool} (h : memKept a b) : memKept a (live b p i v) :=
  memKept_trans h (memKept_of_same (sameMem_live b p i v))

/-! ### Region stops for a sag or a trip (R74, R305, R318) -/

/-- The registers of a region that the closing of its gate writes. -/
def stopKeys (c : Nat) : List Nat :=
  [(Reg.CLK.FREQ_NOW_STOPPED (clkPage c)).key, (Reg.CLK.STOP_LOG_DROOP_WAIT (clkPage c)).key,
    (Reg.CLK.STOP_LOG_DROOP_IN_STOP (clkPage c)).key, (Reg.CLK.STOP_LOG_SAG_STOP (clkPage c)).key]

/-- The registers of the regions lie in the cluster blocks. -/
theorem notMem_stopKeys {k c : Nat} (h : k < 0x200000 * 32) : k ∉ stopKeys c := by
  simp only [stopKeys, Field.key, Reg.CLK.FREQ_NOW_STOPPED, Reg.CLK.STOP_LOG_DROOP_WAIT, Reg.CLK.STOP_LOG_DROOP_IN_STOP,
    Reg.CLK.STOP_LOG_SAG_STOP, clkPage, cluPage, List.mem_cons, List.not_mem_nil, or_false, not_or]
  omega

theorem uncover_cases (s : Block) (c : Nat) : uncover s c = s ∨ uncover s c = setClus s c { clus s c with uncovered := true } := by
  unfold uncover when
  split
  · exact .inr rfl
  · exact .inl rfl

@[simp] theorem uncover_store (s : Block) (c : Nat) : (uncover s c).store = s.store := by
  rcases uncover_cases s c with e | e <;> rw [e]
  rfl
@[simp] theorem uncover_power (s : Block) (c : Nat) : (uncover s c).power = s.power := by
  rcases uncover_cases s c with e | e <;> rw [e]
  rfl
theorem clus_uncover_ne (s : Block) {c d : Nat} (h : d ≠ c) : clus (uncover s c) d = clus s d := by
  rcases uncover_cases s c with e | e <;> rw [e]
  exact clus_setClus_ne s _ h

/-- A sag stop joins the stop in progress, or closes the gate. -/
theorem sagStop_cases (s : Block) (f c : Nat) :
    (∃ x : ClusterSt, x.gateClosed.isSome = true ∧ sagStop s f c = setClus (uncover s c) c x) ∨
      ∃ restart scheduled wait, sagStop s f c = closeGate (uncover s c) c restart scheduled true wait := by
  unfold sagStop
  simp only []
  split
  next hclosed => exact .inl ⟨{ clus (uncover s c) c with restart := min (clus (uncover s c) c).restart f }, hclosed, rfl⟩
  next =>
    split
    · exact .inr ⟨_, _, _, rfl⟩
    · exact .inr ⟨_, _, _, rfl⟩

theorem clus_closeGate_ne (s : Block) {c d : Nat} (restart wait : Nat) (scheduled sag : Bool) (h : d ≠ c) :
    clus (closeGate s c restart scheduled sag wait) d = clus s d := clus_setClus_ne s _ h

theorem gateClosed_closeGate (s : Block) (c restart wait : Nat) (scheduled sag : Bool) :
    (clus (closeGate s c restart scheduled sag wait) c).gateClosed = some (now s) :=
  congrArg ClusterSt.gateClosed (clus_setClus s c _)

theorem regsKept_closeGate (s : Block) (c restart wait : Nat) (scheduled sag : Bool) :
    regsKept (stopKeys c) s (closeGate s c restart scheduled sag wait) := by
  refine regsKept_wr (by simp [stopKeys]) (regsKept_wr (by simp [stopKeys]) (regsKept_wr (by simp [stopKeys])
    (regsKept_wr (by simp [stopKeys]) ?_)))
  exact fun f _ => rd_setClus s c _ f

theorem gateClosed_sagStop (s : Block) (f c : Nat) : (clus (sagStop s f c) c).gateClosed.isSome = true := by
  rcases sagStop_cases s f c with ⟨x, hx, e⟩ | ⟨restart, scheduled, wait, e⟩ <;> rw [e]
  · rw [clus_setClus, hx]
  · rw [gateClosed_closeGate]; rfl

theorem clus_sagStop_ne (s : Block) (f : Nat) {c d : Nat} (h : d ≠ c) : clus (sagStop s f c) d = clus s d := by
  rw [← clus_uncover_ne s h]
  rcases sagStop_cases s f c with ⟨x, -, e⟩ | ⟨restart, scheduled, wait, e⟩ <;> rw [e]
  · exact clus_setClus_ne _ _ h
  · exact clus_closeGate_ne _ _ _ _ _ h

@[simp] theorem sagStop_power (s : Block) (f c : Nat) : (sagStop s f c).power = s.power := by
  rw [← uncover_power s c]
  rcases sagStop_cases s f c with ⟨x, -, e⟩ | ⟨restart, scheduled, wait, e⟩ <;> rw [e] <;> rfl

theorem sameMem_sagStop (s : Block) (f c : Nat) : sameMem s (sagStop s f c) := by
  have h : sameMem s (uncover s c) := by simp [sameMem]
  rcases sagStop_cases s f c with ⟨x, -, e⟩ | ⟨restart, scheduled, wait, e⟩ <;> rw [e] <;> exact h

theorem regsKept_sagStop (s : Block) (f c : Nat) : regsKept (stopKeys c) s (sagStop s f c) := by
  have h : regsKept (stopKeys c) s (uncover s c) := fun g _ => rd_congr g (by rw [uncover_store])
  rcases sagStop_cases s f c with ⟨x, -, e⟩ | ⟨restart, scheduled, wait, e⟩ <;> rw [e]
  · exact h
  · exact regsKept_trans h (regsKept_closeGate _ _ _ _ _ _)

/-- A register of a die-level page is none of a region's. -/
theorem rd_sagStop (s : Block) (f c : Nat) {g : Field} (h : g.key < 0x200000 * 32) : rd (sagStop s f c) g = rd s g :=
  regsKept_sagStop s f c g (notMem_stopKeys h)

/-- A sag stop in each of the first n regions. -/
def stopRegions (n : Nat) (s : Block) : Block := overN n (fun c t => sagStop t (floorOf t) c) s

theorem stopRegions_succ (n : Nat) (s : Block) :
    stopRegions (n + 1) s = sagStop (stopRegions n s) (floorOf (stopRegions n s)) n := by
  simp [stopRegions, overN, List.range_succ]

theorem gateClosed_stopRegions (s : Block) {n d : Nat} (h : d < n) : (clus (stopRegions n s) d).gateClosed.isSome = true := by
  induction n with
  | zero => exact absurd h (Nat.not_lt_zero d)
  | succ n ih =>
    rw [stopRegions_succ]
    by_cases hd : d = n
    · rw [hd]; exact gateClosed_sagStop _ _ _
    · rw [clus_sagStop_ne _ _ hd]; exact ih (by omega)

theorem rd_stopRegions (n : Nat) (s : Block) {g : Field} (h : g.key < 0x200000 * 32) : rd (stopRegions n s) g = rd s g :=
  rd_overN n _ s g (fun _ _ => rd_sagStop _ _ _ h)

theorem memKept_stopRegions {a b : Block} {n : Nat} (h : memKept a b) : memKept a (stopRegions n b) :=
  overN_keeps (memKept a) n _ b h (fun _ _ ht => memKept_trans ht (memKept_of_same (sameMem_sagStop _ _ _)))

/-! ### The supply (R304, R305) -/

theorem sagLive_eq {s : Block} {v : Bool} (h : rd s Reg.PWR.LIVE_SAG_WARN = b2n v) : sagLive s = v := by
  simp only [sagLive, flag, h]
  cases v <;> rfl

/-- The module with a sag shown and counted. -/
def sagShown (s : Block) (mv : Nat) : Block :=
  live (incSat (wr (wr s Reg.PWR.INPUT_MV mv) Reg.PWR.LIVE_SAG_WARN 1) Reg.PWR.SAG_COUNT 1) pwr ErrBit.PWR.SAG_WARN true

theorem doSagWarn_low {s : Block} {mv : Nat} (hmv : mv < 42000) (hs : sagLive s = false) :
    doSagWarn s mv = stopRegions 16 (sagShown s mv) := if_pos ⟨hmv, by rw [hs]; rfl⟩

theorem doSagClear_high {s : Block} {mv : Nat} (hmv : 43000 ≤ mv) (hs : sagLive s = true) :
    doSagClear s mv = live (wr (wr s Reg.PWR.INPUT_MV mv) Reg.PWR.LIVE_SAG_WARN 0) pwr ErrBit.PWR.SAG_WARN false := if_pos ⟨hmv, hs⟩

theorem doOvervolt_high {s : Block} {mv : Nat} (h : 60000 < mv) :
    doOvervolt s mv = raisePage (wr s Reg.PWR.INPUT_MV mv) pwr ErrBit.PWR.OVERVOLT := if_pos h

theorem yields_sagWarn {s : State} {mv : Nat} (hmv : mv < 42000) (hs : sagLive s.block = false) :
    Yields (.sagWarn mv) s (fun b => rd b Reg.PWR.INPUT_MV = mv ∧ sagLive b = true ∧ isLive b pwr ErrBit.PWR.SAG_WARN = true ∧
      rd b Reg.PWR.SAG_COUNT = min (rd s.block Reg.PWR.SAG_COUNT + 1) (2 ^ Reg.PWR.SAG_COUNT.width - 1) ∧
      (∀ cl : Fin 16, (clus b cl).gateClosed.isSome = true) ∧ memKept s.block b) := by
  refine yields_run (f := fun t => doSagWarn t mv) rfl ?_
  simp only [doSagWarn_low hmv hs]
  have hmod : mv % 2 ^ Reg.PWR.INPUT_MV.width = mv := Nat.mod_eq_of_lt (by simp only [Reg.PWR.INPUT_MV]; omega)
  refine ⟨?_, sagLive_eq ?_, ?_, ?_, fun cl => gateClosed_stopRegions _ cl.isLt, ?_⟩
  · simp (disch := decide) only [sagShown, rd_stopRegions, rd_live, rd_incSat_ne, rd_wr_ne, rd_wr_same, hmod]
  · simp (disch := decide) only [sagShown, rd_stopRegions, rd_live, rd_incSat_ne, rd_wr_same]
    rfl
  · rw [isLive_congr (rd_stopRegions 16 _ (by decide))]
    exact isLive_live _ _ _ _ (by decide) (by decide)
  · simp (disch := decide) only [sagShown, rd_stopRegions, rd_live, rd_incSat_same, rd_wr_ne]
  · exact memKept_stopRegions (memKept_live (memKept_incSat (memKept_wr (memKept_wr (memKept_refl _)))))

theorem yields_sagClear {s : State} {mv : Nat} (hmv : 43000 ≤ mv) (hs : sagLive s.block = true) :
    Yields (.sagClear mv) s (fun b => rd b Reg.PWR.INPUT_MV = mv % 2 ^ 16 ∧ sagLive b = false ∧ isLive b pwr ErrBit.PWR.SAG_WARN = false ∧
      memKept s.block b ∧ regsKept (Reg.PWR.INPUT_MV.key :: Reg.PWR.LIVE_SAG_WARN.key :: reportKeys pwr) s.block b) := by
  refine yields_run (f := fun t => doSagClear t mv) rfl ?_
  simp only [doSagClear_high hmv hs]
  refine ⟨?_, sagLive_eq ?_, isLive_live _ _ _ _ (by decide) (by decide), ?_, ?_⟩
  · simp (disch := decide) only [rd_live, rd_wr_ne, rd_wr_same]
    rfl
  · simp (disch := decide) only [rd_live, rd_wr_same]
    rfl
  · exact memKept_live (memKept_wr (memKept_wr (memKept_refl _)))
  · exact regsKept_live (fun _ h => List.mem_cons_of_mem _ (List.mem_cons_of_mem _ h)) (regsKept_wr (by simp) (regsKept_wr (by simp) (regsKept_refl _ _)))

theorem yields_overvolt {s : State} {mv : Nat} (h : 60000 < mv) :
    Yields (.overvolt mv) s (fun b => rd b Reg.PWR.INPUT_MV = mv % 2 ^ 16 ∧ stickyBit b pwr ErrBit.PWR.OVERVOLT = true ∧ memKept s.block b ∧
      tablesKept s.block b ∧ regsKept (Reg.PWR.INPUT_MV.key :: reportKeys pwr) s.block b) := by
  refine yields_run (f := fun t => doOvervolt t mv) rfl ?_
  simp only [doOvervolt_high h]
  refine ⟨?_, stickyBit_raisePage_pwr _ (by decide), ?_, ?_, ?_⟩
  · simp (disch := decide) only [rd_raisePage, rd_wr_same]
    rfl
  · exact memKept_raisePage (memKept_wr (memKept_refl _))
  · exact tablesKept_raisePage (tablesKept_wr (tablesKept_refl _))
  · exact regsKept_raisePage (fun _ h => List.mem_cons_of_mem _ h) (regsKept_wr (by simp) (regsKept_refl _ _))

/-! ### The power window (R309, R311) -/

/-- The module with a window's draw and its lowest input shown. -/
def windowShown (s : Block) (avg peak minMv : Nat) : Block :=
  wr (wr (wr s Reg.PWR.DRAW_AVG (min avg 4095)) Reg.PWR.DRAW_PEAK (min peak 4095)) Reg.PWR.INPUT_MIN_MV minMv

/-- The module with the draw above the cap reported, and the correction shown. -/
def capExceeded (s : Block) (correction : Nat) : Block :=
  showCap (wr (raisePage s pwr ErrBit.PWR.CAP_EXCEEDED) Reg.PWR.CAP_EFF_CORRECTION correction)

theorem rd_showCap (s : Block) {f : Field} (he : f.key ≠ Reg.PWR.CAP_EFF_EFFECTIVE.key) (hp : f.key ≠ Reg.PWR.TOKENS_POOL.key) :
    rd (showCap s) f = rd s f := by rw [showCap, rd_wr_ne _ _ hp, rd_wr_ne _ _ he]

/-- The cap in effect rests on none of what a window shows. -/
theorem capEff_windowShown (s : Block) (avg peak minMv : Nat) : capEff (windowShown s avg peak minMv) = capEff s := by
  simp (disch := decide) only [capEff, windowShown, rd_wr_ne]

section Window
variable {s : Block} {avg : Nat} (peak minMv : Nat) (hnow : now s ≠ 0) (hdue : now s % 2 ^ rd s Reg.PWR.SAMPLE_CTRL = 0)
include hnow hdue

theorem doWindowEnd_within (h : avg ≤ capEff s) : doWindowEnd s avg peak minMv = windowShown s avg peak minMv := by
  have hc : ¬ capEff (windowShown s avg peak minMv) < avg := by rw [capEff_windowShown]; omega
  rw [doWindowEnd, if_neg (by simp [hnow, hdue])]
  exact if_neg hc

theorem doWindowEnd_over (h : capEff s < avg) : doWindowEnd s avg peak minMv =
    capExceeded (windowShown s avg peak minMv) (min 4095 (rd s Reg.PWR.CAP_EFF_CORRECTION + (avg - capEff s))) := by
  have hr : rd (windowShown s avg peak minMv) Reg.PWR.CAP_EFF_CORRECTION = rd s Reg.PWR.CAP_EFF_CORRECTION := by
    simp (disch := decide) only [windowShown, rd_wr_ne]
  rw [← capEff_windowShown s avg peak minMv] at h ⊢
  rw [← hr, doWindowEnd, if_neg (by simp [hnow, hdue])]
  exact if_pos h

end Window

theorem yields_powerWindowEnd {s : State} {avg peak minMv : Nat} (havg : avg ≤ 4095) (hpeak : peak ≤ 4095) (hmin : minMv < 2 ^ 16)
    (hnow : now s.block ≠ 0) (hdue : now s.block % 2 ^ rd s.block Reg.PWR.SAMPLE_CTRL = 0) :
    Yields (.powerWindowEnd avg peak minMv) s (fun b => rd b Reg.PWR.DRAW_AVG = avg ∧ rd b Reg.PWR.DRAW_PEAK = peak ∧
      rd b Reg.PWR.INPUT_MIN_MV = minMv ∧ memKept s.block b ∧ tablesKept s.block b ∧
      (avg ≤ capEff s.block → rd b Reg.PWR.CAP_EFF_CORRECTION = rd s.block Reg.PWR.CAP_EFF_CORRECTION) ∧
      (capEff s.block < avg → stickyBit b pwr ErrBit.PWR.CAP_EXCEEDED = true ∧
        rd b Reg.PWR.CAP_EFF_CORRECTION =
          min 4095 (rd s.block Reg.PWR.CAP_EFF_CORRECTION + (avg - capEff s.block)) % 2 ^ Reg.PWR.CAP_EFF_CORRECTION.width)) := by
  refine yields_run (f := fun t => doWindowEnd t avg peak minMv) rfl ?_
  have hmem : memKept s.block (windowShown s.block avg peak minMv) := memKept_refl _
  have htab : tablesKept s.block (windowShown s.block avg peak minMv) := tablesKept_wr (tablesKept_wr (tablesKept_wr (tablesKept_refl _)))
  have ha : min avg 4095 % 2 ^ Reg.PWR.DRAW_AVG.width = avg := by simp only [Reg.PWR.DRAW_AVG]; omega
  have hp : min peak 4095 % 2 ^ Reg.PWR.DRAW_PEAK.width = peak := by simp only [Reg.PWR.DRAW_PEAK]; omega
  have hm : minMv % 2 ^ Reg.PWR.INPUT_MIN_MV.width = minMv := Nat.mod_eq_of_lt hmin
  rcases Nat.lt_or_ge (capEff s.block) avg with hover | hwithin
  · simp only [doWindowEnd_over peak minMv hnow hdue hover]
    refine ⟨?_, ?_, ?_, memKept_wr (memKept_wr (memKept_wr (memKept_raisePage hmem))),
      tablesKept_wr (tablesKept_wr (tablesKept_wr (tablesKept_raisePage htab))), fun h => absurd hover (Nat.not_lt.2 h), fun _ => ⟨?_, ?_⟩⟩
    · simp (disch := decide) only [capExceeded, windowShown, rd_showCap, rd_raisePage, rd_wr_ne, rd_wr_same, ha]
    · simp (disch := decide) only [capExceeded, windowShown, rd_showCap, rd_raisePage, rd_wr_ne, rd_wr_same, hp]
    · simp (disch := decide) only [capExceeded, windowShown, rd_showCap, rd_raisePage, rd_wr_ne, rd_wr_same, hm]
    · rw [← stickyBit_raisePage_pwr (windowShown s.block avg peak minMv) (i := ErrBit.PWR.CAP_EXCEEDED) (by decide)]
      exact stickyBit_congr (by simp (disch := decide) only [capExceeded, rd_showCap, rd_wr_ne])
    · simp (disch := decide) only [capExceeded, rd_showCap, rd_wr_same]
  · simp only [doWindowEnd_within peak minMv hnow hdue hwithin]
    refine ⟨?_, ?_, ?_, hmem, htab, fun _ => ?_, fun h => absurd h (Nat.not_lt.2 hwithin)⟩
    · simp (disch := decide) only [windowShown, rd_wr_ne, rd_wr_same, ha]
    · simp (disch := decide) only [windowShown, rd_wr_ne, rd_wr_same, hp]
    · simp (disch := decide) only [windowShown, rd_wr_same, hm]
    · simp (disch := decide) only [windowShown, rd_wr_ne]

/-! ### Measured temperatures (R318, R319, R321) -/

theorem point_key_inj {p q : Nat} (h : q ≠ p) : (Reg.PWR.THERM_POINT q).key ≠ (Reg.PWR.THERM_POINT p).key := by
  simp only [Field.key, Reg.PWR.THERM_POINT]; omega

theorem point_key_ne_thermal {p c : Nat} (h : p < 64) : (Reg.PWR.THERM_POINT p).key ≠ (Reg.CLK.THERMAL_DEGC (clkPage c)).key := by
  simp only [Field.key, Reg.PWR.THERM_POINT, Reg.CLK.THERMAL_DEGC, clkPage, cluPage]; omega

theorem point_key_range {p : Nat} (h : p < 64) :
    0x3100 * 32 ≤ (Reg.PWR.THERM_POINT p).key ∧ (Reg.PWR.THERM_POINT p).key < 0x3200 * 32 := by
  simp only [Field.key, Reg.PWR.THERM_POINT]; omega

theorem rd_showHottest (s : Block) {f : Field} (hd : f.key ≠ Reg.PWR.TEMP_MAX_DEGC.key) (hp : f.key ≠ Reg.PWR.TEMP_MAX_POINT.key) :
    rd (showHottest s) f = rd s f := by simp only [showHottest, rd_wr_ne _ _ hp, rd_wr_ne _ _ hd]

theorem rd_showHottest_point (s : Block) (p : Nat) : rd (showHottest s) (Reg.PWR.THERM_POINT p) = rd s (Reg.PWR.THERM_POINT p) := by
  refine rd_showHottest s ?_ ?_ <;> simp only [Field.key, Reg.PWR.THERM_POINT, Reg.PWR.TEMP_MAX_DEGC, Reg.PWR.TEMP_MAX_POINT] <;> omega

theorem rd_showHottest_thermal (s : Block) (c : Nat) :
    rd (showHottest s) (Reg.CLK.THERMAL_DEGC (clkPage c)) = rd s (Reg.CLK.THERMAL_DEGC (clkPage c)) := by
  refine rd_showHottest s ?_ ?_ <;>
    simp only [Field.key, Reg.CLK.THERMAL_DEGC, clkPage, cluPage, Reg.PWR.TEMP_MAX_DEGC, Reg.PWR.TEMP_MAX_POINT] <;> omega

theorem rd_notePoint_same (s : Block) {p : Nat} (d : Nat) (hp : p < 64) : rd (notePoint s p d) (Reg.PWR.THERM_POINT p) = min d 255 := by
  rw [notePoint, rd_showHottest_point, rd_wr_ne _ _ (point_key_ne_thermal hp), rd_wr_same]
  simp only [Reg.PWR.THERM_POINT]
  omega

theorem rd_notePoint_ne (s : Block) {p q : Nat} (d : Nat) (hq : q < 64) (h : q ≠ p) :
    rd (notePoint s p d) (Reg.PWR.THERM_POINT q) = rd s (Reg.PWR.THERM_POINT q) := by
  rw [notePoint, rd_showHottest_point, rd_wr_ne _ _ (point_key_ne_thermal hq), rd_wr_ne _ _ (point_key_inj h)]

/-- Noting a point leaves the registers below the points, but for the hottest point's. -/
theorem rd_notePoint_of_lt (s : Block) (p d : Nat) {f : Field} (h : f.key < 0x3100 * 32) (hd : f.key ≠ Reg.PWR.TEMP_MAX_DEGC.key)
    (hp : f.key ≠ Reg.PWR.TEMP_MAX_POINT.key) : rd (notePoint s p d) f = rd s f := by
  rw [notePoint, rd_showHottest _ hd hp, rd_wr_ne, rd_wr_ne]
  · simp only [Field.key, Reg.PWR.THERM_POINT] at h ⊢; omega
  · simp only [Field.key, Reg.CLK.THERMAL_DEGC, clkPage, cluPage] at h ⊢; omega

/-- The hottest of a cluster's four points. -/
def clusterMax (s : Block) (c : Nat) : Nat :=
  max (max (rd s (Reg.PWR.THERM_POINT (4 * c))) (rd s (Reg.PWR.THERM_POINT (4 * c + 1))))
    (max (rd s (Reg.PWR.THERM_POINT (4 * c + 2))) (rd s (Reg.PWR.THERM_POINT (4 * c + 3))))

theorem clusterMax_lt (s : Block) (c : Nat) : clusterMax s c < 2 ^ 8 := by
  have h : ∀ p, rd s (Reg.PWR.THERM_POINT p) < 2 ^ 8 := fun p => rd_lt s _
  exact Nat.max_lt.2 ⟨Nat.max_lt.2 ⟨h _, h _⟩, Nat.max_lt.2 ⟨h _, h _⟩⟩

/-- Where a point was noted, its cluster shows the hottest of its points. -/
theorem rd_notePoint_thermal (s : Block) {p c : Nat} (d : Nat) (hc : c < 16) (hp : p / 4 = c) :
    rd (notePoint s p d) (Reg.CLK.THERMAL_DEGC (clkPage c)) = clusterMax (notePoint s p d) c := by
  have hpoint : ∀ q, q < 64 → rd (notePoint s p d) (Reg.PWR.THERM_POINT q) =
      rd (wr s (Reg.PWR.THERM_POINT p) (min d 255)) (Reg.PWR.THERM_POINT q) :=
    fun q hq => by rw [notePoint, rd_showHottest_point, rd_wr_ne _ _ (point_key_ne_thermal hq)]
  have hmax : clusterMax (notePoint s p d) c = clusterMax (wr s (Reg.PWR.THERM_POINT p) (min d 255)) c := by
    simp (disch := omega) only [clusterMax, hpoint]
  rw [hmax, notePoint, rd_showHottest_thermal, hp, rd_wr_same, ← Nat.mod_eq_of_lt (clusterMax_lt _ c)]
  simp only [clusterMax, List.range_succ, List.range_zero]
  simp [Reg.CLK.THERMAL_DEGC, Nat.max_assoc]

theorem memKept_showHottest {a b : Block} (h : memKept a b) : memKept a (showHottest b) := memKept_wr (memKept_wr h)
theorem memKept_notePoint {a b : Block} {p d : Nat} (h : memKept a b) : memKept a (notePoint b p d) :=
  memKept_showHottest (memKept_wr (memKept_wr h))

theorem endTrip_store (s : Block) : (endTrip s).store = s.store := by
  unfold endTrip
  split <;> rfl

theorem rd_endTrip (s : Block) (f : Field) : rd (endTrip s) f = rd s f := rd_congr f (by rw [endTrip_store])

theorem memKept_endTrip {a b : Block} (h : memKept a b) : memKept a (endTrip b) := by
  simpa only [memKept, endTrip_store] using h

theorem yields_thermalSample {s : State} {cl : Fin 16} {t0 t1 t2 t3 : Nat} (h0 : t0 < 256) (h1 : t1 < 256) (h2 : t2 < 256) (h3 : t3 < 256) :
    Yields (.thermalSample cl t0 t1 t2 t3) s (fun b => rd b (Reg.PWR.THERM_POINT (4 * cl)) = t0 ∧ rd b (Reg.PWR.THERM_POINT (4 * cl + 1)) = t1 ∧
      rd b (Reg.PWR.THERM_POINT (4 * cl + 2)) = t2 ∧ rd b (Reg.PWR.THERM_POINT (4 * cl + 3)) = t3 ∧
      rd b (Reg.CLK.THERMAL_DEGC (clkPage cl)) = max (max t0 t1) (max t2 t3) ∧ memKept s.block b) := by
  refine yields_run (f := fun t => doThermalSample t cl t0 t1 t2 t3) rfl ?_
  have hcl := cl.isLt
  have hmin : ∀ t, t < 256 → min t 255 = t := fun t ht => by omega
  simp (disch := omega) only [doThermalSample, rd_endTrip, rd_notePoint_thermal, clusterMax, rd_notePoint_same, rd_notePoint_ne, hmin,
    true_and]
  exact memKept_endTrip (memKept_notePoint (memKept_notePoint (memKept_notePoint (memKept_notePoint (memKept_refl _)))))

/-- A charge adds to the health events and to the log, and to nothing else. -/
theorem charge_cases (s : Block) (kind place gap : Nat) :
    charge s kind place gap = s ∨ ∃ m d, charge s kind place gap = logEntry { s with mgmt := m } 5 kind 0 d := by
  unfold charge
  split
  · exact .inl rfl
  · exact .inr ⟨_, _, rfl⟩

theorem rd_charge (s : Block) (kind place gap : Nat) {f : Field} (hw : f.key ≠ Reg.MGT.LOG_WRITTEN.key) (ho : f.key ≠ Reg.MGT.LOG_OLDEST.key) :
    rd (charge s kind place gap) f = rd s f := by
  rcases charge_cases s kind place gap with e | ⟨m, d, e⟩ <;> rw [e]
  exact rd_logEntry _ _ _ _ _ f hw ho

@[simp] theorem charge_power (s : Block) (kind place gap : Nat) : (charge s kind place gap).power = s.power := by
  rcases charge_cases s kind place gap with e | ⟨m, d, e⟩ <;> rw [e]
  exact logEntry_power _ _ _ _ _

@[simp] theorem clus_charge (s : Block) (kind place gap c : Nat) : clus (charge s kind place gap) c = clus s c := by
  rcases charge_cases s kind place gap with e | ⟨m, d, e⟩ <;> rw [e]
  simp only [clus, logEntry_clusters]

/-- The module in a trip, since the first point that tripped. -/
def inTrip (s : Block) : Block :=
  { s with power := { s.power with tripped := true, tripAt := if s.power.tripped then s.power.tripAt else now s } }

@[simp] theorem rd_inTrip (s : Block) (f : Field) : rd (inTrip s) f = rd s f := rfl

/-- A trip of a cluster reported and charged, its region stopped. -/
def tripReported (s : Block) (c : Nat) : Block := charge (sagStop (raisePage s pwr ErrBit.PWR.THERM_TRIP) 40 c) 4 0 0

theorem rd_tripReported (s : Block) (c : Nat) {f : Field} (hd : f.key < 0x200000 * 32) (hr : f.key ∉ raiseKeys (pageRec pwr)) :
    rd (tripReported s c) f = rd s f := by
  have hlog : ∀ k ∈ raiseKeys (pageRec pwr), f.key ≠ k := fun k hk e => hr (e ▸ hk)
  rw [tripReported, rd_charge _ _ _ _ (hlog _ (by decide)) (hlog _ (by decide)), rd_sagStop _ _ _ hd, rd_raisePage _ _ _ _ hr]

theorem stickyBit_tripReported (s : Block) (c : Nat) : stickyBit (tripReported s c) pwr ErrBit.PWR.THERM_TRIP = true := by
  rw [← stickyBit_raisePage_pwr s (i := ErrBit.PWR.THERM_TRIP) (by decide)]
  exact stickyBit_congr (by simp (disch := decide) only [tripReported, rd_charge, rd_sagStop])

theorem doThermalTrip_hot (s : Block) (p : Nat) {d : Nat} (h : 105 ≤ d) :
    doThermalTrip s p d = tripReported (inTrip (incSat (notePoint s p d) Reg.PWR.TRIP_COUNT 1)) (p / 4) := if_pos h

theorem yields_thermalTrip {s : State} {p : Fin 64} {d : Nat} (h : 105 ≤ d) :
    Yields (.thermalTrip p d) s (fun b => rd b (Reg.PWR.THERM_POINT p) = min d 255 ∧ b.power.tripped = true ∧
      rd b Reg.PWR.TRIP_COUNT = min (rd s.block Reg.PWR.TRIP_COUNT + 1) (2 ^ Reg.PWR.TRIP_COUNT.width - 1) ∧
      stickyBit b pwr ErrBit.PWR.THERM_TRIP = true ∧ (clus b (p / 4)).gateClosed.isSome = true) := by
  refine yields_run (f := fun t => doThermalTrip t p d) rfl ?_
  simp only [doThermalTrip_hot _ _ h]
  obtain ⟨hlo, hhi⟩ := point_key_range p.isLt
  have hcount : (Reg.PWR.THERM_POINT p).key ≠ Reg.PWR.TRIP_COUNT.key := by simp only [Field.key, Reg.PWR.TRIP_COUNT] at hlo ⊢; omega
  refine ⟨?_, by simp [tripReported, inTrip], ?_, stickyBit_tripReported _ _, ?_⟩
  · rw [rd_tripReported _ _ (by omega) (fun hk => by have := mem_raiseKeys_pwr _ hk; omega), rd_inTrip, rd_incSat_ne _ _ hcount,
      rd_notePoint_same _ _ p.isLt]
  · rw [rd_tripReported _ _ (by decide) (by decide), rd_inTrip, rd_incSat_same, rd_notePoint_of_lt _ _ _ (by decide) (by decide) (by decide)]
  · rw [tripReported, clus_charge]
    exact gateClosed_sagStop _ _ _

/-! ### The coolant (R319) -/

/-- The module with the coolant's two readings shown. -/
def coolantShown (s : Block) (inlet outlet : Nat) : Block :=
  wr (wr s Reg.PWR.COOLANT_INLET (min inlet 255)) Reg.PWR.COOLANT_OUTLET (min outlet 255)

theorem doCoolant_inRange (s : Block) {inlet : Nat} (outlet : Nat) (h : ¬ (inlet < 17 ∨ 45 < inlet)) :
    doCoolant s inlet outlet = coolantShown s inlet outlet := if_neg h

theorem doCoolant_outOfRange (s : Block) {inlet : Nat} (outlet : Nat) (h : inlet < 17 ∨ 45 < inlet) :
    doCoolant s inlet outlet = raisePage (coolantShown s inlet outlet) pwr ErrBit.PWR.COOLANT_RANGE := if_pos h

theorem yields_coolantRange {s : State} {inlet outlet : Nat} (hi : inlet < 256) (ho : outlet < 256) :
    Yields (.coolantRange inlet outlet) s (fun b => rd b Reg.PWR.COOLANT_INLET = inlet ∧ rd b Reg.PWR.COOLANT_OUTLET = outlet ∧
      (inlet < 17 ∨ 45 < inlet → stickyBit b pwr ErrBit.PWR.COOLANT_RANGE = true) ∧ memKept s.block b ∧ tablesKept s.block b ∧
      regsKept (Reg.PWR.COOLANT_INLET.key :: Reg.PWR.COOLANT_OUTLET.key :: reportKeys pwr) s.block b) := by
  refine yields_run (f := fun t => doCoolant t inlet outlet) rfl ?_
  have hin : rd (coolantShown s.block inlet outlet) Reg.PWR.COOLANT_INLET = inlet := by
    simp (disch := decide) only [coolantShown, rd_wr_ne, rd_wr_same]
    simp only [Reg.PWR.COOLANT_INLET]; omega
  have hout : rd (coolantShown s.block inlet outlet) Reg.PWR.COOLANT_OUTLET = outlet := by
    simp only [coolantShown, rd_wr_same, Reg.PWR.COOLANT_OUTLET]; omega
  have hmem : memKept s.block (coolantShown s.block inlet outlet) := memKept_wr (memKept_wr (memKept_refl _))
  have htab : tablesKept s.block (coolantShown s.block inlet outlet) := tablesKept_wr (tablesKept_wr (tablesKept_refl _))
  have hregs : regsKept (Reg.PWR.COOLANT_INLET.key :: Reg.PWR.COOLANT_OUTLET.key :: reportKeys pwr) s.block
      (coolantShown s.block inlet outlet) := regsKept_wr (by simp) (regsKept_wr (by simp) (regsKept_refl _ _))
  by_cases h : inlet < 17 ∨ 45 < inlet
  · simp only [doCoolant_outOfRange _ _ h]
    exact ⟨(rd_raisePage _ _ _ _ (by decide)).trans hin, (rd_raisePage _ _ _ _ (by decide)).trans hout,
      fun _ => stickyBit_raisePage_pwr _ (by decide), memKept_raisePage hmem, tablesKept_raisePage htab,
      regsKept_raisePage (fun _ hk => List.mem_cons_of_mem _ (List.mem_cons_of_mem _ hk)) hregs⟩
  · simp only [doCoolant_inRange _ _ h]
    exact ⟨hin, hout, fun h' => absurd h' h, hmem, htab, hregs⟩

/-! ### Temperatures of the memory units (R168) -/

/-- Stacks and channels show their temperature at the same offsets of their pages. -/
theorem regU_degc (u : Nat) : regU u Reg.HBM.TEMP_DEGC Reg.DDR.TEMP_DEGC = Reg.HBM.TEMP_DEGC (unitPage u) := by
  unfold regU
  split <;> rfl
theorem regU_overtemp (u : Nat) : regU u Reg.HBM.TEMP_OVERTEMP Reg.DDR.TEMP_OVERTEMP = Reg.HBM.TEMP_OVERTEMP (unitPage u) := by
  unfold regU
  split <;> rfl

theorem le_unitPage (u : Nat) : 0x50000 ≤ unitPage u := by
  unfold unitPage hbmPage ddrPage
  split <;> omega

/-- A report of a page past the management page writes no register of that page but its error record. -/
theorem notMem_raiseKeys_page {p : Nat} {f : Field} (o : Nat) (hp : 0x6000 ≤ p) (hf : f.addr = p + o)
    (ho : f.lsb < 32 ∧ o ≠ 0xC ∧ o ≠ 0x14 ∧ o ≠ 0x18) : f.key ∉ raiseKeys (pageRec p) := by
  simp only [raiseKeys, pageRec, ErrRec.sticky, ErrRec.first, ErrRec.firstTime, Field.key, Reg.HDR.ERR_STICKY, Reg.HDR.ERR_FIRST,
    Reg.HDR.ERR_FIRST_TIME, Reg.MGT.LOG_WRITTEN, Reg.MGT.LOG_OLDEST, Reg.PCI.EVT_WRITTEN, Reg.PCI.EVT_LOST, List.mem_cons,
    List.not_mem_nil, or_false, not_or]
  omega

/-- A page with a unit's temperature shown, and OVERTEMP following it. -/
def tempShown (s : Block) (p d : Nat) : Block :=
  live (wr (wr s (Reg.HBM.TEMP_DEGC p) (min d 255)) (Reg.HBM.TEMP_OVERTEMP p) (b2n (decide (95 ≤ d)))) p ErrBit.HBM.OVERTEMP (decide (95 ≤ d))

theorem doMemTemp_eq (s : Block) (u d : Nat) : doMemTemp s u d = refreshMemHot (tempShown s (unitPage u) d) := by
  simp only [doMemTemp, regU_degc, regU_overtemp, tempShown]

theorem rd_refreshMemHot (s : Block) {f : Field} (h : 0x6000 * 32 ≤ f.key) : rd (refreshMemHot s) f = rd s f := by
  have hne : ∀ k, k < 0x6000 * 32 → f.key ≠ k := fun k hk e => by omega
  rw [refreshMemHot, rd_live _ _ _ _ _ (notMem_raiseKeys_pwr h) (hne _ (by decide)), rd_wr_ne _ _ (hne _ (by decide))]

theorem rd_tempShown_degc (s : Block) {p : Nat} (d : Nat) (hp : 0x6000 ≤ p) : rd (tempShown s p d) (Reg.HBM.TEMP_DEGC p) = min d 255 := by
  rw [tempShown, rd_live _ _ _ _ _ (notMem_raiseKeys_page 0x44 hp rfl (by simp [Reg.HBM.TEMP_DEGC])), rd_wr_ne, rd_wr_same]
  · simp only [Reg.HBM.TEMP_DEGC]; omega
  · simp only [Field.key, Reg.HBM.TEMP_DEGC, Reg.HBM.TEMP_OVERTEMP]; omega
  · simp only [Field.key, Reg.HBM.TEMP_DEGC, Reg.HDR.STATUS]; omega

theorem rd_tempShown_overtemp (s : Block) {p : Nat} (d : Nat) (hp : 0x6000 ≤ p) :
    rd (tempShown s p d) (Reg.HBM.TEMP_OVERTEMP p) = if 95 ≤ d then 1 else 0 := by
  rw [tempShown, rd_live _ _ _ _ _ (notMem_raiseKeys_page 0x44 hp rfl (by simp [Reg.HBM.TEMP_OVERTEMP])), rd_wr_same]
  · by_cases h : 95 ≤ d <;> simp [h, b2n, Reg.HBM.TEMP_OVERTEMP]
  · simp only [Field.key, Reg.HBM.TEMP_OVERTEMP, Reg.HDR.STATUS]; omega

theorem isLive_tempShown (s : Block) {p : Nat} (d : Nat) (hp : 0x6000 ≤ p) :
    isLive (tempShown s p d) p ErrBit.HBM.OVERTEMP = decide (95 ≤ d) :=
  isLive_live _ _ _ _ (by decide) (notMem_raiseKeys_page 0x8 hp rfl (by simp [Reg.HDR.STATUS]))

theorem yields_memoryOvertemp (s : State) (u : MemUnit) (d : Nat) :
    Yields (.memoryOvertemp u d) s (fun b => memTemp b (unitNum u) = min d 255 ∧
      rd b (regU (unitNum u) Reg.HBM.TEMP_OVERTEMP Reg.DDR.TEMP_OVERTEMP) = (if 95 ≤ d then 1 else 0) ∧
      isLive b (unitPage (unitNum u)) ErrBit.HBM.OVERTEMP = decide (95 ≤ d) ∧ memKept s.block b) := by
  refine yields_run (f := fun t => doMemTemp t (unitNum u) d) rfl ?_
  simp only [doMemTemp_eq, memTemp, regU_degc, regU_overtemp]
  have hp := le_unitPage (unitNum u)
  have hlow : 0x6000 ≤ unitPage (unitNum u) := by omega
  refine ⟨?_, ?_, ?_, ?_⟩
  · rw [rd_refreshMemHot _ (by simp only [Field.key, Reg.HBM.TEMP_DEGC]; omega), rd_tempShown_degc _ _ hlow]
  · rw [rd_refreshMemHot _ (by simp only [Field.key, Reg.HBM.TEMP_OVERTEMP]; omega), rd_tempShown_overtemp _ _ hlow]
  · rw [isLive_congr (rd_refreshMemHot _ (by simp only [Field.key, Reg.HDR.STATUS]; omega)), isLive_tempShown _ _ hlow]
  · exact memKept_live (memKept_wr (memKept_live (memKept_wr (memKept_wr (memKept_refl _)))))

/-- Settles O6: one rule for each of the eight events, in the order of the statement. -/
theorem supplyAndTemperaturesAreWatched : Obligations.SupplyAndTemperaturesAreWatched :=
  ⟨fun _ _ => yields_sagWarn, fun _ _ => yields_sagClear, fun _ _ => yields_overvolt, fun _ _ _ _ => yields_powerWindowEnd,
    fun _ _ _ _ _ _ => yields_thermalSample, fun _ _ _ => yields_thermalTrip, fun _ _ _ => yields_coolantRange, yields_memoryOvertemp⟩

end Sys2Proof.Machine
end

