-- ==== Sys2Proof/Proofs/PairReads.lean ====
section
/-! PROOF. Pair reads (R78, R370): a requester's latch of a pair is its own, and a `_LO` read writes that latch and the reply alone; an
unaligned one writes none and reports (R352, R369). -/

namespace Sys2Proof.Machine

/-! ### The latches -/

/-- Each requester has a latch of its own for each pair (R370): host latches lie at even keys, management latches at odd ones. -/
theorem latchKey_inj : ∀ {rq rq' : Requester} {a a' : Nat}, latchKey rq' a' = latchKey rq a → rq' = rq ∧ a' = a
  | .host, .host, _, _, h | .mgt, .mgt, _, _, h => ⟨rfl, by simp only [latchKey] at h; omega⟩
  | .host, .mgt, _, _, h | .mgt, .host, _, _, h => by simp only [latchKey] at h; omega

/-- A block with the pair at an address latched for a requester: the word of its `_HI` register. -/
def pairLatched (s : Block) (rq : Requester) (a : Nat) : Block :=
  { s with latches := Tab.put s.latches 0 (latchKey rq a) (readWord s (a + 4)) }

theorem hiRead_pairLatched_same (s : Block) (rq : Requester) (a : Nat) : hiRead (pairLatched s rq a) rq a = readWord s (a + 4) :=
  Tab.get_put_same _ _ _ _

theorem hiRead_pairLatched_ne (s : Block) {rq rq' : Requester} {a a' : Nat} (h : rq' ≠ rq ∨ a' ≠ a) :
    hiRead (pairLatched s rq a) rq' a' = hiRead s rq' a' :=
  Tab.get_put_ne _ _ _ _ (fun e => h.elim (absurd (latchKey_inj e).1) (absurd (latchKey_inj e).2))

/-! ### What a read of a `_LO` register does -/

/-- An aligned read of a pair latches it, and replies with both words. -/
theorem doPairRead_pair {s : Block} {rq : Requester} {a : Nat} {f : Field} (ha : a % 4 = 0) (hf : pairAt a = some f) :
    doPairRead s rq a = { pairLatched s rq a with reply := [readWord s a, readWord s (a + 4)] } := by
  rw [← hiRead_pairLatched_same s rq a]
  simp [doPairRead, ha, hf, pairLatched]

theorem doPairRead_unaligned {s : Block} {rq : Requester} {a : Nat} (ha : a % 4 ≠ 0) :
    doPairRead s rq a = { raisePage s pci ErrBit.PCI.BAD_ACCESS with reply := [0] } := if_pos ha

theorem yields_pairLoRead_pair {s : State} {rq : Requester} {a : BitVec 26} {f : Field} (ha : a.toNat % 4 = 0)
    (hf : pairAt a.toNat = some f) :
    Yields (.pairLoRead rq a) s (fun b =>
      ({ s.block with latches := b.latches, reply := [readWord s.block a.toNat, readWord s.block (a.toNat + 4)] } : Block) = b ∧
      hiRead b rq a.toNat = readWord s.block (a.toNat + 4) ∧
      ∀ (rq' : Requester) (a' : Nat), rq' ≠ rq ∨ a' ≠ a.toNat → hiRead b rq' a' = hiRead s.block rq' a') := by
  refine yields_run (f := fun t => doPairRead t rq a.toNat) rfl ?_
  rw [doPairRead_pair ha hf]
  exact ⟨rfl, hiRead_pairLatched_same _ _ _, fun _ _ => hiRead_pairLatched_ne _⟩

theorem yields_pairLoRead_unaligned {s : State} {rq : Requester} {a : BitVec 26} (ha : a.toNat % 4 ≠ 0) :
    Yields (.pairLoRead rq a) s (fun b => b.reply = [0] ∧ stickyBit b pci ErrBit.PCI.BAD_ACCESS = true ∧ memKept s.block b ∧
      regsKept (reportKeys pci) s.block b) := by
  refine yields_run (f := fun t => doPairRead t rq a.toNat) rfl ?_
  rw [doPairRead_unaligned ha]
  have hbit : stickyBit (raisePage s.block pci ErrBit.PCI.BAD_ACCESS) pci ErrBit.PCI.BAD_ACCESS = true :=
    bit_raise_same _ (pageRec pci) (by decide) (by decide)
  have hmem : memKept s.block (raisePage s.block pci ErrBit.PCI.BAD_ACCESS) := memKept_raisePage (memKept_refl _)
  have hregs : regsKept (reportKeys pci) s.block (raisePage s.block pci ErrBit.PCI.BAD_ACCESS) :=
    regsKept_raisePage (fun _ hk => hk) (regsKept_refl _ _)
  exact ⟨rfl, hbit, hmem, hregs⟩

/-- Settles O54: an aligned read of a pair writes its requester's latch and the reply alone; an unaligned one only reports. -/
theorem pairReadsLatchForTheirRequesterAlone : Obligations.PairReadsLatchForTheirRequesterAlone :=
  ⟨fun _ _ _ _ => yields_pairLoRead_pair, fun _ _ _ => yields_pairLoRead_unaligned⟩

end Sys2Proof.Machine
end
